-- ==== Sys2Proof/Word.lean ====
section
/-!
DEFINITION. The word types of the block and the plain operand types its commands carry. Unit numbers are those of R6
(Table 0.5). A 64-byte structure of the spec is a `BitVec 512` whose byte 0 is least significant (multi-byte values are
little-endian, 00_scope.md, Writing conventions).
-/

namespace Sys2Proof

abbrev Byte := BitVec 8
abbrev Word := BitVec 64
/-- A 64-byte descriptor, command, header or control block (R22, R32, R62, R155, R430). -/
abbrev Block64 := BitVec 512
/-- A 16-byte record or message (R272, R377, R395). -/
abbrev Block16 := BitVec 128
/-- A flit on a fibre (R309). -/
abbrev Flit := BitVec 2048

abbrev Cluster := Fin 96
abbrev Die := Fin 4
abbrev Tile := Fin 32
abbrev Engine := Fin 4
abbrev Port := Fin 32
abbrev Channel := Fin 640

/-- A physical finding on an access: bytes of an array codeword in error (Table 7.3), or a dirty line of the slice that
SECDED cannot correct (R210). -/
inductive Finding where
  | array (bytes : Nat)
  | line
  deriving DecidableEq, Repr

/-- Findings of an access by codeword number (DPA or HPA div 32) (R215, R216). A codeword not named has none. -/
abbrev Errs := List (Nat × Finding)

/-- The units that read and write memory, as R201 and Table 6.12 name the consumers. -/
inductive Client where
  | stream (c : Cluster) (e : Fin 8)
  | requant (c : Cluster)
  | comet (c : Cluster)
  | sequencer (c : Cluster)
  | vector (c : Cluster) (v : Engine)
  | update (e : Fin 8)
  | coll (d : Die)
  | steward
  | core
  | pcie
  deriving DecidableEq, Repr

/-- A management command reaches the device in an I3C private write, or waits at the head of the management queue
where a ring of class 4 put it (R429, R270). -/
inductive Mgmt where
  | i3c (cmd : Block64) (args : List Byte)
  | ring
  deriving DecidableEq, Repr

/-- A clock region: a cluster's, or a compute die's fabric (R406). -/
inductive Region where
  | cluster (c : Cluster)
  | fabric (d : Die)
  deriving DecidableEq, Repr

/-- A cell whose residue check fails (R111), and the k-steps and time-skipped intervals its pass had issued by then. -/
structure CellFault where
  row : Fin 32
  col : Fin 32
  ksteps : Nat
  skips : Nat
  deriving DecidableEq, Repr

/-- What an engine's residue check finds wrong (R146): the element of a lane, or the scalar source. -/
inductive BadEl where
  | lane (l : Fin 256)
  | scalar
  deriving DecidableEq, Repr

/-- Element type of a reduction (Table 7.1). -/
inductive Elem where
  | i32
  | i64
  deriving DecidableEq, Repr

/-- Why a port enters RETRAIN (R313), in the order of the rule's list. -/
inductive RetrainCause where
  | retransmissions | ackStalled | noWavelength | deskewLost | silence
  deriving DecidableEq, Repr

/-- What the steps of Table 10.3 find at a port (R305, R306): a signal; codeword lock of some wavelengths; deskew of some;
the peer's rank and port with the measured loop time; and whether the test flits passed under the keys. -/
inductive TrainObs where
  | signal
  | locked (w : BitVec 8)
  | deskewed (w : BitVec 8)
  | paired (peerRank : BitVec 12) (peerPort : BitVec 5) (loopNs : BitVec 16)
  | proven (ok : Bool)
  deriving DecidableEq, Repr

/-- How a codeword decodes (R302, R307). -/
inductive Fec where
  | clean | corrected | uncorrectable
  deriving DecidableEq, Repr

/-- Fields of a TIME flit (R333, Table 10.12). A request carries only its kind. -/
inductive TimeFlit where
  | request
  | reply (t2 t3 : BitVec 64) (depth : BitVec 8) (locked : Bool)
  deriving DecidableEq, Repr

/-- A message of R320 as it leaves the flit layer: sender's rank, header fields (Table 10.8) and data. -/
structure Msg where
  src : BitVec 12
  group : BitVec 8
  cgen : BitVec 16
  cseq : BitVec 32
  chunk : BitVec 32
  offset : Nat
  last : Bool
  digValid : Bool
  dig : BitVec 64
  data : List Byte
  deriving DecidableEq, Repr

/-- What an evaluation of the arbiter measures (R359, R373): the voltage in mV and the current in mA of every rail at each
sample since the last evaluation, latest sample first; and in W the forecast P_fc, the power of the four dies' cluster
meshes and HBM power above refresh. -/
structure PowerMeas where
  samples : List (List (Nat × Nat))
  pfc : Nat
  mesh : Vector Nat 4
  hbm : Nat
  deriving DecidableEq, Repr

/-- What the model update of R389 measures: power of each cluster over the last 100 µs in mW, and the measured vector,
stream and uncore power of each cluster's share over the last 1 ms in mW. -/
structure ThermMeas where
  power : List (Nat × Nat)
  other : List (Nat × Nat)
  deriving DecidableEq, Repr

/-- Findings of a start (Table 15.5): the first step that fails, if one does; for a cold start the phase tests
(cluster, failed phases), the channels that fail training, and the windows that the margin runs measure (read and write
timing, read and write reference voltage, VDDQ, as in MEM_MGRES; a channel not listed meets Table 7.7); the SVN found in each firmware bank
with the verdict of its signature (R433); the measured components M0 to M5 (R434). -/
structure StartObs where
  fail : Option Nat
  phases : List (Nat × BitVec 16)
  untrained : List Channel
  margins : List (Channel × BitVec 40)
  bankOk : Vector Bool 2
  svn : Vector (BitVec 16) 2
  comps : Vector (List Byte) 6
  deriving DecidableEq, Repr

end Sys2Proof
end

