-- ==== Sys2Proof/Syntax.lean ====
section
/-!
DEFINITION. The commands of the block: one constructor for each row of spec/opcode_table.json, in the table's order. The
table gives no operand bits; operands are what the row's rule names: a unit, a descriptor, an address and value, or the
physical finding that a unit acts on (log 15).
-/

namespace Sys2Proof

inductive Instr where
  -- Queue port and work descriptors (R154, R156). `n` is the issue number of a descriptor in flight.
  | issue (c : Cluster) (q : Fin 8) (desc : Block64) (errs : Errs)
  | tileOp (c : Cluster) (n : Nat)
  | tileCmp (c : Cluster) (n : Nat)
  | vecProg (c : Cluster) (n : Nat) (errs : Errs)
  | copy (c : Cluster) (n : Nat) (errs : Errs)
  | place (c : Cluster) (n : Nat) (errs : Errs)
  | gather (c : Cluster) (n : Nat) (errs : Errs)
  | scatter (c : Cluster) (n : Nat) (errs : Errs)
  | ckbuild (c : Cluster) (n : Nat) (errs : Errs)
  | comet (c : Cluster) (n : Nat) (errs : Errs)
  | sync (c : Cluster) (n : Nat)
  | syncReset (c : Cluster) (n : Nat)
  | cbLoad (c : Cluster) (n : Nat) (errs : Errs)
  | codebookSwitch
  | phase (c : Cluster) (q : Fin 8) (desc : Block64)
  -- Collectives (R323). `k` is the engine's number of a collective in flight.
  | collRs (d : Die) (k : Nat) (fault : Bool) (errs : Errs)
  | collAg (d : Die) (k : Nat) (errs : Errs)
  | collA2a (d : Die) (k : Nat) (errs : Errs)
  | collAllred (d : Die) (k : Nat) (fault : Bool) (errs : Errs)
  | collPut (d : Die) (k : Nat) (report : Option Bool) (errs : Errs)
  | collSignal (d : Die) (k : Nat) (errs : Errs)
  -- Sequencing and tiles
  | dispatch (c : Cluster) (q : Fin 8) (errs : Errs)
  | descriptorComplete (c : Cluster) (n : Nat) (busy : Nat)
  | noticeWithdrawal (c : Cluster)
  | forecastCoverMature (c : Cluster)
  | decoderTableLoad (c : Cluster) (t : Tile)
  | preload (c : Cluster) (t : Tile)
  | passStart (c : Cluster) (t : Tile) (fault : Option CellFault)
  | passEnd (c : Cluster) (t : Tile)
  | tileClockGate (c : Cluster) (t : Tile)
  | passDrain (c : Cluster) (t : Tile)
  | requantiseUnit (c : Cluster) (n : Nat) (fault : Bool) (errs : Errs)
  -- Vector engine instructions (R129): the engine issues the instruction at its program counter. `bad` is a lane whose
  -- residue check fails (R146).
  | vld (c : Cluster) (v : Engine)
  | vldq (c : Cluster) (v : Engine)
  | vdrn (c : Cluster) (v : Engine)
  | vstq (c : Cluster) (v : Engine) (bad : Option BadEl)
  | vldx (c : Cluster) (v : Engine)
  | vstx (c : Cluster) (v : Engine) (bad : Option BadEl)
  | vmov (c : Cluster) (v : Engine)
  | vbcast (c : Cluster) (v : Engine)
  | vins (c : Cluster) (v : Engine)
  | viota (c : Cluster) (v : Engine)
  | vscale (c : Cluster) (v : Engine)
  | vadd (c : Cluster) (v : Engine)
  | vsub (c : Cluster) (v : Engine)
  | vmul (c : Cluster) (v : Engine)
  | vmull (c : Cluster) (v : Engine)
  | vmad (c : Cluster) (v : Engine)
  | vmax (c : Cluster) (v : Engine)
  | vmin (c : Cluster) (v : Engine)
  | vabs (c : Cluster) (v : Engine)
  | vneg (c : Cluster) (v : Engine)
  | valign (c : Cluster) (v : Engine) (bad : Option BadEl)
  | vnarw (c : Cluster) (v : Engine) (bad : Option BadEl)
  | vwide (c : Cluster) (v : Engine)
  | vunpk (c : Cluster) (v : Engine)
  | vcmp (c : Cluster) (v : Engine)
  | vsel (c : Cluster) (v : Engine)
  | vmset (c : Cluster) (v : Engine)
  | vmop (c : Cluster) (v : Engine)
  | vexp2 (c : Cluster) (v : Engine) (bad : Option BadEl)
  | vrcp (c : Cluster) (v : Engine) (bad : Option BadEl)
  | vrsq (c : Cluster) (v : Engine) (bad : Option BadEl)
  | vsqrt (c : Cluster) (v : Engine) (bad : Option BadEl)
  | vrsum (c : Cluster) (v : Engine) (bad : Option BadEl)
  | vrssq (c : Cluster) (v : Engine) (bad : Option BadEl)
  | vrmv (c : Cluster) (v : Engine) (bad : Option BadEl)
  | vrmax (c : Cluster) (v : Engine) (bad : Option BadEl)
  | vrmin (c : Cluster) (v : Engine) (bad : Option BadEl)
  | vramax (c : Cluster) (v : Engine) (bad : Option BadEl)
  | vrcnt (c : Cluster) (v : Engine)
  | smovi (c : Cluster) (v : Engine)
  | sscale (c : Cluster) (v : Engine)
  | sadd (c : Cluster) (v : Engine)
  | ssub (c : Cluster) (v : Engine)
  | smul (c : Cluster) (v : Engine)
  | smax (c : Cluster) (v : Engine)
  | smin (c : Cluster) (v : Engine)
  | saddi (c : Cluster) (v : Engine)
  | smv (c : Cluster) (v : Engine) (bad : Option BadEl)
  | srcp (c : Cluster) (v : Engine) (bad : Option BadEl)
  | srsq (c : Cluster) (v : Engine) (bad : Option BadEl)
  | ssqrt (c : Cluster) (v : Engine) (bad : Option BadEl)
  | sput (c : Cluster) (v : Engine)
  | vloop (c : Cluster) (v : Engine)
  | vend (c : Cluster) (v : Engine)
  -- Control core, synchronisation, replay
  | controlCoreTrap (c : Cluster) (pc cause : BitVec 32)
  | localWaitArm (c : Cluster) (obj : BitVec 14) (gen : BitVec 16) (thr : BitVec 32)
  | summaryPop (c : Cluster) (v : Engine)
  | signalApply (i : Nat)
  | syncObjectReset (o : Fin 16384)
  | replayAbort
  | replayRestart
  -- Rings and steward commands. `k` is the number of a steward command waiting in the unit.
  | producerDoorbell (ring : Fin 65536) (off : BitVec 12) (size : Nat) (value : Word) (errs : Errs)
  | completionDoorbell (ring : Fin 65536) (value : Word) (errs : Errs)
  | ringFetch (ring : Fin 65536) (errs : Errs)
  | ccLoad (k : Nat) (errs : Errs)
  | ccStart (k : Nat)
  | ccStop (k : Nat)
  | updPrep (k : Nat) (e : Fin 8) (errs : Errs)
  | updApply (k : Nat) (e : Fin 8) (errs : Errs)
  | updCommit (k : Nat) (cut : Bool) (errs : Errs)
  -- Memory
  | hostMemoryAccess (who : Client) (hpa : Nat) (write : Option (List Byte)) (len : Nat) (cls : BitVec 4) (errs : Errs)
  | pcieEndpointRead (hpa : Nat) (len : Nat) (errs : Errs)
  | pcieEndpointWrite (hpa : Nat) (data : List Byte) (errs : Errs)
  | homeSliceAccess (who : Client) (dpa : Nat) (write : Option (List Byte)) (len : Nat) (cls : BitVec 4) (errs : Errs)
  | radd (who : Client) (dpa : Nat) (ty : Elem) (lanes : List Int) (errs : Errs)
  | rmax (who : Client) (dpa : Nat) (ty : Elem) (lanes : List Int) (errs : Errs)
  | rmin (who : Client) (dpa : Nat) (ty : Elem) (lanes : List Int) (errs : Errs)
  | ror (who : Client) (dpa : Nat) (lanes : List Word) (errs : Errs)
  | aadd (who : Client) (dpa : Nat) (v : Word) (errs : Errs)
  | aswap (who : Client) (dpa : Nat) (v : Word) (errs : Errs)
  | acas (who : Client) (dpa : Nat) (cmp v : Word) (errs : Errs)
  | combiningEntryClose (line : Nat) (errs : Errs)
  | scrubRead (ch : Channel) (word : Nat) (bad : Nat) (raced : Bool)
  | rowRepair (ch : Channel)
  | mapoutFlush (errs : Errs)
  | mapoutDone
  | marginRunStart (value : BitVec 32)
  | marginRunDone (rdt wrt rdv wrv vddq : BitVec 8)
  -- Links
  | linkTraining (p : Port) (obs : TrainObs)
  | trainingTimeout (p : Port)
  | trainingRetry (p : Port)
  | portEnable (p : Port) (value : BitVec 32)
  | lightLoss (oe : Fin 8) (below : BitVec 8)
  | wavelengthFailure (p : Port) (w : Fin 8) (lost : Bool)
  | dataFlitTransmit (p : Port) (vc : Fin 4)
  | dataFlitReceive (p : Port) (flit : Flit)
  | nak (p : Port) (flit : Flit)
  | credits (p : Port) (flit : Flit)
  | time (p : Port) (flit : Flit)
  | lane (p : Port) (flit : Flit)
  | rekey (p : Port) (flit : Flit)
  | creditsIdle (p : Port)
  | ackKeepalive (p : Port)
  | keyDiscard (p : Port)
  | lnkCtlRekey (value : BitVec 32)
  | retrain (p : Port) (why : RetrainCause)
  | retrainTimeout (p : Port)
  | failedPortRetry (p : Port)
  | rsPartial (d : Die) (m : Msg) (fault : Bool) (errs : Errs)
  | rsResultToTwin (d : Die) (m : Msg) (errs : Errs)
  | agData (d : Die) (m : Msg) (errs : Errs)
  | a2aRows (d : Die) (m : Msg) (errs : Errs)
  | allredUp (d : Die) (m : Msg) (fault : Bool) (errs : Errs)
  | allredDown (d : Die) (m : Msg) (errs : Errs)
  | put (d : Die) (m : Msg) (errs : Errs)
  | signal (d : Die) (m : Msg)
  | fetch (d : Die) (m : Msg) (errs : Errs)
  | collectiveTimeout (d : Die) (k : Nat)
  | timeExchange
  | timeLockTimeout
  | linkQualification (p : Port) (ber : BitVec 8)
  -- Power, clocks, thermal
  | arbiterEvaluation (m : PowerMeas)
  | pointFall (c : Cluster)
  | frequencyChangeStop (r : Region)
  | frequencyStopRelease (r : Region) (locked aligned : Bool)
  | phaseFailure (c : Cluster) (k : Fin 16)
  | uncoreRegulatorFailure (d : Die)
  | connectionSense (d : Die) (point : Fin 64) (drop amps : Nat) (temp : Int)
  | connectionClear (value : BitVec 32)
  | twilightEntry (c : Cluster)
  | dawnGrant (c : Cluster)
  | dawnComplete (c : Cluster) (aligned : Bool)
  | envelope (msg : Block16)
  | envelopeLapse
  | shedNAssert
  | shedNRelease
  | vrAlertNAssert (d : Die)
  | vrAlertNRelease (d : Die)
  | loadForecastFrame (fc : Nat)
  | coolFailNAssert (errs : Errs)
  | sensorReading (h : Fin 97) (b : Bool) (reading : BitVec 11) (counted : Bool) (errs : Errs)
  | sensorDisagreement (h : Fin 97)
  | thermalModelUpdate (m : ThermMeas) (errs : Errs)
  | stackTemperature (s : Fin 20) (temp : BitVec 11) (errs : Errs)
  | coolantTelemetry (msg : Block16) (errs : Errs)
  | telemetryLapse
  | heatBalanceCheck
  | thermtrip
  | setupAccessTimeout
  | refclkLoss (errs : Errs)
  -- Start-up
  | powerUp (rail : Fin 13)
  | coreRailLoss (rail : Fin 13)
  | resetNFall (errs : Errs)
  | resetNRise
  | startComplete (obs : StartObs) (errs : Errs)
  -- Management commands
  | getStatus (m : Mgmt)
  | getNonce (m : Mgmt)
  | getQuote (m : Mgmt)
  | getCerts (m : Mgmt)
  | openSession (m : Mgmt)
  | closeSession (m : Mgmt)
  | run (m : Mgmt)
  | hold (m : Mgmt)
  | drain (m : Mgmt)
  | extend (m : Mgmt)
  | start (m : Mgmt) (errs : Errs)
  | clearMaprec (m : Mgmt)
  | provisionKey (m : Mgmt)
  | setPassword (m : Mgmt)
  | fwWrite (m : Mgmt) (verifies : Bool)
  | advanceSvn (m : Mgmt)
  | sessionIdleTimeout
  | proofRefusalExpiry (ring : Bool)
  | dynamicAddressAssignment (addr : BitVec 7)
  -- Set-up registers, epochs, events
  | stagedRegisterWrite (addr : Nat) (size : Nat) (value : Word)
  | check (value : BitVec 32)
  | epochCheckComplete (errs : Errs)
  | apply (value : BitVec 32)
  | discard (value : BitVec 32)
  | epochInstant (errs : Errs)
  | eventRecord (unit : Nat)
  | evtConsWrite (value : BitVec 32)
  | registerWrite (addr : Nat) (size : Nat) (value : Word)
  -- Test access port
  | idcode
  | samplePreload (pins scanIn : BitVec 1208)
  | extest (pins : BitVec 1208)
  | extestPulse (pins : BitVec 1208)
  | extestTrain (pins : BitVec 1208)
  | clamp
  | highz
  | mbist (unit : Fin 5) (failing repairable : BitVec 16)
  | retread (sel : BitVec 16)
  | scan
  | bypass (code : BitVec 8)
  | laneWord (p : Port) (w : Fin 8) (word : BitVec 20) (fec : Fec)
  | vauxRemoved
  | powerDown (rail : Fin 13)
  | cqconsWrite (c : Cluster) (value : BitVec 8)
  | noticeLeadElapsed (c : Cluster)
  deriving DecidableEq, Repr

end Sys2Proof
end

