-- ==== Sys2Proof/Machine/Arith.lean ====
section
/-!
DEFINITION. The exact integer arithmetic of the device (chapters 1, 2 and 4): byte strings and fields, rounding on the
shift, noise keys, rotation, the fixed functions of the vector engines, the digest of R278 and the checksums CRC-32C,
CRC-32, CRC-16 and CRC-8. Nothing here depends on the state.
-/

namespace Sys2Proof.Machine

/-- Bits [lo + len - 1 : lo] of a word, as a number. -/
def fld {n : Nat} (w : BitVec n) (lo len : Nat) : Nat := (w.toNat >>> lo) % 2 ^ len

/-- Bits of a number. -/
def bitsOf (w lo len : Nat) : Nat := (w >>> lo) % 2 ^ len

/-- A word with bits [lo + len - 1 : lo] replaced by the low bits of `v`. -/
def setBits (w lo len v : Nat) : Nat :=
  w - (bitsOf w lo len) * 2 ^ lo + (v % 2 ^ len) * 2 ^ lo

/-- Two's-complement reading of the low `n` bits of `v`. -/
def sx (n v : Nat) : Int :=
  let u := v % 2 ^ n
  if u < 2 ^ (n - 1) then (u : Int) else (u : Int) - (2 ^ n : Nat)

/-- The `n` low bits of an integer. -/
def trunc (n : Nat) (x : Int) : Nat := (x % ((2 ^ n : Nat) : Int)).toNat

/-- Number of a little-endian byte string. -/
def leNat : List Byte → Nat
  | [] => 0
  | b :: t => b.toNat + 256 * leNat t

/-- The `n` bytes of a number, little-endian. -/
def natLe : Nat → Nat → List Byte
  | 0, _ => []
  | n + 1, v => BitVec.ofNat 8 v :: natLe n (v / 256)

/-- The `n` bytes of a number, big-endian. -/
def natBe (n v : Nat) : List Byte := (natLe n v).reverse

/-- `len` bytes of a byte string from `i`, as a little-endian number. -/
def leAt (bs : List Byte) (i len : Nat) : Nat := leNat ((bs.drop i).take len)

/-- Byte string of a 64-byte structure. -/
def blockBytes (b : Block64) : List Byte := natLe 64 b.toNat

/-- The 64-byte structure of a byte string. -/
def blockOf (bs : List Byte) : Block64 := BitVec.ofNat 512 (leNat (bs.take 64))

def ceilDiv (a b : Nat) : Nat := (a + b - 1) / b

/-- floor(log2 n) of a non-zero number. -/
def flog2 (n : Nat) : Nat := Nat.log2 n

/-- Insertion into a list ordered by `le`, before the first element that `x` does not follow. -/
def insertBy {α : Type} (le : α → α → Bool) (x : α) : List α → List α
  | [] => [x]
  | y :: t => if le x y then x :: y :: t else y :: insertBy le x t

/-- Stable insertion sort. -/
def sortBy {α : Type} (le : α → α → Bool) (l : List α) : List α := l.foldr (insertBy le) []

/-- Largest t below 2^k with t * t at most n. -/
def isqrtAux (n : Nat) : Nat → Nat → Nat
  | 0, t => t
  | k + 1, t =>
    let u := t + 2 ^ k
    isqrtAux n k (if u * u ≤ n then u else t)

def isqrt (n : Nat) : Nat := isqrtAux n (n.log2 / 2 + 1) 0

/-- Shift of an integer by s: to the left for s at most 0, else by division towards negative infinity. -/
def ishr (x : Int) (s : Int) : Int :=
  if s ≤ 0 then x * (2 ^ (-s).toNat : Nat) else x.fdiv ((2 ^ s.toNat : Nat) : Int)

/-- Nearer limit of a signed width and whether it was taken (R125). -/
def clampTo (n : Nat) (x : Int) : Int × Bool :=
  let hi : Int := ((2 ^ (n - 1) : Nat) : Int) - 1
  if x > hi then (hi, true) else if x < -hi - 1 then (-hi - 1, true) else (x, false)

/-- Round-half-to-even of x shifted right by s (R66). -/
def rne (x : Int) (s : Int) : Int :=
  if s ≤ 0 then ishr x s
  else
    let d : Int := ((2 ^ s.toNat : Nat) : Int)
    let q := x.fdiv d
    let r := x - q * d
    if 2 * r < d then q else if 2 * r > d then q + 1 else if q % 2 = 0 then q else q + 1

/-- The mixing function of R67. -/
def noiseMix (z : BitVec 64) : BitVec 64 :=
  let a := (z ^^^ (z >>> 31)) * 0xA3B195C44D27E86B#64
  let b := (a ^^^ (a >>> 29)) * 0xE7F231C958A03D35#64
  b ^^^ (b >>> 32)

/-- The key value of an element (R67). -/
def noiseKey (nseed : BitVec 64) (tid index step : Nat) : Nat :=
  let z := noiseMix (nseed ^^^ BitVec.ofNat 64 (tid * 2 ^ 48) ^^^ BitVec.ofNat 64 step)
  (noiseMix (z ^^^ BitVec.ofNat 64 index)).toNat / 2 ^ 32

/-- Keyed stochastic rounding with key value r (R67). -/
def rks (r : Nat) (x : Int) (s : Int) : Int :=
  if s ≤ 0 then ishr x s
  else
    let k := s.toNat
    let n := if k ≤ 32 then r / 2 ^ (32 - k) else r * 2 ^ (k - 32)
    (x + (n : Int)).fdiv ((2 ^ k : Nat) : Int)

/-- Rounding on the shift in the mode RMODE (R65): `key` is the element's key value. -/
def rshift (rmode key : Nat) (x : Int) (s : Int) : Int := if rmode = 1 then rks key x s else rne x s

/-- The signs of R74. -/
def rotSigns : Nat → BitVec 64 → List Int
  | 0, _ => []
  | n + 1, s =>
    let b := s.getLsbD 0
    let t := s >>> 1
    let t := if b then t ^^^ 0xD800000000000000#64 else t
    (if b then -1 else 1) :: rotSigns n t

def popcount : Nat → Nat → Nat
  | 0, _ => 0
  | k + 1, n => n % 2 + popcount k (n / 2)

/-- Rotation of a run of n elements (R74), without the exponent. -/
def rotate (rseed : BitVec 64) (xs : List Int) : List Int :=
  let zs := List.zipWith (· * ·) (rotSigns xs.length rseed) xs
  (List.range xs.length).map fun i =>
    (zs.zipIdx.foldl (fun a p => if popcount 8 (Nat.land i p.2) % 2 = 0 then a + p.1 else a - p.1) (0 : Int))

/-! ### Fixed functions of the vector engines (R136 to R141) -/

/-- Largest t below 2^k with t^64 at most m (the table TEXP of R136). -/
def root64 (m : Nat) : Nat → Nat → Nat
  | 0, t => t
  | k + 1, t =>
    let u := t + 2 ^ k
    root64 m k (if u ^ 64 ≤ m then u else t)

def texp (j : Nat) : Nat := root64 (2 ^ (1920 - j)) 31 0

/-- exp2neg (R136): result and saturation. -/
def exp2neg (x : Int) : Int × Bool :=
  if x > 0 then (2 ^ 31 - 1, true)
  else
    let u := (-x).toNat
    let n := u / 2 ^ 16
    let j := u / 2 ^ 10 % 64
    let d := u % 1024
    let c := d * 45426
    let p := 2 ^ 32 - c + c * c / 2 ^ 33
    let y := texp j * p / 2 ^ 32
    ((y / 2 ^ n : Nat), false)

/-- rcp (R137). -/
def rcpFn (a : Int) (f : Nat) : Int × Bool :=
  if a = 0 then (2 ^ 31 - 1, true)
  else
    let b := a.natAbs
    let l := flog2 b
    let m : Int := if l ≤ 30 then ((b * 2 ^ (30 - l) : Nat) : Int) else ((b / 2 ^ (l - 30) : Nat) : Int)
    let y0 : Int := ((2 ^ 38 / (256 + ((m.toNat / 2 ^ 22) - 256)) : Nat) : Int)
    let newton := fun (y : Int) => (y * (2 ^ 61 - m * y)).fdiv (2 ^ 60)
    let y := newton (newton y0)
    let t : Int := (f : Int) - 30 - (l : Int)
    let z := ishr y (-t)
    clampTo 32 (if a < 0 then -z else z)

/-- rsq without the clamp, for a above 0 (R138): the last shift count and the value before it. -/
def rsqCore (a : Nat) : Int × Int :=
  let l : Int := (flog2 a : Int)
  let s : Int := 2 * ((61 - l).fdiv 2)
  let m : Int := ishr (a : Int) (-s)
  let y0 : Int := (isqrt (2 ^ 66 / (64 + (m.toNat / 2 ^ 54 - 64))) : Nat)
  let newton := fun (y : Int) => (y * (3 * 2 ^ 120 - m * y * y)).fdiv (2 ^ 121)
  (s / 2, newton (newton y0))

/-- rsq (R138). -/
def rsqFn (a : Int) (f : Nat) : Int × Bool :=
  if a ≤ 0 then (2 ^ 31 - 1, true)
  else
    let (h, y) := rsqCore a.toNat
    clampTo 32 (ishr y (-(h - 60 + (f : Int))))

/-- Even-exponent form of an I64 operand of rsq and square root (R138): value, exponent, saturation. -/
def evenRx (a rx : Int) : Int × Int × Bool :=
  if rx % 2 = 0 then (a, rx, false)
  else
    let (b, f) := clampTo 64 (2 * a)
    (b, rx - 1, f)

/-- floor of the square root (R138). -/
def sqrtFn (a : Int) : Int × Bool :=
  if a < 0 then (0, true) else ((isqrt a.toNat : Nat), false)

/-- rsq of a value (a, rx) at the exponent of R138: the pair (r, rxr). -/
def rsqRx (a rx : Int) (f : Nat) : Int × Int :=
  let (b, r, _) := evenRx a rx
  ((rsqFn b f).1, -(r / 2) - (f : Int))

/-- Alignment of two values without limit (R124): both integers at the smaller exponent. -/
def alignTo (a ra b rb : Int) : Int × Int × Int :=
  let r := min ra rb
  (a * (2 ^ (ra - r).toNat : Nat), b * (2 ^ (rb - r).toNat : Nat), r)

/-- Alignment of one value to an exponent by R124 and R66 (VALIGN without limit). -/
def alignRx (x rx new : Int) : Int := rne x (new - rx)

/-- meanvar (R141): mean, variance, the common exponent RX2', saturation of each. -/
def meanVar (s1 rx1 s2 rx2 n : Int) (f : Nat) : (Int × Bool) × (Int × Bool) × Int :=
  let (q, w, r) := alignTo (s1 * s1) (2 * rx1) (n * s2) rx2
  if n < 1 then ((0, true), (0, true), r)
  else (clampTo 64 ((s1 * (2 ^ f : Nat)).fdiv n), clampTo 64 (((w - q) * (2 ^ f : Nat)).fdiv (n * n)), r)

/-! ### Digests and checksums -/

/-- The prime of R278. -/
def digP : Nat := 2 ^ 64 - 59

/-- The words of a byte string, with zero bytes completing the last (R278). -/
def digWords : Nat → List Byte → List Nat
  | 0, _ => []
  | n + 1, bs => match bs with
    | [] => []
    | _ => leNat (bs.take 8) :: digWords n (bs.drop 8)

/-- The digest with key k of a sequence of words (R278). -/
def digest (k : Nat) (ws : List Nat) : Nat :=
  ((ws.foldl (fun h w => (h * k + w + 1) % digP) 0) * k + ws.length) % digP

/-- The digest of a byte string. -/
def digestBytes (k : Nat) (bs : List Byte) : Nat := digest k (digWords (bs.length / 8 + 1) bs)

/-- One byte of a reflected CRC with polynomial `p`. -/
def crcBits (p : Nat) : Nat → Nat → Nat
  | 0, c => c
  | k + 1, c => crcBits p k (if c % 2 = 1 then Nat.xor (c / 2) p else c / 2)

def crcRefl (p init fin : Nat) (bs : List Byte) : Nat :=
  Nat.xor (bs.foldl (fun c b => crcBits p 8 (Nat.xor c b.toNat)) init) fin

/-- CRC-32C of R198. -/
def crc32c (bs : List Byte) : BitVec 32 := BitVec.ofNat 32 (crcRefl 0x82F63B78 0xFFFFFFFF 0xFFFFFFFF bs)

/-- CRC with polynomial `p` of width `w`, most significant bit first. -/
def crcMsb (w p init : Nat) (bs : List Bool) : Nat :=
  bs.foldl (fun c b =>
    let t := (bitsOf c (w - 1) 1 = 1) != b
    let s := (c * 2) % 2 ^ w
    if t then Nat.xor s p else s) init

/-- Bits of a byte string, most significant first in each byte. -/
def msbBits (bs : List Byte) : List Bool :=
  bs.flatMap fun b => (List.range 8).map fun i => b.getLsbD (7 - i)

end Sys2Proof.Machine
end

