-- ==== Sys2Proof/Machine/Crypto.lean ====
section
/-!
DEFINITION. The cryptographic functions that the device's rules name, over byte strings: SHA-256 and HMAC-SHA-256, the
counter-mode KDF, AES-256 with key unwrap, AES-GCM tags and CTR_DRBG. They are given by the standards that
00_scope.md lists (FIPS 180-4, 197, 198-1, SP 800-38D, 800-90A, 800-108, RFC 3394).
-/

namespace Sys2Proof.Machine

/-! ### SHA-256 -/

def shaK : List (BitVec 32) :=
  [0x428a2f98#32, 0x71374491#32, 0xb5c0fbcf#32, 0xe9b5dba5#32, 0x3956c25b#32, 0x59f111f1#32, 0x923f82a4#32, 0xab1c5ed5#32] ++
  [0xd807aa98#32, 0x12835b01#32, 0x243185be#32, 0x550c7dc3#32, 0x72be5d74#32, 0x80deb1fe#32, 0x9bdc06a7#32, 0xc19bf174#32] ++
  [0xe49b69c1#32, 0xefbe4786#32, 0x0fc19dc6#32, 0x240ca1cc#32, 0x2de92c6f#32, 0x4a7484aa#32, 0x5cb0a9dc#32, 0x76f988da#32] ++
  [0x983e5152#32, 0xa831c66d#32, 0xb00327c8#32, 0xbf597fc7#32, 0xc6e00bf3#32, 0xd5a79147#32, 0x06ca6351#32, 0x14292967#32] ++
  [0x27b70a85#32, 0x2e1b2138#32, 0x4d2c6dfc#32, 0x53380d13#32, 0x650a7354#32, 0x766a0abb#32, 0x81c2c92e#32, 0x92722c85#32] ++
  [0xa2bfe8a1#32, 0xa81a664b#32, 0xc24b8b70#32, 0xc76c51a3#32, 0xd192e819#32, 0xd6990624#32, 0xf40e3585#32, 0x106aa070#32] ++
  [0x19a4c116#32, 0x1e376c08#32, 0x2748774c#32, 0x34b0bcb5#32, 0x391c0cb3#32, 0x4ed8aa4a#32, 0x5b9cca4f#32, 0x682e6ff3#32] ++
  [0x748f82ee#32, 0x78a5636f#32, 0x84c87814#32, 0x8cc70208#32, 0x90befffa#32, 0xa4506ceb#32, 0xbef9a3f7#32, 0xc67178f2#32]

def shaInit : List (BitVec 32) :=
  [0x6a09e667#32, 0xbb67ae85#32, 0x3c6ef372#32, 0xa54ff53a#32, 0x510e527f#32, 0x9b05688c#32, 0x1f83d9ab#32, 0x5be0cd19#32]

/-- Message schedule, latest word first. -/
def shaSched : Nat → List (BitVec 32) → List (BitVec 32)
  | 0, w => w
  | n + 1, w =>
    let a := w.getD 14 0
    let b := w.getD 1 0
    let s0 := a.rotateRight 7 ^^^ a.rotateRight 18 ^^^ (a >>> 3)
    let s1 := b.rotateRight 17 ^^^ b.rotateRight 19 ^^^ (b >>> 10)
    shaSched n ((w.getD 15 0 + s0 + w.getD 6 0 + s1) :: w)

def shaRound (st : List (BitVec 32)) (kw : BitVec 32 × BitVec 32) : List (BitVec 32) :=
  match st with
  | [a, b, c, d, e, f, g, h] =>
    let s1 := e.rotateRight 6 ^^^ e.rotateRight 11 ^^^ e.rotateRight 25
    let ch := (e &&& f) ^^^ (~~~e &&& g)
    let t1 := h + s1 + ch + kw.1 + kw.2
    let s0 := a.rotateRight 2 ^^^ a.rotateRight 13 ^^^ a.rotateRight 22
    let mj := (a &&& b) ^^^ (a &&& c) ^^^ (b &&& c)
    [t1 + s0 + mj, a, b, c, d + t1, e, f, g]
  | _ => st

/-- Big-endian number of a byte string. -/
def beNat (bs : List Byte) : Nat := leNat bs.reverse

def shaBlock (st : List (BitVec 32)) (blk : List Byte) : List (BitVec 32) :=
  let w0 := (List.range 16).map fun i => BitVec.ofNat 32 (beNat ((blk.drop (4 * i)).take 4))
  let ws := (shaSched 48 w0.reverse).reverse
  List.zipWith (· + ·) st ((List.zip shaK ws).foldl shaRound st)

def shaBlocks : Nat → List (BitVec 32) → List Byte → List (BitVec 32)
  | 0, st, _ => st
  | n + 1, st, bs => shaBlocks n (shaBlock st (bs.take 64)) (bs.drop 64)

/-- SHA-256 of a byte string, as bytes. -/
def sha256 (m : List Byte) : List Byte :=
  let pad := (119 - m.length % 64) % 64
  let p := m ++ [0x80#8] ++ List.replicate pad 0 ++ natBe 8 (8 * m.length)
  (shaBlocks (p.length / 64) shaInit p).flatMap fun w => natBe 4 w.toNat

/-- A 256-bit value of 32 bytes, first byte most significant, and back. -/
def b256 (bs : List Byte) : BitVec 256 := BitVec.ofNat 256 (beNat (bs.take 32))
def bytes256 (x : BitVec 256) : List Byte := natBe 32 x.toNat

/-- HMAC-SHA-256 with a key of at most 64 bytes. -/
def hmac (key m : List Byte) : List Byte :=
  let k := key ++ List.replicate (64 - key.length) 0
  sha256 ((k.map (· ^^^ 0x5c#8)) ++ sha256 ((k.map (· ^^^ 0x36#8)) ++ m))

/-- SP 800-108 in counter mode with HMAC-SHA-256 for 256 bits: counter (32 bits, big-endian), label, zero byte, context,
length in bits. -/
def kdf (key label ctx : List Byte) : List Byte :=
  (hmac key (natBe 4 1 ++ label ++ [0] ++ ctx ++ natBe 4 256)).take 32

/-! ### AES-256

A block is held as the number of its bytes, the first byte lowest. -/

/-- f of a number that is worked out first: it is f n. -/
def eager {α : Type} (n : Nat) (f : Nat → α) : α :=
  match n with
  | 0 => f 0
  | m + 1 => f (m + 1)

/-- Byte i, and 32-bit word i, of a number, the lowest first. -/
def ent (t i : Nat) : Nat := (t.shiftRight (8 * i)).land 255
def word (w i : Nat) : Nat := w / 2 ^ (32 * i) % 2 ^ 32
/-- The number of n bytes. -/
def pack (n : Nat) (f : Nat → Nat) : Nat := (List.range n).foldr (fun i t => f i * 2 ^ (8 * i) + t) 0

/-- Twice a byte in the field of AES. -/
def xtime (a : Nat) : Nat := Nat.xor (2 * a) (a / 128 * 0x11b)

/-- Product in the field of AES with the lowest k bits of b. -/
def gmul : Nat → Nat → Nat → Nat
  | 0, _, _ => 0
  | k + 1, a, b => eager a fun a => Nat.xor (b % 2 * a) (gmul k (xtime a) (b / 2))

/-- a to the power 127 in the field of AES; its square is the inverse. -/
def ginvRoot (a : Nat) : Nat :=
  (List.range 6).foldl (fun r _ => eager r fun r => eager (gmul 8 r r) fun q => gmul 8 q a) a

def rotl8 (x k : Nat) : Nat := (x * 2 ^ k) % 256 + x / 2 ^ (8 - k)

def sbox (a : Nat) : Nat :=
  eager (ginvRoot a) fun c => eager (gmul 8 c c) fun b =>
    Nat.xor (Nat.xor (Nat.xor (Nat.xor (Nat.xor b (rotl8 b 1)) (rotl8 b 2)) (rotl8 b 3)) (rotl8 b 4)) 0x63

/-- Tables of the S-box, of its inverse and of the products of a byte with a constant below 16. -/
def sboxTab : Nat := pack 256 sbox
def invTab : Nat := (List.range 256).foldr (fun a t => a * 2 ^ (8 * ent sboxTab a) + t) 0
def mulTab (m : Nat) : Nat := pack 256 fun a => gmul 4 a m
def mul2 : Nat := mulTab 2
def mul3 : Nat := mulTab 3
def mul9 : Nat := mulTab 9
def mul11 : Nat := mulTab 11
def mul13 : Nat := mulTab 13
def mul14 : Nat := mulTab 14

def sub (a : Nat) : Nat := ent sboxTab a
def invSub (a : Nat) : Nat := ent invTab a

/-- Round constant i, from 1. -/
def rcon : Nat → Nat
  | 0 => 0
  | 1 => 1
  | n + 2 => xtime (rcon (n + 1))

/-- Key schedule of AES-256: n words, of which the first is word i, join the words w before them. -/
def keyWords : Nat → Nat → Nat → Nat
  | 0, _, w => w
  | n + 1, i, w => eager w fun w =>
    let t := word w (i - 1)
    let t := if i % 8 = 0 then Nat.xor (pack 4 fun j => sub (ent t ((j + 1) % 4))) (rcon (i / 8))
      else if i % 8 = 4 then pack 4 fun j => sub (ent t j) else t
    keyWords n (i + 1) (w + Nat.xor (word w (i - 8)) t * 2 ^ (32 * i))

def roundKeys (key : List Byte) : Nat := keyWords 52 8 (leNat key)
def roundKey (ks r : Nat) : Nat := ks / 2 ^ (128 * r) % 2 ^ 128

/-- MixColumns: f k multiplies a byte with coefficient k. -/
def mixCol (f : Nat → Nat → Nat) (s : Nat) : Nat := pack 16 fun i =>
  let b := fun k => f k (ent s (i / 4 * 4 + (i + k) % 4))
  Nat.xor (Nat.xor (b 0) (b 1)) (Nat.xor (b 2) (b 3))
def mixEnc : Nat → Nat → Nat
  | 0, a => ent mul2 a
  | 1, a => ent mul3 a
  | _, a => a
def mixDec : Nat → Nat → Nat
  | 0, a => ent mul14 a
  | 1, a => ent mul11 a
  | 2, a => ent mul13 a
  | _, a => ent mul9 a

/-- SubBytes with ShiftRows, and their inverses. -/
def subShift (s : Nat) : Nat := pack 16 fun i => sub (ent s ((i + 4 * (i % 4)) % 16))
def invSubShift (s : Nat) : Nat := pack 16 fun i => invSub (ent s ((i + 16 - 4 * (i % 4)) % 16))

/-- The last n of the 13 full rounds, with the round keys ks. -/
def encRounds : Nat → Nat → Nat → Nat
  | 0, _, s => s
  | n + 1, ks, s => eager (subShift s) fun b => eager (Nat.xor (mixCol mixEnc b) (roundKey ks (13 - n))) (encRounds n ks)
def encBlock (ks s : Nat) : Nat :=
  eager (encRounds 13 ks (Nat.xor s (roundKey ks 0))) fun s => Nat.xor (subShift s) (roundKey ks 14)
def decRounds : Nat → Nat → Nat → Nat
  | 0, _, s => s
  | n + 1, ks, s => eager (Nat.xor (invSubShift s) (roundKey ks (n + 1))) fun b => eager (mixCol mixDec b) (decRounds n ks)
def decBlock (ks s : Nat) : Nat :=
  eager (decRounds 13 ks (Nat.xor s (roundKey ks 14))) fun s => Nat.xor (invSubShift s) (roundKey ks 0)

/-- AES-256 encryption and decryption of a 16-byte block. -/
def aesEnc (key blk : List Byte) : List Byte := eager (roundKeys key) fun ks => natLe 16 (encBlock ks (leNat blk))
def aesDec (key blk : List Byte) : List Byte := eager (roundKeys key) fun ks => natLe 16 (decBlock ks (leNat blk))

def xorBytes (a b : List Byte) : List Byte := List.zipWith (· ^^^ ·) a b

/-- 64-bit block i of a number. -/
def lane (w i : Nat) : Nat := w / 2 ^ (64 * i) % 2 ^ 64

/-- The last t steps of RFC 3394 unwrapping with the round keys ks: register A, and n blocks r. -/
def unwrapStep (ks n : Nat) : Nat → Nat → Nat → Nat × Nat
  | 0, a, r => (a, r)
  | t + 1, a, r =>
    let i := t % n
    eager (decBlock ks (Nat.xor a (leNat (natBe 8 (t + 1))) + lane r i * 2 ^ 64)) fun b =>
      eager (r + lane b 1 * 2 ^ (64 * i) - lane r i * 2 ^ (64 * i)) fun r => unwrapStep ks n t (lane b 0) r

/-- AES key unwrap (RFC 3394): the key, when the check value is right. -/
def keyUnwrap (key w : List Byte) : Option (List Byte) :=
  let n := w.length / 8 - 1
  eager (roundKeys key) fun ks =>
    let (a, r) := eager (leNat w) fun w => unwrapStep ks n (6 * n) (lane w 0) (w / 2 ^ 64)
    if a = 0xA6A6A6A6A6A6A6A6 then some (natLe (8 * n) r) else none

/-! ### AES-GCM tag -/

/-- Product in the field of GHASH; bit 0 is the most significant. -/
def ghMul (x y : Nat) : Nat :=
  ((List.range 128).foldl (fun (a : Nat × Nat) i =>
    let z := if y.testBit (127 - i) then Nat.xor a.1 a.2 else a.1
    let v := if a.2 % 2 = 1 then Nat.xor (a.2 / 2) (0xe1 * 2 ^ 120) else a.2 / 2
    (z, v)) (0, x)).1

def ghBlocks (h : Nat) : Nat → Nat → List Byte → Nat
  | 0, y, _ => y
  | n + 1, y, bs =>
    let b := bs.take 16
    ghBlocks h n (ghMul (Nat.xor y (beNat (b ++ List.replicate (16 - b.length) 0))) h) (bs.drop 16)

/-- CTR keystream from a 16-byte counter block, counting in its last 32 bits. -/
def ctrBytes (key : List Byte) : Nat → List Byte → List Byte
  | 0, _ => []
  | n + 1, ctr =>
    let c := beNat (ctr.drop 12)
    aesEnc key ctr ++ ctrBytes key n (ctr.take 12 ++ natBe 4 ((c + 1) % 2 ^ 32))

/-- AES-256-GCM with a 96-bit IV: ciphertext and 128-bit tag (SP 800-38D). -/
def gcm (key iv aad pt : List Byte) : List Byte × List Byte :=
  let h := beNat (aesEnc key (List.replicate 16 0))
  let j0 := iv ++ natBe 4 1
  let ct := xorBytes pt (ctrBytes key (ceilDiv pt.length 16) (iv ++ natBe 4 2))
  let y := ghBlocks h (ceilDiv aad.length 16) 0 aad
  let y := ghBlocks h (ceilDiv ct.length 16) y ct
  let y := ghMul (Nat.xor y (8 * aad.length * 2 ^ 64 + 8 * ct.length)) h
  (ct, xorBytes (natBe 16 y) (aesEnc key j0))

/-! ### CTR_DRBG with AES-256 (SP 800-90A) -/

/-- Update: new key and V from 48 bytes of data. -/
def drbgUpdate (k v data : List Byte) : List Byte × List Byte :=
  let inc := fun (v : List Byte) (i : Nat) => natBe 16 ((beNat v + i) % 2 ^ 128)
  let t := aesEnc k (inc v 1) ++ aesEnc k (inc v 2) ++ aesEnc k (inc v 3)
  let x := xorBytes t data
  (x.take 32, x.drop 32)

/-- Output of n blocks with the state after them, before the update that ends the request. -/
def drbgBlocks (k : List Byte) : Nat → List Byte → List Byte × List Byte
  | 0, v => ([], v)
  | n + 1, v =>
    let v := natBe 16 ((beNat v + 1) % 2 ^ 128)
    let (o, w) := drbgBlocks k n v
    (aesEnc k v ++ o, w)

end Sys2Proof.Machine
end

