-- ==== Sys2Proof/Machine/Operands.lean ====
section
/-!
DEFINITION. The operand structures that commands name in memory, decoded from their bytes: tensor header (Table 1.2),
requantiser control block (Table 2.1), outlier header (Table 2.3), group record (Table 2.4), common header of a work
descriptor (Table 5.4), and the check of reserved bits each table asks for.
-/

namespace Sys2Proof.Machine

/-- Whether every listed bit range (low bit, length) of a structure is zero. -/
def zeroBits {n : Nat} (w : BitVec n) (rs : List (Nat × Nat)) : Bool := rs.all fun r => fld w r.1 r.2 = 0

/-- Whether every listed byte range (first byte, length) is zero. -/
def zeroBytes {n : Nat} (w : BitVec n) (rs : List (Nat × Nat)) : Bool :=
  rs.all fun r => fld w (8 * r.1) (8 * r.2) = 0

/-- Byte offset of the first listed byte range that is not zero. -/
def firstNonZero {n : Nat} (w : BitVec n) (rs : List (Nat × Nat)) : Option Nat :=
  (rs.find? fun r => fld w (8 * r.1) (8 * r.2) != 0).map (·.1)

/-- A tensor header (R32). -/
structure Hdr where
  fmt : Nat
  et : Int
  tid : Nat
  ncb : Nat
  cbslot : Nat
  gshift : Nat
  cbgen : Nat
  codes : Nat
  exps : Nat
  outl : Nat
  k : Nat
  rows : Nat
  cstride : Nat
  estride : Nat
  /-- No reserved bit is set. -/
  resOk : Bool
  deriving DecidableEq, Repr

def Hdr.isQ (h : Hdr) : Bool := h.fmt ≤ 1

def hdrOf (b : Block64) : Hdr where
  fmt := fld b 0 3
  et := sx 8 (fld b 8 8)
  tid := fld b 16 12
  ncb := fld b 28 4
  cbslot := fld b 32 10
  gshift := fld b 42 5
  cbgen := fld b 48 16
  codes := fld b 64 48
  exps := fld b 128 48
  outl := fld b 192 48
  k := fld b 256 32
  rows := fld b 288 32
  cstride := fld b 320 32
  estride := fld b 352 32
  resOk := zeroBits b [(3, 5), (47, 1), (112, 16), (176, 16), (240, 16), (384, 128)]

/-- Bytes of one stored element of an integer format. -/
def intBytes (fmt : Nat) : Nat := if fmt = 2 then 2 else if fmt = 3 then 4 else 8

/-- Bytes of one block of codes. -/
def blkBytes (fmt : Nat) : Nat := if fmt = 0 then 16 else 32

def roundUp (m n : Nat) : Nat := ceilDiv n m * m

/-- The row size of R33. -/
def Hdr.rowSize (h : Hdr) : Nat :=
  if h.isQ then blkBytes h.fmt * ceilDiv h.k 32 else roundUp 16 (intBytes h.fmt * h.k)

/-- Bytes of an exponent row. -/
def Hdr.expSize (h : Hdr) : Nat := ceilDiv (ceilDiv h.k 32) 2

/-- Groups of a row (chapter 2, Outlier slots and the escape pool). -/
def Hdr.gpr (h : Hdr) : Nat := ceilDiv h.k 256

/-- An outlier header (R76). -/
structure OutlHdr where
  ocap : Nat
  epb : Nat
  esccb : Nat
  escgen : Nat
  gtab : Nat
  pool : Nat
  ok : Bool
  deriving DecidableEq, Repr

def outlOf (b : Block64) : OutlHdr where
  ocap := fld b 0 4
  epb := fld b 4 2
  esccb := fld b 8 10
  escgen := fld b 32 16
  gtab := fld b 64 48
  pool := fld b 128 48
  ok := zeroBits b [(6, 2), (18, 14), (48, 16), (112, 16), (176, 16), (192, 320)]
    && fld b 0 4 != 15 && fld b 4 2 != 3 && fld b 64 4 = 0 && fld b 128 4 = 0
    && (fld b 128 48 != 0 || fld b 4 2 = 0)

/-- Byte ranges that the parts of a tensor span: codes and exponents from the first to the last byte of the last row,
and with outlier structures the group table and the pool (R33, R76, R162). -/
def Hdr.ranges (h : Hdr) (o : Option OutlHdr) : List (Nat × Nat) :=
  [(h.codes, (h.rows - 1) * h.cstride + h.rowSize)]
  ++ (if h.isQ then [(h.exps, (h.rows - 1) * h.estride + h.expSize)] else [])
  ++ (match o with
    | none => []
    | some o => [(h.outl, 64), (o.gtab, 16 * h.rows * h.gpr)]
        ++ (if o.epb = 0 then [] else [(o.pool, 272 * o.epb * ceilDiv h.rows 32 * h.gpr)]))

/-- The rules of R33 but for the populated ranges, which need the state. -/
def Hdr.formOk (h : Hdr) : Bool :=
  h.resOk && h.fmt ≤ 4 && h.k != 0 && h.rows != 0 && h.rowSize ≤ h.cstride
  && (!h.isQ || h.expSize ≤ h.estride)
  && h.codes % 64 = 0 && h.exps % 8 = 0 && h.cstride % 16 = 0 && h.estride % 8 = 0
  && (h.isQ || (h.ncb = 0 && h.cbslot = 0 && h.gshift = 0 && h.cbgen = 0 && h.exps = 0 && h.outl = 0))
  && h.cbslot + h.ncb ≤ 1023

/-- A requantiser control block (R62). -/
structure Rqcb where
  rmode : Nat
  rot : Nat
  nostat : Bool
  outhdr : Nat
  rseed : BitVec 64
  nseed : BitVec 64
  step : Nat
  /-- The checks of R63 on the block alone. -/
  ok : Bool
  deriving DecidableEq, Repr

def rqcbOf (b : Block64) : Rqcb where
  rmode := fld b 0 2
  rot := fld b 2 2
  nostat := fld b 4 1 = 1
  outhdr := fld b 16 48
  rseed := BitVec.ofNat 64 (fld b 64 64)
  nseed := BitVec.ofNat 64 (fld b 128 64)
  step := fld b 192 32
  ok := zeroBits b [(5, 11), (224, 288)] && fld b 0 2 < 2 && fld b 2 2 < 3 && fld b 16 6 = 0
    && (fld b 2 2 = 0 || fld b 64 64 != 0)

/-- Elements of a rotation run (R74). -/
def Rqcb.rotN (q : Rqcb) : Nat := if q.rot = 1 then 64 else if q.rot = 2 then 256 else 1

/-- Unit width of R64. -/
def unitWidth (q : Rqcb) (outlier : Bool) : Nat :=
  if outlier || q.rot = 2 then 256 else if q.rot = 1 then 64 else 32

/-- A group record (R77). -/
structure GRec where
  pos : List Nat
  val : List Int
  nslot : Nat
  esc : Bool
  escidx : Nat
  gsat : Bool
  /-- The fields that Table 2.4 gives as zero are zero. -/
  zeroOk : Bool
  deriving DecidableEq, Repr

def grecOf (bs : List Byte) : GRec where
  pos := (List.range 4).map fun i => leAt bs i 1
  val := (List.range 4).map fun i => sx 16 (leAt bs (4 + 2 * i) 2)
  nslot := leAt bs 12 1 % 8
  esc := bitsOf (leAt bs 12 1) 3 1 = 1
  escidx := bitsOf (leAt bs 12 1) 4 1
  gsat := bitsOf (leAt bs 12 1) 5 1 = 1
  zeroOk := bitsOf (leAt bs 12 1) 6 2 = 0 && leAt bs 13 3 = 0

/-- Bytes of a group record. -/
def grecBytes (g : GRec) : List Byte :=
  (g.pos.flatMap fun p => natLe 1 p) ++ (g.val.flatMap fun v => natLe 2 (trunc 16 v))
  ++ natLe 1 (g.nslot + (if g.esc then 8 else 0) + 16 * g.escidx + (if g.gsat then 32 else 0)) ++ natLe 3 0

/-- Whether the first `n` entries of a list strictly rise. -/
def risingTo (n : Nat) (l : List Nat) : Bool :=
  (List.zip (l.take n) ((l.take n).drop 1)).all fun p => p.1 < p.2

/-- Validity of the record of group cg of a row of K elements (R498). -/
def GRec.valid (g : GRec) (o : OutlHdr) (k cg : Nat) : Bool :=
  g.zeroOk && g.nslot ≤ 4 && risingTo g.nslot g.pos && (g.pos.take g.nslot).all (fun p => 256 * cg + p < k)
  && (g.pos.drop g.nslot).all (· = 0) && (g.val.drop g.nslot).all (· = 0)
  && (!g.esc || (g.nslot = 0 && o.epb != 0 && g.escidx < o.epb && o.pool != 0))

/-- Common header of a work descriptor (R155). -/
structure WHdr where
  opc : Nat
  wen : Bool
  sen : Bool
  crec : Bool
  fence : Bool
  phase : Nat
  rclass : Nat
  tag : Nat
  dgen : Nat
  wobj : Nat
  wgen : Nat
  wthr : Nat
  sobj : Nat
  sgen : Nat
  sinc : Nat
  bound : Nat
  deriving DecidableEq, Repr

def whdrOf (b : Block64) : WHdr where
  opc := fld b 0 8
  wen := fld b 8 1 = 1
  sen := fld b 9 1 = 1
  crec := fld b 10 1 = 1
  fence := fld b 11 1 = 1
  phase := fld b 16 8
  rclass := fld b 24 4
  tag := fld b 32 16
  dgen := fld b 48 16
  wobj := fld b 64 14
  wgen := fld b 80 16
  wthr := fld b 96 32
  sobj := fld b 128 14
  sgen := fld b 144 16
  sinc := fld b 160 16
  bound := fld b 192 32

/-- Byte offset of the first field of the common header that breaks R157: reserved fields, and the fields of an absent
wait or signal. -/
def whdrBad (b : Block64) : Option Nat :=
  let h := whdrOf b
  if fld b 12 4 != 0 then some 1
  else if fld b 28 4 != 0 then some 3
  else if fld b 78 2 != 0 || (!h.wen && (h.wobj != 0)) then some 8
  else if !h.wen && h.wgen != 0 then some 10
  else if !h.wen && h.wthr != 0 then some 12
  else if fld b 142 2 != 0 || (!h.sen && h.sobj != 0) then some 16
  else if !h.sen && h.sgen != 0 then some 18
  else if (!h.sen && h.sinc != 0) || (h.sen && h.sinc = 0) then some 20
  else if fld b 176 16 != 0 then some 22
  else if fld b 224 32 != 0 then some 28
  else none

/-! ### Tile operations -/

def isTileOp (opc : Nat) : Bool := opc = 0x01 || opc = 0x02
/-- Datapath descriptors (R367). -/
def isDatapath (opc : Nat) : Bool := opc = 0x01 || opc = 0x02 || opc = 0x03 || opc = 0x10
/-- Tile argument block (Table 5.7). -/
structure TArgs where
  ahdr : Nat
  bhdr : Nat
  rqcb : Nat
  preofs : Nat
  arow0 : Nat
  m : Nat
  brow0 : Nat
  n : Nat
  k0 : Nat
  k : Nat
  orow0 : Nat
  ocol0 : Nat
  resOk : Bool
  deriving DecidableEq, Repr

def targsOf (b : Block64) : TArgs where
  ahdr := fld b 0 64
  bhdr := fld b 64 64
  rqcb := fld b 128 64
  preofs := fld b 192 32
  arow0 := fld b 256 32
  m := fld b 288 32
  brow0 := fld b 320 32
  n := fld b 352 32
  k0 := fld b 384 32
  k := fld b 416 32
  orow0 := fld b 448 32
  ocol0 := fld b 480 32
  resOk := fld b 224 32 = 0

/-- A tensor as its header and outlier header describe it. -/
structure Tens where
  h : Hdr
  o : Option OutlHdr
  deriving DecidableEq, Repr

/-- What a tile operation works with, as read at its start (R56): argument block, operands and, for a comparison, those of
the wide pair; control block and output tensor. -/
structure TileOp where
  a : TArgs
  ta : Tens
  tb : Tens
  w : TArgs
  wa : Tens
  wb : Tens
  rq : Rqcb
  out : Tens
  deriving DecidableEq, Repr

/-- Body and argument block of a VEC_PROG (Table 5.8). -/
structure VArgs where
  ve : Nat
  prog : Nat
  args : Nat
  h : List Nat
  p : List Word
  q : List Nat
  deriving DecidableEq, Repr

/-- What a vector descriptor works with, as read at its dispatch: argument block, tensor and control block of each handle.
The base exponents are those of its acceptance (R126). -/
structure VecOp where
  a : VArgs
  t : List Tens
  q : List Rqcb
  deriving DecidableEq, Repr

/-- A tensor of no rows, which a handle that is not named has. -/
def Tens.none : Tens := ⟨hdrOf 0, Option.none⟩
def VecOp.tens (o : VecOp) (h : Nat) : Tens := o.t.getD h Tens.none
def VecOp.rqcb (o : VecOp) (h : Nat) : Rqcb := o.q.getD h (rqcbOf 0)

/-- Bits set in a tile mask, ascending (R94). -/
def maskTiles (m : Nat) : List Nat := (List.range 32).filter fun t => m.testBit t

end Sys2Proof.Machine
end

