-- ==== Sys2Proof/Config.lean ====
section
/-!
DEFINITION. What the spec leaves open and the machine goes on with: free values (opaque, with no body, so that no proof
can see one), and standards-made values whose keys the spec does not give. The free values are listed in log entry 1,
the thermal constants in log entry 4.
-/

namespace Sys2Proof

/-- Bits of the device's SP 800-90B source and of its nonce generator (R257, R439): fresh at each use of the model's own
counter `State.free`. FREE VALUE (log 1). -/
opaque Config.entropy : Nat → BitVec 384

/-- The nonce N_d of a GET_NONCE (R439). FREE VALUE (log 1). -/
opaque Config.nonce : Nat → BitVec 256

/-- What a codeword with four or more bytes in error delivers (Table 7.3): any byte. FREE VALUE (log 1). -/
opaque Config.badByte : Nat → BitVec 8

/-- A key made at a start or at a sealed OPEN_SESSION (Table 15.7), named by a number. FREE VALUE (log 1). -/
opaque Config.madeKey : Nat → BitVec 256

/-- The key that wraps keys in a maintenance command while no password is set, by N_c (R438, R439). FREE VALUE (log 1). -/
opaque Config.noPassword : BitVec 256 → BitVec 256

/-- RSASSA-PSS signature (R438) by the key with this number over a SHA-256 digest. FREE VALUE (log 1). -/
opaque Config.sign : BitVec 256 → BitVec 256 → List (BitVec 8)

/-- DER certificate: 0 identity, 1 attestation, 2 ledger (R431), for the keys now held. FREE VALUE (log 1). -/
opaque Config.cert : Nat → BitVec 256 → List (BitVec 8)

/-- SHA-256 of the ledger public key (Table 15.9). FREE VALUE (log 1). -/
opaque Config.pubDigest : BitVec 256 → BitVec 256

/-- EXAMPLES and CLIPPED of a ledger entry (Table 8.7), which the spec does not say how the device counts.
FREE VALUE (log 1). -/
opaque Config.ledgerCounts : Nat → BitVec 64 × BitVec 64

/-- The RC model of R389: next temperatures of the four nodes of a cluster from the 96 node temperatures of its die, the
cluster's power in mW and the inlet temperature in 0.01 °C. Temperatures are in 1/4096 °C. Its constants are fused (R389). FREE VALUE (log 4). -/
opaque Config.rcStep : Nat → List Int → Nat → Int → List Int

/-- The forecast of R390, 5 ms ahead, of the four nodes of a cluster from node temperatures, planned power in mW and inlet
temperature. FREE VALUE (log 4). -/
opaque Config.rcForecast : Nat → List Int → Nat → Int → List Int

/-- uniform(m) of R257 for m above 2^64, where its rejection rule accepts no word, by m and the word drawn; taken modulo m.
FREE VALUE (log 1). -/
opaque Config.wideUniform : Nat → Nat → Nat

/-- A result that a rule does not state for its operands, where the machine goes on. FREE VALUE (log 1). -/
opaque Config.unstated : Nat → Nat → Int

/-- Set of a slice that a line maps to, taken modulo 1,024, and the line that a full set gives up for line `l` at a tick,
taken modulo the set's lines (R207 gives neither). FREE VALUES (log 62). -/
opaque Config.shcSet : Nat → Nat
opaque Config.shcWay : Nat → Nat → Nat

/-- Phases of a cluster that run at light load, by cluster and tick (R360 does not say which). FREE VALUE (log 86). -/
opaque Config.lightPhases : Nat → Nat → BitVec 16

end Sys2Proof
end

