-- ==== Sys2Proof/Machine/State.lean ====
section
/-!
DEFINITION. The state of the block: plain data, one structure for each unit, and the state after reset. Sparse tables
are sorted lists of (key, value); an absent key has the value its reader names. Local memories and device memory are
sorted lists of (address, byte) that list no zero byte, and an unlisted byte reads zero (Table 15.5, steps 3, 4 and 9).
Values the spec leaves open at reset are named in logs 3 to 13.
-/

namespace Sys2Proof.Machine

/-- A sparse table: keys strictly rising. -/
abbrev SMap (α : Type) := List (Nat × α)
/-- A byte memory: addresses strictly rising, no zero byte listed. -/
abbrev Mem := List Host.Cell
/-- Byte ranges (first byte, length) of a footprint (R162); cluster-local slots lie above the DPA space (R183). -/
abbrev Ranges := List (Nat × Nat)

/-- Device states (R10, Table 0.7). -/
inductive DevState where
  | off | dawn | standby | ready | running | held | draining | detached | fault
  deriving DecidableEq, Repr

/-- Event severities (R15). -/
inductive Sev where
  | info | notice | degrade | replay | stop
  deriving DecidableEq, Repr

/-- Where an event comes from: the DIE, CLUSTER, UKIND and UINDEX bytes of Table 16.8. -/
structure Src where
  die : Nat
  cluster : Nat := 255
  kind : Nat := 0
  index : Nat := 0
  deriving DecidableEq, Repr

/-- An event record before it is written (Table 16.8). -/
structure EvRec where
  time : BitVec 64
  code : BitVec 16
  sev : Sev
  src : Src
  arg : BitVec 16
  d0 : BitVec 64
  d1 : BitVec 64
  lost : Bool
  deriving DecidableEq, Repr

/-- Cause of a REPLAY not yet acted on (R346): its code, data and whether it calls for a hold. -/
structure Replay where
  code : BitVec 16
  d0 : BitVec 64
  d1 : BitVec 64
  hold : Bool
  deriving DecidableEq, Repr

/-- A start in progress (R432, R437, R482). -/
structure StartReq where
  cold : Bool
  /-- Tick the start began. -/
  at_ : Nat
  deriving DecidableEq, Repr

structure Dev where
  st : DevState
  start : Option StartReq
  /-- Tick of the end of the last start. -/
  upAt : Nat
  /-- RESET_N has fallen and has not risen (R482). -/
  inReset : Bool
  /-- A HOLD waits for the next commit (R425, R428). -/
  holdPending : Bool
  replayDue : List Replay
  /-- RUN must replay the step from EPOCH (R250). -/
  heldReplay : Bool
  /-- An abort led from DRAINING to HELD; RUN enters DRAINING again (R428). -/
  drainBack : Bool
  /-- A commit was written in DRAINING; the next epoch applied detaches (R352, R425). -/
  drained : Bool
  /-- The abort is done and the restart of R160 is due. -/
  restartDue : Bool
  /-- The cause for which the device enters HELD once every object has been reset (R346). -/
  holdDue : Option Replay
  /-- The unit stop of R383 has run. -/
  stopped : Bool
  /-- Host memory and HBM are in self-refresh (R383, R436, R482). -/
  selfRefresh : Bool
  /-- Host memory or the steward lost power since the last start (R437). -/
  powerLost : Bool
  /-- The FAULT came from a cause that forces a cold start (R437). -/
  faultCold : Bool
  /-- Meridian time of the last SRAM self-test (R436). -/
  bistAt : Option (BitVec 64)
  /-- A job is loaded (R334, R440). -/
  job : Bool
  deriving DecidableEq, Repr

/-- The set-up registers: values that differ from their reset value, staged values written (R458), read latches and write
holds (R453), and an access held by a stopped region with the tick it came (R411). -/
structure Regs where
  file : SMap Word
  staged : SMap Word
  rlatch : SMap (BitVec 32)
  whold : SMap (BitVec 32)
  held : List (Nat × Nat × Word × Nat)
  deriving DecidableEq, Repr

/-- Phases of an epoch (Table 16.5). -/
inductive EpochPhase where
  | idle | staged | checking | checked | armed | applying
  deriving DecidableEq, Repr

structure Cfg where
  phase : EpochPhase
  /-- The armed instant (R461). -/
  at_ : BitVec 64
  /-- Open parts of an APPLYING tail (R463): a map-out, and the regions still to reach or leave Dusk. -/
  tailMap : Bool
  tailDusk : List Nat
  /-- Values that the latest epochs replaced and that work accepted before them still uses (R463), oldest first: the place in
  the order of acceptance at the instant, and the values by address. -/
  old : List (Nat × SMap Word)
  deriving DecidableEq, Repr

structure Evt where
  /-- Records waiting in each unit's queue (R468), by the unit's number. -/
  queues : SMap (List EvRec)
  reserve : List EvRec
  /-- Records lost since the last EVT_RECORDS_LOST (R469). -/
  lost : Nat
  /-- Per rate-limited event: tick of the last record and occurrences since (R216, R317, R377, R449). -/
  rate : SMap (Nat × Nat)
  deriving DecidableEq, Repr

/-- Channel states (Table 7.12). -/
inductive ChanSt where
  | live | failing | mapped | notLive
  deriving DecidableEq, Repr

/-- A spare row that is not Free (Table 7.4). -/
inductive Spare where
  | inUse (row : Nat)
  | retired (row : Nat)
  deriving DecidableEq, Repr

structure Chan where
  st : ChanSt
  spares : SMap Spare
  /-- Corrected codewords per row in the current scrub pass, at most 256 rows (R220). -/
  rows : SMap Nat
  /-- Rows due for repair (R220, R221). -/
  due : List Nat
  cecur : Nat
  uetot : Nat
  deriving DecidableEq, Repr

/-- A map-out being applied (Table 7.5): the channels leaving, whether step 4 is done, and the place in the order of
acceptance of the first descriptor accepted after the instant. -/
structure MapOut where
  chans : List Nat
  flushed : Bool
  ord : Nat
  deriving DecidableEq, Repr

structure Hbm where
  chan : SMap Chan
  /-- Channels recorded in the boot flash (R225). -/
  mapRec : List Nat
  mapOut : Option MapOut
  /-- Channel of the margin run in progress (R229). -/
  margin : Option Nat
  /-- A margin run destroyed the contents of HBM, which read as free values until it is cleared (R229). -/
  spoiled : Bool
  /-- Reading of each stack at its last full training, in 0.25 °C (R436). -/
  trainT : SMap Int
  deriving DecidableEq, Repr

/-- Combinable operations (Table 7.1). -/
inductive RedOp where
  | add | max | min | or
  deriving DecidableEq, Repr

/-- An open combining entry (R213). `idle` counts quarters of a fabric cycle since the last merge. -/
structure Comb where
  line : Nat
  op : RedOp
  el : Elem
  lanes : SMap Int
  idle : Nat
  deriving DecidableEq, Repr

/-- The home slices, numbered 32 d + k. -/
structure Shc where
  /-- Open entries of each slice, oldest first. -/
  comb : SMap (List Comb)
  /-- Lines (DPA div 256) that a set of a slice holds, each with its dirty mark, latest used first, at most 12; keyed by
  1,024 * slice + set (R207). -/
  lines : SMap (List (Nat × Bool))
  /-- Blocks (DPA div 4096) of which a verified copy is held (R200). -/
  verified : List Nat
  /-- Requests in each slice's ingress queue by the holder of their credit, oldest first, and requests that wait in their
  units for a credit (R214). -/
  queue : SMap (List Nat)
  stalled : SMap (List Nat)
  deriving DecidableEq, Repr

/-- State of a codebook slot (R34). -/
inductive CbState where
  | empty | q4 | q8
  deriving DecidableEq, Repr

/-- Entries of a level table with the residues of their levels (R54, R98). -/
abbrev LevTab := List (BitVec 16 × BitVec 3)

/-- A codebook slot (R34): state, generation, its 256 entries, and the residues of their levels, which a load computes
(R54). -/
structure CbSlot where
  st : CbState
  gen : BitVec 16
  levels : List (BitVec 16)
  res : List (BitVec 3)
  deriving DecidableEq, Repr

/-- A codebook load whose images are ready and whose switch is due (R36). -/
structure CbLoad where
  c : Nat
  n : Nat
  first : Nat
  fmt : CbState
  gen : BitVec 16
  imgs : List (List (BitVec 16))
  deriving DecidableEq, Repr

/-- Step accumulators of a tracked identity (R88, R90): step maximum and counts. -/
structure StatAcc where
  mx : Option Int
  elems : Nat
  sat : Nat
  satBlk : Nat
  satGrp : Nat
  escGrp : Nat
  slots : Nat
  deriving DecidableEq, Repr

structure SyncObj where
  count : BitVec 32
  gen : BitVec 16
  /-- Tick of the last reset (R166). -/
  resetAt : Option Nat
  deriving DecidableEq, Repr

/-- Who sent a signal and completes with its outcome (R167). -/
inductive Origin where
  | none
  | seq (c n : Nat)
  | stw (k : Nat)
  | coll (d k : Nat)
  deriving DecidableEq, Repr

/-- A signal on the control network (R164, R167). -/
structure Signal where
  obj : Nat
  gen : BitVec 16
  inc : Nat
  sent : BitVec 64
  origin : Origin
  deriving DecidableEq, Repr

/-- Objects not listed share a generation, a count of 0, the tick of their last reset and the number of resets by aborts
that are still held for them (R160, R166). -/
structure Sync where
  obj : SMap SyncObj
  gen0 : BitVec 16
  reset0 : Option Nat
  held0 : Nat
  flying : List Signal
  /-- Resets held by the spacing of R166: object and the SYNC_RESET (cluster, issue number) that waits, if one does. -/
  resets : List (Nat × Option (Nat × Nat))
  deriving DecidableEq, Repr

/-- A binding of slots to a panel (R181). -/
structure Binding where
  hdr : Nat
  row0 : Nat
  nrows : Nat
  k0 : Nat
  klen : Nat
  slot : Nat
  deriving DecidableEq, Repr

/-- How far a work descriptor has come (R161 to R163). `run`: dispatched; `given`: its work has been given to tiles or an
engine; `worked`: its work is done and its completion is due;
`signalled`: its signal is on the control network and its completion follows the outcome (R167). -/
inductive JobPh where
  | queued | run | given | worked | signalled
  deriving DecidableEq, Repr

/-- A work descriptor between issue and completion. Ring entries keep the ring and its CONS value (R272). -/
structure Job where
  n : Nat
  desc : Block64
  ring : Option (Nat × BitVec 32)
  ph : JobPh
  /-- Tick of acceptance, of its met wait (R172) and of dispatch. -/
  acc : Nat
  met : Option Nat
  disp : Nat
  /-- Place in the order of acceptance over all clusters (R36), and the codebook slots it names (first, count). -/
  ord : Nat
  cbs : Ranges
  /-- Its load-step notice has been sent (R173). -/
  noticed : Bool
  rset : Ranges
  wset : Ranges
  /-- Bindings resolved at issue: operand or handle number, pass number, tile (32 for the cluster buffer), binding
  (R182). -/
  binds : List (Nat × Nat × Nat × Binding)
  status : BitVec 8
  off : BitVec 8
  cnt : BitVec 24
  /-- An event of severity INFO, NOTICE or DEGRADE was raised for it. -/
  ev : Bool
  /-- Cause bits of R172 seen since its start. -/
  cause : BitVec 7
  /-- Counted in SEQ_HOLDCNT (R175). -/
  holdSeen : Bool
  /-- Passes not yet drained, flagged elements, and saturated elements and saturated groups for each identity written
  (R89). -/
  passes : Nat
  flagged : Nat
  satur : SMap (Nat × Nat)
  /-- The operation was stopped (R111, R498) and writes nothing more. -/
  stop : Bool
  /-- Objects a SYNC_RESET still has to reset (R166). -/
  resets : List Nat
  /-- TIL_CTL at acceptance (R117). -/
  ctl : BitVec 3
  /-- A tile operation as read at its start (R56). -/
  top : Option TileOp
  /-- Ticks of the frequency stops on a Comet transfer's path that have ended since its dispatch (R197). -/
  stretch : Nat
  /-- A vector operation as read at its dispatch, and the base exponents of its tensors at acceptance (R126, log 76). -/
  vop : Option VecOp
  ets : List Int
  deriving DecidableEq, Repr

/-- Pass q of operation n at block (bi, bj) (R94); `wide` marks the wide pass of a comparison (R57). -/
structure Pass where
  n : Nat
  q : Nat
  bi : Nat
  bj : Nat
  wide : Bool
  deriving DecidableEq, Repr

/-- A 64-bit accumulator with its saturation flag and its mod-7 residue (R46, R47, R54). -/
structure Accum where
  v : Int
  sat : Bool
  res : BitVec 3
  deriving DecidableEq, Repr

/-- An accumulator bank (R102): its 1,024 accumulators in row order. -/
inductive Bank where
  | free
  | pre (p : Pass) (image : List Accum)
  | active (p : Pass) (vals : List Accum)
  | closed (p : Pass) (vals : List Accum)
  deriving DecidableEq, Repr

/-- Activity of a tile (R106, R107, R109): its clock gated, busy with k-steps, a falling ramp, or a rising ramp of filler
before its first k-step. -/
inductive Act where
  | gated | busy | falling | filling
  deriving DecidableEq, Repr

/-- The tables that a tile's decoders hold (R98): the pass they were loaded for, the main table of each row lane and of each
column lane, and the escape tables of the two operands. -/
structure DecTabs where
  p : Pass
  rows : List LevTab
  cols : List LevTab
  rowEsc : LevTab
  colEsc : LevTab
  deriving DecidableEq, Repr

structure TileSt where
  store : Mem
  bank : Vector Bank 2
  /-- Bank of the next pass (R102). -/
  next : Fin 2
  waiting : List Pass
  tables : Option DecTabs
  act : Act
  /-- Narrow results of a comparison whose wide pass has not drained (R105). -/
  narrow : Option (Pass × List Accum)
  deriving DecidableEq, Repr

/-- A value on its way to a requantiser: accumulator or lane value and its exponent (R104). -/
abbrev Drained := Accum × Int

/-- Elements waiting for their unit (R64), keyed by row * 2^32 + column, of one operation and control block: the block's
address, its contents and its output tensor. `ve` is the engine of a VSTQ and its handle. -/
structure RqOp where
  n : Nat
  rqcb : Nat
  q : Rqcb
  out : Tens
  ve : Option (Nat × Nat)
  elems : SMap Drained
  deriving DecidableEq, Repr

/-- A vector register (R119): 256 lanes, exponent, and flags of its lanes in bits 0 to 511. -/
structure VReg where
  lanes : Vector (BitVec 32) 256
  rx : BitVec 16
  flags : BitVec 512
  deriving DecidableEq, Repr

/-- A scalar register (R120). -/
structure SReg where
  v : BitVec 64
  rx : BitVec 16
  flag : Bool
  deriving DecidableEq, Repr

/-- A summary entry (R142). -/
structure SumEntry where
  tag : BitVec 16
  v : BitVec 64
  rx : BitVec 16
  flag : Bool
  gen : BitVec 16
  deriving DecidableEq, Repr

/-- A comparison in progress at an engine (R58, R135). -/
structure Cmp where
  n : Nat
  count : Nat
  maxd : Nat
  ssd : Nat
  exp : Int
  flags : BitVec 4
  satd : Nat
  deriving DecidableEq, Repr

/-- A running program (R121): its descriptor, program counter, loop stack (first instruction, last, repetitions left; the
inner loop first), saturated results, rows read per handle, and the positions stored per handle. -/
structure VRun where
  n : Nat
  pc : Nat
  loops : List (Nat × Nat × Nat)
  sat : Nat
  /-- Rows read from each handle: highest row read and distinct rows (R448). -/
  rows : SMap (Nat × Nat)
  /-- Row and first position of each VSTQ per handle (R134). -/
  stored : SMap (List (Nat × Nat))
  deriving DecidableEq, Repr

structure VeSt where
  v : SMap VReg
  sc : SMap SReg
  m : SMap (BitVec 256)
  prog : List Word
  progDpa : Option Nat
  run : Option VRun
  sumq : List SumEntry
  /-- Groups of 256 drained elements waiting for VDRN: values, flags, exponent, descriptor (R133). -/
  drain : List (Nat × Int × List (Int × Bool))
  cmp : Option Cmp
  deriving DecidableEq, Repr

/-- State of a control core (R153, R157, R160, R275): held in reset, running, stopped by a trap, held in reset by an abort
that will start it again, or stalled at the queue port with the descriptor it issues. -/
inductive CcSt where
  | reset | running | trapped | paused
  | stalled (q : Fin 8) (desc : Block64)
  deriving DecidableEq, Repr

/-- A load-step notice (R173): half core cycles since it was sent, whether activity has followed, and whether the lead
has passed. -/
structure Notice where
  half : Nat
  active : Bool
  leadDone : Bool
  deriving DecidableEq, Repr

/-- A declaration (R174, R175): tiles, tick of its publication, and whether its cover has matured. -/
structure Decl where
  tiles : Nat
  pub : Option Nat
  mature : Bool
  deriving DecidableEq, Repr

/-- Power states of a region (R366). -/
inductive RegionSt where
  | active | twilight | dusk | dark | dawn
  deriving DecidableEq, Repr

/-- A clock region: point, requested point, frequency stop and alignment (R370, R408, R409). `stopAt` is the tick the
stop began, `changed` the tick of the last change (R371). -/
structure ClkSt where
  op : Fin 8
  want : Fin 8
  stopAt : Option Nat
  aligned : Bool
  changed : Nat
  /-- The PLL has failed to lock once in this change (R412). -/
  retry : Bool
  /-- The point of the change in progress. -/
  goal : Fin 8
  deriving DecidableEq, Repr

structure Cl where
  queue : Vector (List Job) 8
  flight : List Job
  issueNo : Nat
  -- queue port (Table 5.3)
  stage : Block64
  result : BitVec 2
  status : BitVec 8
  cq : SMap Block16
  cqProd : BitVec 8
  cqCons : BitVec 8
  /-- PHASE of the records now written, and records written and not consumed (R272, R273). -/
  cqPass : Bool
  cqUsed : Nat
  cqIen : Bool
  merHi : BitVec 32
  swObj : BitVec 14
  swGen : BitVec 16
  swThr : BitVec 32
  arm : Bool
  met : Bool
  swStale : Bool
  swIen : Bool
  sumIen : BitVec 4
  -- control core
  cc : CcSt
  ccPc : BitVec 32
  ccX : Vector (BitVec 32) 32
  /-- Machine-mode control and status registers that are not zero, by number (R150). -/
  ccCsr : SMap (BitVec 32)
  imem : Mem
  dmem : Mem
  /-- Dispatch is stopped by a trap (R153) or a replay (R160). -/
  halted : Bool
  /-- Phase tags whose first slip of this step was raised (R172). -/
  slipSeen : List Nat
  -- tiles
  tile : SMap TileSt
  tileLive : SMap (List Binding)
  tileShadow : SMap (List Binding)
  bufLive : List Binding
  bufShadow : List Binding
  buf : Mem
  rq : List RqOp
  -- vector engines
  ve : SMap VeSt
  -- cover (R173 to R175)
  notice : Option Notice
  /-- Declarations, latest last (R174). -/
  decls : List Decl
  -- power and clock (chapters 12 and 14)
  phfail : BitVec 16
  connCeil : Fin 8
  region : RegionSt
  clk : ClkSt
  /-- A Dawn is requested since this tick, and granted at this tick (R368, R369). -/
  dawnReq : Option Nat
  dawnAt : Option Nat
  /-- The grant was deferred since this tick (R369). -/
  deferred : Option Nat
  /-- Idle since this tick (R367). -/
  idleAt : Nat
  deriving DecidableEq, Repr

/-! ### Rings, steward commands, private training, sessions -/

/-- STATE of a ring (Table 9.2). -/
inductive RingPh where
  | idle | active | error
  deriving DecidableEq, Repr

/-- What the ring engine holds of a ring (R268 to R273): the entry as read, producer index, entries consumed, completion
records written, records the runtime has consumed, and records reserved. -/
structure Ring where
  entry : Block64
  prod : BitVec 32
  cons : BitVec 32
  cqProd : BitVec 32
  cqCons : BitVec 32
  reserved : Nat
  st : RingPh
  deriving DecidableEq, Repr

/-- A steward command handed over and not complete (R275): number, entry, ring, CONS value, its place in the order of
acceptance and the codebook slots it names (R36), the update engine that ran it, its outcome, and whether its signal is on
the way. -/
structure StwJob where
  k : Nat
  cmd : Block64
  ring : Nat
  cons : BitVec 32
  ord : Nat
  cbs : Ranges
  eng : Nat
  status : BitVec 8
  off : BitVec 8
  cnt : BitVec 24
  signalled : Bool
  deriving DecidableEq, Repr

/-- A management command waiting at the head of its ring's hand-over (R429): ring, CONS value, command. -/
structure MgmtJob where
  ring : Nat
  cons : BitVec 32
  cmd : Block64
  deriving DecidableEq, Repr

/-- The steward die: ring cache, commands, statuses of the UPD_APPLY commands of the epoch (shard, status), repeated
fetches per shard (R280), blocks whose checksum failed in the epoch (R346). -/
structure Stw where
  rings : SMap Ring
  jobs : List StwJob
  nextJob : Nat
  mgmt : List MgmtJob
  applies : SMap (BitVec 8)
  fetches : SMap Nat
  badBlocks : List Nat
  /-- The steward's cores are halted (R400). -/
  halted : Bool
  /-- Entries found stale for which the spec names no counter: collective descriptors, steward commands and commits (R23, R274,
  R293; log 82). -/
  stale : Nat
  /-- The ring served last of those that feed a target (R270), by 2,048 * TCLASS + 8 * TUNIT + TQUEUE. -/
  turn : SMap Nat
  deriving DecidableEq, Repr

/-- Private training (chapter 8): the step's copy of the PCB and its validity (R249, R250), the DRBG (R257), and the
ledger chain, shards noised and flags (R259). -/
structure Priv where
  pcb : Option Block64
  pcbOk : Bool
  drbgKey : BitVec 256
  drbgV : BitVec 128
  drbgCount : Nat
  drbgOn : Bool
  seeded : Bool
  prevHash : BitVec 256
  exchOk : Bool
  noised : List Nat
  /-- PRIV_LEDGER_FULL has been raised for the held commit (R260). -/
  full : Bool
  /-- An interrupted commit whose record is stored and whose steps 5 and 6 are still to be done (R293, R297): its epoch and its
  ledger entry, with no bytes where the step is not private. -/
  due : Option (Nat × List Byte)
  deriving DecidableEq, Repr

/-- The open session (R440, R442). -/
structure Session where
  sid : BitVec 16
  /-- 0 I3C, 1 management ring (Table 15.14). -/
  chan : Fin 2
  slot : Nat
  isSealed : Bool
  seq : BitVec 32
  km : BitVec 256
  kw : BitVec 256
  linkKey : BitVec 256
  ledgerKey : BitVec 256
  kmin : Nat
  rpe : Nat
  manifest : List (BitVec 256)
  sparam : BitVec 256
  deriving DecidableEq, Repr

/-- A response of an I3C command waiting for its private read (R429): completion record and response. -/
structure Resp where
  rcd : Block16
  data : List Byte
  deriving DecidableEq, Repr

structure Sec where
  session : Option Session
  lastSid : BitVec 16
  lastSlot : Nat
  /-- Device memory holds what the session of LASTSLOT left (R443). -/
  kept : Bool
  sealMem : Bool
  /-- Slots 1 to 7 and 8 (Table 15.7); a key that is absent is not listed. -/
  keys : SMap (BitVec 256)
  kpw : Option (BitVec 256)
  salt : BitVec 128
  attKey : BitVec 256
  /-- Nonce of each channel with the tick it was given (R439). -/
  nonce : Vector (Option (BitVec 256 × Nat)) 2
  /-- Consecutive failed proofs, tick until which proofs are refused (R444). -/
  fails : Vector Nat 2
  refuse : Vector (Option Nat) 2
  meas : Vector (BitVec 256) 8
  /-- M1 to M5 at the training now stored (R436). -/
  trained : List (BitVec 256)
  /-- Images in the flash, banks A and B (R433). -/
  bank : Vector Mem 2
  svn : BitVec 16
  /-- Dynamic address of the I3C target; with none it also answers as a legacy target at 0x3C (R478). -/
  i3cAddr : Option (BitVec 7)
  /-- Bank of the image that runs (R433). -/
  active : Fin 2
  /-- Tick from which the idle time counts: the last sessioned command, or the entry into READY, HELD or DETACHED
  (R442). -/
  lastCmd : Nat
  resp : Option Resp
  deriving DecidableEq, Repr

/-- What production fixes in a part (log 3). -/
structure Fuse where
  hostBytes : Nat
  serial : BitVec 128
  debugOpen : Bool
  rootRevoked : BitVec 3
  minSvn : BitVec 16
  /-- TIL_AVAIL.MASK complement, TIL_SPARE and TIL_CELLMAP values by fuse, per cluster (R114). -/
  tileDis : SMap (BitVec 32)
  tileSpare : SMap (BitVec 32)
  cellMap : SMap (BitVec 32)
  /-- Cell substitutions of physical tile 32, per cluster (R113). -/
  spareMap : SMap (BitVec 32)
  /-- Resistance of each sense point in µΩ and the temperature of its calibration in 0.25 °C, by 64 * die + point (R364). -/
  connZ : SMap (Nat × Int)
  deriving DecidableEq, Repr

/-! ### Power (chapter 12) -/

/-- A sense point (R364, R365): its excess in %, ticks since it is above 30 % and above 60 %, further lowerings taken,
whether the crossing was reported, and the tick since it exceeds 60 % at OP0. -/
structure Sense where
  excess : Nat
  over30 : Option Nat
  over60 : Option Nat
  told : Bool
  taken : Nat
  atFloor : Option Nat
  deriving DecidableEq, Repr

/-- The last accepted envelope (Table 12.7): SEQ, RAMP, SHED and VALID. -/
structure Envel where
  seq : BitVec 8
  ramp : Nat
  shed : Nat
  valid : Nat
  deriving DecidableEq, Repr

/-- The arbiter, the supply's signals and the ceilings they set (R359 to R382). -/
structure Pw where
  /-- Notches: compute ceiling of each die, throttle level in %, and ports whose wavelength a notch parked, latest
  first (Table 12.6). -/
  compute : Vector (Fin 8) 4
  mem : Nat
  parked : List Nat
  /-- Package power of each µs in µW, latest first, at most 100,000 of them, and its averages over 10 µs, 1 ms and 100 ms in
  0.1 mW (R359). -/
  hist : List Nat
  /-- Sum of the samples since the last heat-balance check, and their number (R399). -/
  secUw : Nat
  secN : Nat
  p10 : Nat
  p1ms : Nat
  a100 : Nat
  /-- P_fc in W (R373). -/
  pfc : Nat
  /-- Power of the tile filler that holds a fall, in 0.1 mW (R376). -/
  fill : Nat
  /-- Power of the dies' meshes and HBM power above refresh at the last evaluation, and P_eff then in 0.1 mW. -/
  mesh : Vector Nat 4
  hbm : Nat
  peff : Nat
  /-- Tick since P_eff - P_pred has been at least HYST, and since P10 has been above P_eff (R375, R376). -/
  room : Option Nat
  high : Option Nat
  excursion : Bool
  /-- Envelope cap E in units of 0.1 mW and target T in W (R377). -/
  ecap : Nat
  target : Nat
  env : Option Envel
  /-- RAMP of the envelope that governs (R377). -/
  ramp : Option Nat
  /-- Tick of the last envelope, or of the enable; whether its limit has passed; whether E falls under a new one. -/
  envAt : Nat
  lapsed : Bool
  falling : Bool
  /-- SHED_N (R378): asserted, the shed cap in force, and target and RAMP of an envelope that came meanwhile. -/
  shedOn : Bool
  shedCap : Option Nat
  pendT : Option (Nat × Nat)
  /-- VR_ALERT_N (R379): asserted, ceiling of each die, tick of the last rise. -/
  vrOn : Vector Bool 4
  vrCeil : Vector (Fin 8) 4
  vrUp : Vector (Option Nat) 4
  /-- Connection ceilings of the dies (R365), and the sense points by 64 * die + point. -/
  dieConn : Vector (Fin 8) 4
  sense : SMap Sense
  /-- Thermal ceilings of the dies (chapter 13). -/
  thermal : Vector (Fin 8) 4
  /-- Clock region of each die's fabric. -/
  dieClk : Vector ClkSt 4
  /-- The last frame on the load forecast line (R381). -/
  frame : BitVec 40
  /-- Tick of the last frame and of the last 10 µs evaluation. -/
  frameAt : Nat
  evalAt : Nat
  deriving DecidableEq, Repr

/-! ### Links and collectives (chapter 10) -/

/-- Port states (Table 10.2). -/
inductive PortSt where
  | off | dark | training | pairing | keying | up | retrain | failed
  deriving DecidableEq, Repr

/-- A data flit before it is numbered, encrypted and given a credit (R309). `run` is the number of its message at this
device, `res` the reservations its collective names (R194), and `back` the receive slot of a forwarded flit: its port and
credit counter (R314). -/
structure TxFlit where
  run : Nat
  vc : Fin 4
  first : Bool
  last : Bool
  dst : BitVec 12
  src : BitVec 12
  payload : BitVec 1792
  res : List Nat
  back : Option (Nat × Fin 5)
  deriving DecidableEq, Repr

/-- A flit in the replay buffer (R312) and how often it was retransmitted. -/
structure Unacked where
  seq : BitVec 12
  flit : TxFlit
  tries : Nat
  deriving DecidableEq, Repr

/-- A message that is not wholly acknowledged (R320, R332): its number, port, destination, source, VC, reservations, the
payloads it has so far and whether the last is among them, flits not yet acknowledged, the collective (die, number) that
waits on it, and for a forwarded message the port it arrives on. -/
structure OutMsg where
  id : Nat
  port : Nat
  dst : BitVec 12
  src : BitVec 12
  vc : Fin 4
  res : List Nat
  pay : List (BitVec 1792)
  closed : Bool
  left : Nat
  org : Option (Nat × Nat)
  via : Option Nat
  deriving DecidableEq, Repr

/-- A message received whole that still holds receive slots (R314, R330): its type, its fields and the credit counters
of its slots. -/
structure InMsg where
  port : Nat
  mtype : Nat
  msg : Msg
  slots : List (Fin 5)
  deriving DecidableEq, Repr

/-- The content of a control flit (R311). -/
inductive Ctl where
  | nak (seq : BitVec 12)
  | credits (cnt : Vector (BitVec 13) 5)
  | time (f : TimeFlit)
  | lane (lock failed parked : BitVec 8)
  | rekey (kgen : BitVec 32)
  deriving DecidableEq, Repr

structure PortS where
  st : PortSt
  qual : Bool
  /-- Wavelengths of the laser input that are at or above their minimum (R301). -/
  light : BitVec 8
  failed : BitVec 8
  parked : BitVec 8
  /-- Unparked wavelengths whose lock the peer has not reported (R308). -/
  unpark : BitVec 8
  /-- Receive wavelengths powered down by PARK, and consecutive lane words per wavelength: PARK or UNPARK and count
  (R308). -/
  rxDown : BitVec 8
  runs : SMap (Bool × Nat)
  /-- Masks of the peer's last LANE flit. -/
  peerLock : BitVec 8
  peerFailed : BitVec 8
  peerParked : BitVec 8
  cause : BitVec 4
  loopNs : BitVec 16
  peer : Option (BitVec 12 × BitVec 5)
  /-- Wavelengths with codeword lock in a training attempt, once Table 10.3's step 2 is done (R305). -/
  locked : Option (BitVec 8)
  /-- Per wavelength, the last codeword count (R303) and the ticks of uncorrectable codewords, latest first (R307). -/
  cwc : SMap (BitVec 8)
  ue : SMap (List Nat)
  /-- No uncorrectable codeword and no retrain since the port came UP (R435). -/
  clean : Bool
  /-- Tick the state, or for a training attempt the signal, began, and ticks of the retrains of the last second. -/
  since : Nat
  retrains : List Nat
  -- transmitter
  txq : Vector (List TxFlit) 4
  unacked : List Unacked
  nextSeq : BitVec 12
  resend : Option (BitVec 12)
  fcntTx : BitVec 64
  kgenTx : BitVec 32
  kphTx : Bool
  keyFlits : Nat
  /-- Credits: counts freed by the peer and used, for the four dedicated counters and the pool. -/
  freedIn : Vector (BitVec 13) 5
  used : Vector (BitVec 13) 5
  csel : Fin 5
  sinceMgmt : Nat
  /-- The message a VC has begun to send (R320), and which of VCs 0 and 1 was served last (R310). -/
  cur : Vector (Option Nat) 4
  turn : Fin 2
  /-- Ticks of the last data flit, the last control flit and the last CREDITS flit. -/
  lastData : Nat
  lastCtl : Nat
  lastCred : Nat
  ackAt : Nat
  -- receiver
  expSeq : BitVec 12
  fcntRx : BitVec 64
  kgenRx : BitVec 32
  kphRx : Bool
  announced : Option (BitVec 32)
  /-- The old key and the tick of the first flit of the new phase (R316). -/
  oldKey : Option (BitVec 32 × Nat)
  freed : Vector (BitVec 13) 5
  nakAt : Option Nat
  lastRx : Nat
  authAt : List Nat
  asm : Vector (List Byte × List (Fin 5)) 4
  /-- The message being forwarded, by VC (R318). -/
  fwd : Vector (Option Nat) 4
  /-- LNK_CREDIT and the own rank as they stood at the last training (R463). -/
  cred : BitVec 32
  rank : BitVec 12
  /-- The key from which the port's link keys were derived at its last training, unless a session close erased it (R306,
  R315). -/
  kdk : Option (BitVec 256)
  /-- The last data flit and the last control flit placed on the transmit fibre. -/
  out : Flit
  outCtl : Flit
  deriving DecidableEq, Repr

/-- A collective in an engine (R321, R323). -/
structure CollJob where
  k : Nat
  cmd : Block64
  ring : Option (Nat × BitVec 32)
  seq : Option (Nat × Nat)
  /-- Its place in the order of acceptance and the codebook slots it names (R36). -/
  ord : Nat
  cbs : Ranges
  ph : JobPh
  /-- Tick of its last progress (R332). -/
  last : Nat
  /-- Pieces sent (chunk * 4096 + rank, offset), pieces written (chunk, offset), and chunks verified. -/
  sent : List (Nat × Nat)
  wrote : List (Nat × Nat)
  checked : List Nat
  status : BitVec 8
  off : BitVec 8
  cnt : BitVec 24
  ev : Bool
  deriving DecidableEq, Repr

/-- A collective engine: collectives in flight, messages kept for their sequence numbers (type and message) (R330, R331),
sequence numbers completed (group, generation, number), numbers of PUT and SIGNAL messages sent to each peer, and numbers
applied by sender. -/
structure CollEng where
  jobs : List CollJob
  nextJob : Nat
  got : List (Nat × Msg)
  done : List (Nat × Nat × Nat)
  putNo : SMap Nat
  seen : List (Nat × Nat)
  deriving DecidableEq, Repr

/-- Time across devices (R333 to R335): lock, consecutive good exchanges, tick of the last valid exchange, depth, last
offset, t1 of the request that waits, tick of the last request. -/
structure TSync where
  locked : Bool
  good : Nat
  lastOk : Nat
  depth : BitVec 8
  offset : Int
  t1 : Option (BitVec 64)
  lastReq : Nat
  deriving DecidableEq, Repr

structure Lnk where
  port : SMap PortS
  eng : SMap CollEng
  out : List OutMsg
  nextMsg : Nat
  inbox : List InMsg
  tsync : TSync
  deriving DecidableEq, Repr

/-! ### Heat (chapter 13) and pins (chapter 17) -/

/-- A sensor of a hot spot (R385, R386, R388): last reading in 0.25 °C, marks, and the tick its sequence count last
changed. -/
structure Sensor where
  reading : BitVec 11
  suspect : Bool
  failed : Bool
  at_ : Nat
  deriving DecidableEq, Repr

/-- A hot spot: its two sensors, the tick since which their readings differ by more than 4 °C, and whether that was told
(R388). -/
structure HotSpot where
  a : Sensor
  b : Sensor
  apart : Option Nat
  told : Bool
  deriving DecidableEq, Repr

/-- A stack (R394): temperature, throttle step, tick of the last change of the step. -/
structure StackSt where
  temp : BitVec 11
  step : Nat
  /-- Tick of the last change of the step, and of that or the last reading at or above 97 °C, the later. -/
  at_ : Nat
  warmAt : Nat
  deriving DecidableEq, Repr

/-- An accepted coolant frame (Table 13.1). -/
structure Coolant where
  tin : Int
  tout : Int
  flow : Nat
  seq : BitVec 8
  flags : BitVec 3
  deriving DecidableEq, Repr

/-- Thermal state (R385 to R401). Hot spots by cluster, 96 the steward's; model nodes by 4 * cluster + node (tile array,
engines, buffer, mesh) and forecasts likewise, in 1/4096 °C. -/
structure Thm where
  hs : SMap HotSpot
  nodes : SMap Int
  fcst : SMap Int
  stack : SMap StackSt
  /-- Tick since which each die has been calm: the last change of its ceiling or the last reading above 92 °C (R391). -/
  calm : Vector Nat 4
  /-- The last change of each die's ceiling was a lowering. -/
  lowered : Vector Bool 4
  /-- Thermal cap, the tick of its last change, and the tick since which no die's condition holds (R392). -/
  cap : Option Nat
  capAt : Nat
  clear : Option Nat
  /-- Coolant: last accepted frame since the last start, tick of the last frame that counts, telemetry lost, last valid
  inlet temperature in 0.01 °C, consecutive frames at or below 600 mL/min, and the coolant cap of the last evaluation (R395 to R397). -/
  cool : Option Coolant
  coolAt : Nat
  lost : Bool
  inlet : Option Int
  lowFlow : Nat
  coolCap : Option Nat
  /-- Heat balance: consecutive counted mismatches and matches, the flag, P of the last second in µW, and the tick at which
  the present second began, with the sum of FLOW × (TOUT − TIN) over its accepted frames and their number (R399). -/
  mis : Nat
  hit : Nat
  flagged : Bool
  balP : Nat
  balAt : Nat
  balHeat : Int
  balFrames : Nat
  deriving DecidableEq, Repr

/-- Rails by Table 17.4: 0 VAUX, 1 VRET, 2 VIN_SD, 3 VPP_HBM, 4 VDD_HBM, 5 VDD_BASE, 6 VDDQ_HBM, 7 to 10 VIN_CD0 to 3,
11 VOPT_D, 12 VOPT_A. `bad`: the order was broken and not every core rail has been removed since (R481). -/
structure Pins where
  rail : Vector Bool 13
  bad : Bool
  /-- THERMTRIP_N is low (R401). -/
  trip : Bool
  deriving DecidableEq, Repr

/-- The test access port (R491 to R496): instruction, bit 3 of the next capture, cells captured and cells driven of the
boundary register, whether they drive the pins, the test data register, the word of a RETREAD with the next address, and the units whose SRAM
a memory self-test destroyed since the last start (R495). -/
structure Tap where
  instr : BitVec 8
  refused : Bool
  captured : BitVec 1208
  latched : BitVec 1208
  drives : Bool
  highz : Bool
  data : BitVec 64
  sel : Option (BitVec 16)
  pos : Nat
  wiped : List (Fin 5)
  deriving DecidableEq, Repr

/-! ### The whole state -/

/-- Device time: Meridian counter (R415, R416), correction still to be slewed (R334) and holdover (R423). -/
structure Time where
  meridian : BitVec 64
  slew : Int
  holdover : Bool
  deriving DecidableEq, Repr

structure State where
  /-- Commands that wait, first in first out. -/
  pending : List Instr
  /-- Reference ticks of 10 ns since the reset state (R24). -/
  ticks : Nat
  /-- The model's own counter of free values (log 1). -/
  free : Nat
  fuse : Fuse
  dev : Dev
  time : Time
  regs : Regs
  cfg : Cfg
  evt : Evt
  /-- Bytes of HBM and of host memory by DPA (R7). -/
  mem : Mem
  /-- Release classes of 4 KiB blocks that are not PRIVATE (R446). -/
  cls : SMap (BitVec 4)
  hbm : Hbm
  shc : Shc
  /-- The codebook table of each compute die, by 1,024 * die + slot (R34). -/
  cb : SMap CbSlot
  cbLoads : List CbLoad
  stat : SMap StatAcc
  runGen : BitVec 16
  sync : Sync
  /-- The installed reservations (Table 6.5) by number (R192), and whether they are suspended (R171). -/
  resTab : SMap Block16
  resSuspended : Bool
  /-- Credit of each reservation's bucket (R194), in hundredths of a byte, and the tick it was counted. -/
  buckets : SMap (Nat × Nat)
  /-- The installed phase table: bits [7:0] of Table 8.2 (R234), and the demands of the learned controller by
  256 * die + tag (R372); a tag not listed has 65,535. -/
  phtab : SMap (BitVec 8)
  learn : SMap (BitVec 16)
  /-- Descriptors accepted so far, over all clusters (R36). -/
  order : Nat
  cl : SMap Cl
  pw : Pw
  thm : Thm
  pins : Pins
  tap : Tap
  lnk : Lnk
  stw : Stw
  priv : Priv
  sec : Sec
  /-- Status and data a slice or a controller last answered to a requester. -/
  answer : BitVec 8 × List Byte
  deriving DecidableEq, Repr

/-! ### Reset -/

def Chan.reset : Chan := ⟨.live, [], [], [], 0, 0⟩
/-- DESIGN CHOICE (log 61): the spec gives the entries of an Empty slot no contents; they are 0. -/
def CbSlot.reset : CbSlot := ⟨.empty, 0, List.replicate 256 0, List.replicate 256 0⟩
def StatAcc.reset : StatAcc := ⟨none, 0, 0, 0, 0, 0, 0⟩
def ClkSt.reset : ClkSt := ⟨7, 7, none, true, 0, false, 7⟩
def TileSt.reset : TileSt := ⟨[], #v[.free, .free], 0, [], none, .gated, none⟩
def VReg.reset : VReg := ⟨Vector.replicate 256 0, 0, 0⟩
def SReg.reset : SReg := ⟨0, 0, false⟩
def VeSt.reset : VeSt := ⟨[], [], [], [], none, none, [], [], none⟩
def Ring.reset : Ring := ⟨0, 0, 0, 0, 0, 0, .idle⟩

/-- A cluster at reset (logs 7, 8 and 9). -/
def Cl.reset : Cl where
  queue := #v[[], [], [], [], [], [], [], []]
  flight := []
  issueNo := 0
  stage := 0
  result := 0
  status := 0
  cq := []
  cqProd := 0
  cqCons := 0
  cqPass := true
  cqUsed := 0
  cqIen := false
  merHi := 0
  swObj := 0
  swGen := 0
  swThr := 0
  arm := false
  met := false
  swStale := false
  swIen := false
  sumIen := 0
  cc := .reset
  ccPc := 0
  ccX := Vector.replicate 32 0
  ccCsr := []
  imem := []
  dmem := []
  halted := false
  slipSeen := []
  tile := []
  tileLive := []
  tileShadow := []
  bufLive := []
  bufShadow := []
  buf := []
  rq := []
  ve := []
  notice := none
  decls := []
  phfail := 0
  connCeil := 7
  region := .active
  clk := ClkSt.reset
  dawnReq := none
  dawnAt := none
  deferred := none
  idleAt := 0

/-- The part as production fuses it (log 3). -/
def Fuse.reset : Fuse := ⟨2 ^ 40, 0, false, 0, 0, [], [], [], [], []⟩

/-- A cold start has begun and no step of it has run (log 5). -/
def Dev.reset : Dev where
  st := .dawn
  start := some ⟨true, 0⟩
  upAt := 0
  inReset := false
  holdPending := false
  replayDue := []
  heldReplay := false
  drainBack := false
  drained := false
  restartDue := false
  holdDue := none
  stopped := false
  selfRefresh := true
  powerLost := false
  faultCold := false
  bistAt := none
  job := false

/-- A port at reset: OFF until step 10 of the start (Tables 10.19 and 15.5), with its laser input lit (logs 9 and 11). -/
def PortS.reset : PortS where
  st := .off
  qual := false
  light := 255
  failed := 0
  parked := 0
  unpark := 0
  rxDown := 0
  runs := []
  peerLock := 0
  peerFailed := 0
  peerParked := 0
  cause := 0
  loopNs := 0
  peer := none
  locked := none
  cwc := []
  ue := []
  clean := false
  since := 0
  retrains := []
  txq := #v[[], [], [], []]
  unacked := []
  nextSeq := 0
  resend := none
  fcntTx := 0
  kgenTx := 0
  kphTx := false
  keyFlits := 0
  freedIn := #v[0, 0, 0, 0, 0]
  used := #v[0, 0, 0, 0, 0]
  csel := 0
  sinceMgmt := 15
  cur := #v[none, none, none, none]
  turn := 1
  lastData := 0
  lastCtl := 0
  lastCred := 0
  ackAt := 0
  expSeq := 0
  fcntRx := 0
  kgenRx := 0
  kphRx := false
  announced := none
  oldKey := none
  freed := #v[0, 0, 0, 0, 0]
  nakAt := none
  lastRx := 0
  authAt := []
  asm := #v[([], []), ([], []), ([], []), ([], [])]
  fwd := #v[none, none, none, none]
  cred := 0x2040C0C0
  rank := 0
  kdk := none
  out := 0
  outCtl := 0

def CollEng.reset : CollEng := ⟨[], 0, [], [], [], []⟩

/-- Power at reset (log 9). -/
def Pw.reset : Pw where
  compute := #v[7, 7, 7, 7]
  mem := 100
  parked := []
  hist := []
  secUw := 0
  secN := 0
  p10 := 0
  p1ms := 0
  a100 := 0
  pfc := 0
  fill := 0
  mesh := #v[0, 0, 0, 0]
  hbm := 0
  peff := 0
  room := none
  high := none
  excursion := false
  ecap := 0
  target := 0
  env := none
  ramp := none
  envAt := 0
  lapsed := false
  falling := false
  shedOn := false
  shedCap := none
  pendT := none
  vrOn := #v[false, false, false, false]
  vrCeil := #v[7, 7, 7, 7]
  vrUp := #v[none, none, none, none]
  dieConn := #v[7, 7, 7, 7]
  sense := []
  thermal := #v[7, 7, 7, 7]
  dieClk := #v[ClkSt.reset, ClkSt.reset, ClkSt.reset, ClkSt.reset]
  frame := 0
  frameAt := 0
  evalAt := 0

def Sensor.reset : Sensor := ⟨0, false, false, 0⟩
def HotSpot.reset : HotSpot := ⟨Sensor.reset, Sensor.reset, none, false⟩
def StackSt.reset : StackSt := ⟨0, 0, 0, 0⟩

/-- Heat at reset (log 10). -/
def Thm.reset : Thm where
  hs := []
  nodes := []
  fcst := []
  stack := []
  calm := #v[0, 0, 0, 0]
  lowered := #v[false, false, false, false]
  cap := none
  capAt := 0
  clear := none
  cool := none
  coolAt := 0
  lost := true
  inlet := none
  lowFlow := 0
  coolCap := none
  mis := 0
  hit := 0
  flagged := false
  balP := 0
  balAt := 0
  balHeat := 0
  balFrames := 0

def Pins.reset : Pins := ⟨Vector.replicate 13 true, false, false⟩
def Tap.reset : Tap := ⟨0x01, false, 0, 0, false, false, 0, none, 0, []⟩

def Priv.reset : Priv := ⟨none, true, 0, 0, 0, false, false, 0, true, [], false, none⟩

def Sec.reset : Sec where
  session := none
  lastSid := 0
  lastSlot := 0
  kept := false
  sealMem := false
  keys := []
  kpw := none
  salt := 0
  attKey := 0
  nonce := #v[none, none]
  fails := #v[0, 0]
  refuse := #v[none, none]
  meas := Vector.replicate 8 0
  trained := []
  bank := #v[[], []]
  svn := 0
  i3cAddr := none
  active := 0
  lastCmd := 0
  resp := none

/-- The machine right after reset: the state of a cold start that has just begun. -/
def State.reset : State where
  pending := []
  ticks := 0
  free := 0
  fuse := Fuse.reset
  dev := Dev.reset
  time := ⟨0, 0, false⟩
  regs := ⟨[], [], [], [], []⟩
  cfg := ⟨.idle, 0, false, [], []⟩
  evt := ⟨[], [], 0, []⟩
  mem := []
  cls := []
  hbm := ⟨[], [], none, none, false, []⟩
  shc := ⟨[], [], [], [], []⟩
  cb := []
  cbLoads := []
  stat := []
  runGen := 0
  sync := ⟨[], 0, none, 0, [], []⟩
  resTab := []
  resSuspended := false
  buckets := []
  phtab := []
  learn := []
  order := 0
  cl := []
  pw := Pw.reset
  thm := Thm.reset
  pins := Pins.reset
  tap := Tap.reset
  lnk := ⟨[], [], [], 0, [], ⟨false, 0, 0, 0, 0, none, 0⟩⟩
  stw := ⟨[], [], 0, [], [], [], [], false, 0, []⟩
  priv := Priv.reset
  sec := Sec.reset
  answer := (0, [])

/-! ### Why a step stops -/

/-- Stops of the machine: none of its commands has one. -/
inductive Fault where
  deriving DecidableEq, Repr

/-- Refusals. -/
inductive Refusal where
  /-- Raised by an arm of exec whose command has no meaning yet. Safe: nothing is claimed of it. -/
  | notModelled (mnemonic : String)
  deriving DecidableEq, Repr

end Sys2Proof.Machine
end

