-- ==== Sys2Proof/Machine/Ops.lean ====
section
/-!
DEFINITION. The named operations over sparse tables, byte memories and the parts of the state: every reader and writer
of a cluster, a tile, an engine, a codebook slot, a synchronisation object or a byte goes through here.
-/

namespace Sys2Proof.Machine

/-! ### Sparse tables -/

def SMap.find {α : Type} (k : Nat) : SMap α → Option α
  | [] => none
  | (x, v) :: t => if x = k then some v else SMap.find k t

/-- The value of a key, or the default. -/
def SMap.val {α : Type} (d : α) (m : SMap α) (k : Nat) : α := (SMap.find k m).getD d

/-- Write of a key, keeping keys rising. -/
def SMap.put {α : Type} (k : Nat) (v : α) : SMap α → SMap α
  | [] => [(k, v)]
  | (x, w) :: t => if k < x then (k, v) :: (x, w) :: t else if k = x then (k, v) :: t else (x, w) :: SMap.put k v t

def SMap.del {α : Type} (k : Nat) (m : SMap α) : SMap α := m.filter fun p => p.1 != k

/-! ### Byte memories -/

/-- One byte; an unlisted address reads 0. -/
def Mem.byte (m : Mem) (a : Nat) : Byte := (SMap.find a m).getD 0

/-- The cells that lie in [a, a + n). -/
def Mem.slice (m : Mem) (a n : Nat) : Mem := m.filter fun p => a ≤ p.1 && p.1 < a + n

/-- `n` bytes from address `a`. -/
def Mem.bytes (m : Mem) (a n : Nat) : List Byte :=
  let w := Mem.slice m a n
  (List.range n).map fun i => Mem.byte w (a + i)

/-- The cells of a byte string at address `a`: its bytes that are not zero. -/
def Mem.cells (a : Nat) : List Byte → Mem
  | [] => []
  | b :: t => if b = 0 then Mem.cells (a + 1) t else (a, b) :: Mem.cells (a + 1) t

/-- Write of a byte string at address `a`. -/
def Mem.write (m : Mem) (a : Nat) (bs : List Byte) : Mem :=
  m.filter (fun p => p.1 < a) ++ Mem.cells a bs ++ m.filter (fun p => a + bs.length ≤ p.1)

/-- Zeroes in [a, a + n). -/
def Mem.wipe (m : Mem) (a n : Nat) : Mem := m.filter fun p => p.1 < a || a + n ≤ p.1

/-- Canonical form: addresses strictly rising from `lo`, no zero byte. -/
def Mem.wfFrom (lo : Nat) : Mem → Bool
  | [] => true
  | (x, b) :: t => lo ≤ x && b != 0 && Mem.wfFrom (x + 1) t

/-- The canonical form of a byte memory. -/
def Mem.wf (m : Mem) : Bool := Mem.wfFrom 0 m

/-! ### Parts of the state -/

/-- Cluster c (R6). -/
def State.clus (s : State) (c : Nat) : Cl := SMap.val Cl.reset s.cl c
def State.setClus (s : State) (c : Nat) (x : Cl) : State := { s with cl := SMap.put c x s.cl }
def State.onClus (s : State) (c : Nat) (f : Cl → Cl) : State := s.setClus c (f (s.clus c))

/-- Die of a cluster (R6). -/
def dieOf (c : Nat) : Nat := c / 24

def Cl.tileAt (x : Cl) (t : Nat) : TileSt := SMap.val TileSt.reset x.tile t
def Cl.setTile (x : Cl) (t : Nat) (y : TileSt) : Cl := { x with tile := SMap.put t y x.tile }
def Cl.veAt (x : Cl) (v : Nat) : VeSt := SMap.val VeSt.reset x.ve v
def Cl.setVe (x : Cl) (v : Nat) (y : VeSt) : Cl := { x with ve := SMap.put v y x.ve }
def Cl.qAt (x : Cl) (q : Fin 8) : List Job := x.queue[q]
def Cl.setQ (x : Cl) (q : Fin 8) (l : List Job) : Cl := { x with queue := x.queue.set q l }

def State.onTile (s : State) (c t : Nat) (f : TileSt → TileSt) : State :=
  s.onClus c fun x => x.setTile t (f (x.tileAt t))
def State.onVe (s : State) (c v : Nat) (f : VeSt → VeSt) : State :=
  s.onClus c fun x => x.setVe v (f (x.veAt v))

/-- Bindings of a tile's store, or of the cluster buffer for number 32 (R181). -/
def Cl.live (x : Cl) (t : Nat) : List Binding := if t = 32 then x.bufLive else SMap.val [] x.tileLive t
def Cl.shadow (x : Cl) (t : Nat) : List Binding := if t = 32 then x.bufShadow else SMap.val [] x.tileShadow t
def Cl.setLive (x : Cl) (t : Nat) (l : List Binding) : Cl :=
  if t = 32 then { x with bufLive := l } else { x with tileLive := SMap.put t l x.tileLive }
def Cl.setShadow (x : Cl) (t : Nat) (l : List Binding) : Cl :=
  if t = 32 then { x with bufShadow := l } else { x with tileShadow := SMap.put t l x.tileShadow }

/-- Local memory: a tile's store, or the cluster buffer for number 32. -/
def Cl.localMem (x : Cl) (t : Nat) : Mem := if t = 32 then x.buf else (x.tileAt t).store
def Cl.setLocalMem (x : Cl) (t : Nat) (m : Mem) : Cl :=
  if t = 32 then { x with buf := m } else x.setTile t { x.tileAt t with store := m }

/-- Change of the descriptor with issue number n, wherever it is. -/
def Cl.onJob (x : Cl) (n : Nat) (f : Job → Job) : Cl :=
  let g := fun (j : Job) => if j.n = n then f j else j
  { x with flight := x.flight.map g, queue := x.queue.map fun l => l.map g }

def State.onJob (s : State) (c n : Nat) (f : Job → Job) : State := s.onClus c fun x => x.onJob n f

/-- A descriptor in flight. -/
def Cl.inFlight (x : Cl) (n : Nat) : Option Job := x.flight.find? fun j => j.n = n

/-- Codebook slot i in the copy of compute die d (R34). -/
def State.slot (s : State) (d i : Nat) : CbSlot := SMap.val CbSlot.reset s.cb (1024 * d + i)
/-- A slot's entries with the residues of their levels. -/
def CbSlot.table (x : CbSlot) : LevTab := List.zip x.levels x.res
def State.obj (s : State) (o : Nat) : SyncObj := SMap.val ⟨0, s.sync.gen0, s.sync.reset0⟩ s.sync.obj o
/-- An object listed for the first time takes with it the resets still held for it (R166). -/
def State.setObj (s : State) (o : Nat) (x : SyncObj) : State :=
  let due := if (SMap.find o s.sync.obj).isSome then [] else List.replicate s.sync.held0 (o, none)
  { s with sync := { s.sync with obj := SMap.put o x s.sync.obj, resets := s.sync.resets ++ due } }
def State.chan (s : State) (c : Nat) : Chan := SMap.val Chan.reset s.hbm.chan c
def State.setChan (s : State) (c : Nat) (x : Chan) : State :=
  { s with hbm := { s.hbm with chan := SMap.put c x s.hbm.chan } }
def State.ring (s : State) (r : Nat) : Ring := SMap.val Ring.reset s.stw.rings r
def State.setRing (s : State) (r : Nat) (x : Ring) : State :=
  { s with stw := { s.stw with rings := SMap.put r x s.stw.rings } }
def State.stwJob (s : State) (k : Nat) : Option StwJob := s.stw.jobs.find? fun j => j.k = k
def State.onStw (s : State) (k : Nat) (f : StwJob → StwJob) : State :=
  { s with stw := { s.stw with jobs := s.stw.jobs.map fun j => if j.k = k then f j else j } }

/-- The next free value's number, and the state that has used it (log 1). -/
def State.takeFree (s : State) : Nat × State := (s.free, { s with free := s.free + 1 })

/-- A step runs (R426). -/
def State.running (s : State) : Bool := s.dev.st = .running || s.dev.st = .draining

/-- Code of the device state (Table 15.9). -/
def DevState.code : DevState → Nat
  | .off => 0 | .dawn => 1 | .standby => 2 | .ready => 3 | .running => 4 | .held => 5 | .draining => 6
  | .detached => 7 | .fault => 8

/-! ### Channels and the address map (R205, R7) -/

/-- Channels in the live list (R205): live or Failing. -/
def State.chanLive (s : State) (c : Nat) : Bool := (s.chan c).st = .live || (s.chan c).st = .failing

/-- Live channels of die d in ascending order, given the channels that are not. -/
def State.liveOf (s : State) (d : Nat) : List Nat :=
  let gone := (s.hbm.chan.filter fun p => p.2.st = .mapped || p.2.st = .notLive).map (·.1)
  ((List.range 160).map (160 * d + ·)).filter fun c => !gone.contains c

/-- Number of channels of die d that are not live. -/
def State.goneOf (s : State) (d : Nat) : Nat :=
  (s.hbm.chan.filter fun p => (p.2.st = .mapped || p.2.st = .notLive) && p.1 / 160 = d).length

/-- L_d and L. -/
def State.liveCnt (s : State) (d : Nat) : Nat := 160 - s.goneOf d
def State.liveAll (s : State) : Nat := s.liveCnt 0 + s.liveCnt 1 + s.liveCnt 2 + s.liveCnt 3

/-- First address above HBM as locate sees it (R205). -/
def State.hbmEnd (s : State) : Nat := s.liveAll * 2 ^ 31

/-- First address above HBM for the acceptance of descriptors: a map-out counts from its instant (R9, Table 7.5). -/
def State.hbmTop (s : State) : Nat :=
  match s.hbm.mapOut with
  | some m => if m.flushed then s.hbmEnd else (s.liveAll - m.chans.length) * 2 ^ 31
  | none => s.hbmEnd

/-- A descriptor accepted at or after the instant of the map-out in progress is held before dispatch (Table 7.5). -/
def State.heldBack (s : State) (ord : Nat) : Bool :=
  match s.hbm.mapOut with
  | some m => m.ord ≤ ord
  | none => false

/-- The address map that the checks of work accepted at place `ord` use: work accepted before the instant of a map-out
completes against the old map (R9). -/
def State.mapOf (s : State) (ord : Nat) : State :=
  if s.heldBack ord then s else { s with hbm := { s.hbm with mapOut := none } }

def hostBase : Nat := 0x400000000000
def bellBase : Nat := 0xFE0000000000
def bellEnd : Nat := 0xFE0010000000
def regBase : Nat := 0xFF0000000000
def dpaEnd : Nat := 2 ^ 48

/-- A range of HBM below the current top. -/
def State.inHbm (s : State) (a n : Nat) : Bool := a + n ≤ s.hbmTop
/-- A range of HBM that exists, whatever a map-out in progress holds back. -/
def State.present (s : State) (a n : Nat) : Bool :=
  a + n ≤ s.hbmEnd || (hostBase ≤ a && a + n ≤ hostBase + s.fuse.hostBytes)
/-- A range of the host window up to installed capacity. -/
def State.inHost (s : State) (a n : Nat) : Bool := hostBase ≤ a && a + n ≤ hostBase + s.fuse.hostBytes
/-- A range that data may lie in: R8 for data, with the doorbell and set-up ranges refused (R451). -/
def State.dataOk (s : State) (a n : Nat) : Bool := s.inHbm a n || s.inHost a n

/-- The function mix of R205. -/
def mixQ (q : Nat) : Nat := Nat.xor (Nat.xor q (q / 2 ^ 8)) (q / 2 ^ 16)

/-- locate (R205): channel and offset of a byte of HBM. -/
def State.locate (s : State) (dpa : Nat) : Nat × Nat :=
  let l := s.liveAll
  let b := dpa / 4096
  let w := dpa / 256 % 16
  let q := b / l
  let sl := (b + mixQ q) % l
  let l0 := s.liveCnt 0
  let l1 := s.liveCnt 1
  let l2 := s.liveCnt 2
  let (d, st) := if sl < l0 then (0, 0) else if sl < l0 + l1 then (1, l0)
    else if sl < l0 + l1 + l2 then (2, l0 + l1) else (3, l0 + l1 + l2)
  let ld := s.liveCnt d
  let j := q * ld + (sl - st)
  let g := j * 16 + w
  ((s.liveOf d).getD (g % ld) 0, g / ld * 256 + dpa % 256)

/-- Home slice of a block of HBM, as 32 d + k (R207, R208). -/
def State.homeSlice (s : State) (dpa : Nat) : Nat :=
  let ch := (s.locate (dpa / 4096 * 4096)).1
  32 * (ch / 160) + ch % 160 / 5

end Sys2Proof.Machine
end

