-- ==== Sys2Proof/Machine/Registers.lean ====
section
/-!
DEFINITION. The set-up registers (R451 to R453, Table 16.1): their addresses, widths, fields, access types (R17) and
reset values, one table for each block, and raw access to their values. A register holds its reset value until it is
written. Fields whose Reset column says Start or Fuse are views of the state (Machine/Views.lean).
-/

namespace Sys2Proof.Machine

/-- Access types (R17); `cnt` is a companion counter, which only a write of zero clears (R20). -/
inductive Acc where
  | rw | ro | w1c | w1s | rws | ros | wo | cnt
  deriving DecidableEq, Repr

/-- A field: low bit, length, access, reset value. -/
structure Fld where
  lo : Nat
  len : Nat
  acc : Acc
  rst : Nat
  deriving DecidableEq, Repr

/-- A register, or an array of `count` registers `stride` bytes apart. `lock` marks those whose writes are ignored while
the device is RUNNING (R21), `staged` those of Table 16.4. -/
structure Reg where
  off : Nat
  stride : Nat
  count : Nat
  width : Nat
  lock : Bool
  staged : Bool
  flds : List Fld
  deriving DecidableEq, Repr

/-- Blocks of Table 16.1. -/
inductive Blk where
  | til | vec | seq | syn | stmd | stm | mem | shc | upd | lnk | pwr | thm | clk | sec | gen | cfg | evt
  deriving DecidableEq, Repr

/-- Base address, distance between instances and number of instances (Table 16.1). -/
def Blk.place : Blk → Nat × Nat × Nat
  | .til => (0xFF0001000000, 0x10000, 96)
  | .vec => (0xFF0001001000, 0x10000, 96)
  | .seq => (0xFF0001002000, 0x10000, 96)
  | .syn => (0xFF0000100000, 0x20000, 4)
  | .stmd => (0xFF0000070000, 0x0, 1)
  | .stm => (0xFF0001003000, 0x10000, 96)
  | .mem => (0xFF0000060000, 0x0, 1)
  | .shc => (0xFF0000110000, 0x20000, 4)
  | .upd => (0xFF0000090000, 0x0, 1)
  | .lnk => (0xFF0000080000, 0x0, 1)
  | .pwr => (0xFF0000030000, 0x0, 1)
  | .thm => (0xFF0000040000, 0x0, 1)
  | .clk => (0xFF0000050000, 0x0, 1)
  | .sec => (0xFF00000A0000, 0x0, 1)
  | .gen => (0xFF0000000000, 0x0, 1)
  | .cfg => (0xFF0000010000, 0x0, 1)
  | .evt => (0xFF0000020000, 0x0, 1)

/-- Registers of the TIL block. -/
def tilRegs : List Reg :=
  [⟨0x0, 0x0, 1, 32, true, false, [⟨0, 1, .rw, 1⟩, ⟨1, 1, .rw, 1⟩, ⟨2, 1, .rw, 0⟩]⟩,
   ⟨0x8, 0x0, 1, 64, false, false, [⟨0, 32, .ro, 0xffffffff⟩, ⟨32, 6, .ro, 0x20⟩]⟩,
   ⟨0x10, 0x0, 1, 32, false, false, [⟨0, 5, .ro, 0⟩, ⟨5, 1, .ro, 0⟩, ⟨6, 1, .ro, 0⟩]⟩,
   ⟨0x18, 0x0, 1, 32, true, true, [⟨0, 3, .rw, 0⟩, ⟨3, 5, .rw, 0⟩, ⟨8, 5, .rw, 0⟩]⟩,
   ⟨0x20, 0x0, 1, 32, false, false, [⟨0, 1, .w1c, 0⟩, ⟨1, 1, .w1c, 0⟩]⟩,
   ⟨0x24, 0x0, 1, 32, false, false, [⟨0, 32, .cnt, 0⟩]⟩,
   ⟨0x28, 0x0, 1, 32, false, false, [⟨0, 32, .cnt, 0⟩]⟩,
   ⟨0x30, 0x0, 1, 32, false, false, [⟨0, 5, .ro, 0⟩, ⟨5, 5, .ro, 0⟩, ⟨10, 5, .ro, 0⟩, ⟨15, 1, .ro, 0⟩]⟩,
   ⟨0x38, 0x0, 1, 64, false, false, [⟨0, 64, .ro, 0⟩]⟩,
   ⟨0x40, 0x0, 1, 64, false, false, [⟨0, 64, .ro, 0⟩]⟩,
   ⟨0x48, 0x0, 1, 64, false, false, [⟨0, 64, .ro, 0⟩]⟩,
   ⟨0x100, 0x4, 32, 32, false, false, [⟨0, 5, .ro, 0⟩, ⟨5, 1, .ro, 0⟩, ⟨6, 1, .ro, 0⟩, ⟨8, 5, .ro, 0⟩, ⟨13, 1, .ro, 0⟩, ⟨14, 1, .ro, 0⟩, ⟨15, 1, .ro, 0⟩]⟩]

/-- Registers of the VEC block. -/
def vecRegs : List Reg :=
  [⟨0x0, 0x40, 4, 32, false, false, [⟨0, 1, .w1c, 0⟩, ⟨1, 1, .w1c, 0⟩, ⟨2, 1, .w1c, 0⟩]⟩,
   ⟨0x4, 0x40, 4, 32, false, false, [⟨0, 32, .cnt, 0⟩]⟩,
   ⟨0x8, 0x40, 4, 32, false, false, [⟨0, 32, .cnt, 0⟩]⟩,
   ⟨0xc, 0x40, 4, 32, false, false, [⟨0, 32, .cnt, 0⟩]⟩,
   ⟨0x10, 0x40, 4, 32, false, false, [⟨0, 11, .ro, 0⟩, ⟨11, 8, .ro, 0⟩, ⟨19, 1, .ro, 0⟩, ⟨20, 1, .ro, 0⟩]⟩,
   ⟨0x18, 0x40, 4, 64, false, false, [⟨0, 64, .ro, 0⟩]⟩]

/-- Registers of the SEQ block. -/
def seqRegs : List Reg :=
  [⟨0x0, 0x0, 1, 32, false, false, [⟨0, 1, .w1c, 0⟩, ⟨1, 1, .w1c, 0⟩, ⟨2, 1, .w1c, 0⟩]⟩,
   ⟨0x4, 0x0, 1, 32, false, false, [⟨0, 32, .cnt, 0⟩]⟩,
   ⟨0x8, 0x0, 1, 32, false, false, [⟨0, 32, .cnt, 0⟩]⟩,
   ⟨0xc, 0x0, 1, 32, false, false, [⟨0, 32, .cnt, 0⟩]⟩,
   ⟨0x10, 0x0, 1, 64, false, false, [⟨0, 64, .ro, 0⟩]⟩,
   ⟨0x18, 0x0, 1, 32, false, false, [⟨0, 9, .ro, 0⟩]⟩,
   ⟨0x20, 0x0, 1, 64, false, false, [⟨0, 16, .ro, 0⟩, ⟨16, 8, .ro, 0⟩, ⟨24, 7, .ro, 0⟩, ⟨31, 1, .ro, 0⟩, ⟨32, 32, .ro, 0⟩]⟩,
   ⟨0x28, 0x0, 1, 32, true, false, [⟨0, 10, .rw, 0x40⟩]⟩]

/-- Registers of the SYN block. -/
def synRegs : List Reg :=
  [⟨0x0, 0x0, 1, 32, false, false, [⟨0, 1, .w1c, 0⟩, ⟨1, 1, .w1c, 0⟩, ⟨2, 1, .w1c, 0⟩]⟩,
   ⟨0x4, 0x0, 1, 32, false, false, [⟨0, 32, .cnt, 0⟩]⟩,
   ⟨0x8, 0x0, 1, 32, false, false, [⟨0, 32, .cnt, 0⟩]⟩,
   ⟨0xc, 0x0, 1, 32, false, false, [⟨0, 32, .cnt, 0⟩]⟩]

/-- Registers of the device-wide STM block. -/
def stmdRegs : List Reg :=
  [⟨0x0, 0x0, 1, 32, true, false, [⟨0, 1, .rw, 0⟩]⟩,
   ⟨0x8, 0x0, 1, 64, true, false, [⟨12, 36, .rw, 0⟩]⟩,
   ⟨0x10, 0x0, 1, 64, true, false, [⟨12, 36, .rw, 0⟩]⟩,
   ⟨0x18, 0x0, 1, 64, true, true, [⟨4, 44, .rw, 0⟩]⟩,
   ⟨0x20, 0x0, 1, 32, true, true, [⟨0, 11, .rw, 0⟩]⟩,
   ⟨0x28, 0x0, 1, 32, false, false, [⟨0, 1, .w1c, 0⟩]⟩,
   ⟨0x2c, 0x0, 1, 32, false, false, [⟨0, 32, .cnt, 0⟩]⟩,
   ⟨0x30, 0x0, 1, 64, false, false, [⟨12, 36, .ro, 0⟩, ⟨48, 3, .ro, 0⟩, ⟨51, 3, .ro, 0⟩, ⟨63, 1, .ro, 0⟩]⟩]

/-- Registers of the STM block. -/
def stmRegs : List Reg :=
  [⟨0x0, 0x0, 1, 32, false, false, [⟨0, 1, .w1c, 0⟩, ⟨1, 1, .w1c, 0⟩, ⟨2, 1, .w1c, 0⟩]⟩,
   ⟨0x4, 0x0, 1, 32, false, false, [⟨0, 32, .cnt, 0⟩]⟩,
   ⟨0x8, 0x0, 1, 32, false, false, [⟨0, 32, .cnt, 0⟩]⟩,
   ⟨0xc, 0x0, 1, 32, false, false, [⟨0, 32, .cnt, 0⟩]⟩,
   ⟨0x10, 0x0, 1, 64, false, false, [⟨12, 36, .ro, 0⟩, ⟨48, 3, .ro, 0⟩, ⟨51, 3, .ro, 0⟩, ⟨63, 1, .ro, 0⟩]⟩,
   ⟨0x18, 0x0, 1, 32, false, false, [⟨0, 7, .ro, 0⟩]⟩]

/-- Registers of the MEM block. -/
def memRegs : List Reg :=
  [⟨0x0, 0x0, 1, 32, false, false, [⟨0, 1, .w1c, 0⟩, ⟨1, 1, .w1c, 0⟩, ⟨2, 1, .w1c, 0⟩, ⟨3, 1, .w1c, 0⟩, ⟨4, 1, .w1c, 0⟩, ⟨5, 1, .w1c, 0⟩, ⟨6, 1, .w1c, 0⟩]⟩,
   ⟨0x4, 0x0, 1, 32, false, false, [⟨0, 32, .cnt, 0⟩]⟩,
   ⟨0x8, 0x0, 1, 32, false, false, [⟨0, 32, .cnt, 0⟩]⟩,
   ⟨0xc, 0x0, 1, 32, false, false, [⟨0, 32, .cnt, 0⟩]⟩,
   ⟨0x10, 0x0, 1, 32, false, false, [⟨0, 32, .cnt, 0⟩]⟩,
   ⟨0x14, 0x0, 1, 32, false, false, [⟨0, 32, .cnt, 0⟩]⟩,
   ⟨0x18, 0x0, 1, 32, false, false, [⟨0, 32, .cnt, 0⟩]⟩,
   ⟨0x1c, 0x0, 1, 32, false, false, [⟨0, 32, .cnt, 0⟩]⟩,
   ⟨0x20, 0x0, 1, 64, false, false, [⟨0, 48, .ro, 0⟩]⟩,
   ⟨0x28, 0x0, 1, 64, false, false, [⟨0, 10, .ro, 0⟩, ⟨16, 8, .ro, 0⟩, ⟨24, 8, .ro, 0⟩, ⟨32, 8, .ro, 0⟩, ⟨40, 8, .ro, 0⟩]⟩,
   ⟨0x40, 0x8, 10, 64, false, false, [⟨0, 64, .ro, 0⟩]⟩,
   ⟨0xa0, 0x8, 10, 64, false, true, [⟨0, 64, .rw, 0⟩]⟩] ++
  [⟨0x100, 0x0, 1, 32, true, false, [⟨0, 8, .rw, 0x18⟩, ⟨8, 1, .rw, 1⟩]⟩,
   ⟨0x104, 0x0, 1, 32, true, false, [⟨0, 4, .rw, 4⟩]⟩,
   ⟨0x108, 0x0, 1, 32, false, false, [⟨0, 10, .rw, 0⟩]⟩,
   ⟨0x110, 0x0, 1, 64, false, false, [⟨0, 2, .ro, 0⟩, ⟨2, 6, .ro, 0x30⟩, ⟨8, 6, .ro, 0⟩, ⟨14, 6, .ro, 0⟩, ⟨20, 12, .ro, 0⟩, ⟨32, 32, .ro, 0⟩]⟩,
   ⟨0x118, 0x0, 1, 64, false, false, [⟨8, 40, .ro, 0⟩, ⟨48, 10, .ro, 0⟩, ⟨63, 1, .ro, 0⟩]⟩,
   ⟨0x120, 0x0, 1, 32, true, false, [⟨0, 10, .rw, 0⟩, ⟨10, 1, .w1s, 0⟩, ⟨11, 1, .ro, 0⟩, ⟨12, 1, .ro, 0⟩]⟩,
   ⟨0x128, 0x0, 1, 64, false, false, [⟨0, 8, .ro, 0⟩, ⟨8, 8, .ro, 0⟩, ⟨16, 8, .ro, 0⟩, ⟨24, 8, .ro, 0⟩, ⟨32, 8, .ro, 0⟩, ⟨40, 1, .ro, 0⟩, ⟨41, 1, .ro, 0⟩, ⟨42, 8, .ro, 0⟩, ⟨50, 2, .ro, 0⟩]⟩]

/-- Registers of the SHC block. -/
def shcRegs : List Reg :=
  [⟨0x0, 0x0, 1, 32, true, false, [⟨0, 8, .rw, 0x40⟩]⟩,
   ⟨0x4, 0x0, 1, 32, false, false, [⟨0, 1, .w1c, 0⟩, ⟨1, 1, .w1c, 0⟩]⟩,
   ⟨0x8, 0x0, 1, 32, false, false, [⟨0, 32, .cnt, 0⟩]⟩,
   ⟨0xc, 0x0, 1, 32, false, false, [⟨0, 32, .cnt, 0⟩]⟩,
   ⟨0x10, 0x0, 1, 32, false, false, [⟨0, 8, .ro, 0⟩, ⟨8, 10, .ro, 0⟩]⟩,
   ⟨0x18, 0x0, 1, 64, false, false, [⟨0, 64, .ro, 0⟩]⟩]

/-- Registers of the UPD block. -/
def updRegs : List Reg :=
  [⟨0x0, 0x0, 1, 32, true, false, [⟨0, 1, .rw, 0⟩, ⟨1, 1, .rw, 0⟩]⟩,
   ⟨0x8, 0x0, 1, 64, true, false, [⟨12, 36, .rw, 0⟩]⟩,
   ⟨0x10, 0x0, 1, 64, false, true, [⟨7, 41, .rw, 0⟩]⟩,
   ⟨0x18, 0x0, 1, 32, false, true, [⟨0, 24, .rw, 0⟩]⟩,
   ⟨0x20, 0x0, 1, 64, false, true, [⟨7, 41, .rw, 0⟩]⟩,
   ⟨0x28, 0x0, 1, 64, false, true, [⟨6, 42, .rw, 0⟩]⟩,
   ⟨0x30, 0x0, 1, 64, true, false, [⟨6, 42, .rw, 0⟩]⟩,
   ⟨0x38, 0x0, 1, 64, true, false, [⟨0, 64, .rw, 0⟩]⟩,
   ⟨0x40, 0x0, 1, 64, true, false, [⟨6, 42, .rw, 0⟩]⟩,
   ⟨0x48, 0x0, 1, 64, false, false, [⟨0, 32, .ro, 0⟩, ⟨32, 1, .ro, 0⟩]⟩,
   ⟨0x50, 0x0, 1, 32, false, false, [⟨0, 1, .w1c, 0⟩, ⟨1, 1, .w1c, 0⟩, ⟨2, 1, .w1c, 0⟩, ⟨3, 1, .w1c, 0⟩, ⟨4, 1, .w1c, 0⟩]⟩,
   ⟨0x54, 0x0, 1, 32, false, false, [⟨0, 32, .cnt, 0⟩]⟩] ++
  [⟨0x58, 0x0, 1, 32, false, false, [⟨0, 32, .cnt, 0⟩]⟩,
   ⟨0x5c, 0x0, 1, 32, false, false, [⟨0, 32, .cnt, 0⟩]⟩,
   ⟨0x60, 0x0, 1, 32, false, false, [⟨0, 32, .cnt, 0⟩]⟩,
   ⟨0x64, 0x0, 1, 32, false, false, [⟨0, 32, .cnt, 0⟩]⟩,
   ⟨0x68, 0x0, 1, 32, true, false, [⟨0, 2, .rw, 2⟩]⟩,
   ⟨0x70, 0x0, 1, 64, false, false, [⟨0, 16, .ro, 0⟩, ⟨16, 2, .ro, 0⟩, ⟨31, 1, .ro, 0⟩, ⟨32, 32, .ro, 0⟩]⟩,
   ⟨0x78, 0x0, 1, 32, true, false, [⟨0, 4, .rw, 3⟩]⟩,
   ⟨0x7c, 0x0, 1, 32, false, false, [⟨0, 8, .ro, 0⟩, ⟨8, 24, .ro, 0⟩]⟩]

/-- Registers of the LNK block. -/
def lnkRegs : List Reg :=
  [⟨0x0, 0x0, 1, 32, false, true, [⟨0, 12, .rw, 0⟩, ⟨15, 1, .w1s, 0⟩, ⟨16, 8, .rw, 0x14⟩, ⟨24, 8, .rw, 0xa⟩]⟩,
   ⟨0x8, 0x0, 1, 64, false, true, [⟨6, 42, .rw, 0⟩]⟩,
   ⟨0x10, 0x0, 1, 64, false, true, [⟨6, 42, .rw, 0⟩]⟩,
   ⟨0x18, 0x0, 1, 64, true, false, [⟨0, 8, .rw, 0⟩, ⟨20, 28, .rw, 0⟩]⟩,
   ⟨0x20, 0x0, 1, 32, false, true, [⟨0, 1, .rw, 0⟩, ⟨1, 5, .rw, 0⟩, ⟨6, 5, .rw, 0⟩, ⟨11, 1, .rw, 0⟩, ⟨12, 8, .rw, 0x10⟩]⟩,
   ⟨0x28, 0x0, 1, 64, false, false, [⟨0, 1, .ro, 0⟩, ⟨1, 1, .ro, 0⟩, ⟨8, 8, .ro, 0⟩, ⟨32, 32, .ro, 0⟩]⟩,
   ⟨0x30, 0x0, 1, 32, false, false, [⟨0, 1, .w1c, 0⟩, ⟨1, 1, .w1c, 0⟩, ⟨2, 1, .w1c, 0⟩, ⟨3, 1, .w1c, 0⟩]⟩,
   ⟨0x34, 0x0, 1, 32, false, false, [⟨0, 32, .cnt, 0⟩]⟩,
   ⟨0x38, 0x0, 1, 32, false, false, [⟨0, 32, .cnt, 0⟩]⟩,
   ⟨0x3c, 0x0, 1, 32, false, false, [⟨0, 32, .cnt, 0⟩]⟩,
   ⟨0x40, 0x0, 1, 32, false, false, [⟨0, 32, .cnt, 0⟩]⟩,
   ⟨0x100, 0x40, 32, 32, true, false, [⟨0, 1, .rw, 1⟩, ⟨1, 4, .rw, 2⟩, ⟨16, 16, .rw, 0⟩]⟩] ++
  [⟨0x104, 0x40, 32, 32, false, true, [⟨0, 12, .rw, 0⟩, ⟨12, 5, .rw, 0⟩]⟩,
   ⟨0x108, 0x40, 32, 64, false, false, [⟨0, 3, .ro, 0⟩, ⟨3, 1, .ro, 0⟩, ⟨4, 8, .ro, 0⟩, ⟨12, 8, .ro, 0⟩, ⟨20, 8, .ro, 0⟩, ⟨28, 4, .ro, 0⟩, ⟨32, 16, .ro, 0⟩]⟩,
   ⟨0x110, 0x40, 32, 32, false, true, [⟨0, 8, .rw, 0xc0⟩, ⟨8, 8, .rw, 0xc0⟩, ⟨16, 8, .rw, 0x40⟩, ⟨24, 8, .rw, 0x20⟩]⟩,
   ⟨0x114, 0x40, 32, 32, false, false, [⟨0, 1, .w1c, 0⟩, ⟨1, 1, .w1c, 0⟩, ⟨2, 1, .w1c, 0⟩]⟩,
   ⟨0x118, 0x40, 32, 32, false, false, [⟨0, 32, .cnt, 0⟩]⟩,
   ⟨0x11c, 0x40, 32, 32, false, false, [⟨0, 32, .cnt, 0⟩]⟩,
   ⟨0x120, 0x40, 32, 32, false, false, [⟨0, 32, .cnt, 0⟩]⟩,
   ⟨0x128, 0x40, 32, 64, false, false, [⟨0, 64, .ro, 0⟩]⟩,
   ⟨0x130, 0x40, 32, 64, false, false, [⟨0, 64, .ro, 0⟩]⟩,
   ⟨0x138, 0x40, 32, 64, false, false, [⟨0, 64, .ro, 0⟩]⟩]

/-- Registers of the PWR block. -/
def pwrRegs : List Reg :=
  [⟨0x0, 0x0, 1, 32, false, true, [⟨0, 12, .rw, 0xa28⟩, ⟨12, 12, .rw, 0xbb8⟩]⟩,
   ⟨0x4, 0x0, 1, 32, false, true, [⟨0, 2, .rw, 0⟩, ⟨2, 2, .rw, 1⟩, ⟨4, 2, .rw, 2⟩]⟩,
   ⟨0x8, 0x0, 1, 32, true, false, [⟨0, 12, .rw, 0x1f4⟩, ⟨12, 1, .rw, 0⟩]⟩,
   ⟨0xc, 0x0, 1, 32, true, false, [⟨0, 12, .rw, 0x4b0⟩]⟩,
   ⟨0x10, 0x0, 1, 32, true, false, [⟨0, 12, .rw, 0x5dc⟩, ⟨12, 1, .rw, 0⟩]⟩,
   ⟨0x14, 0x0, 1, 32, true, false, [⟨0, 10, .rw, 0x32⟩, ⟨16, 8, .rw, 0x1e⟩, ⟨24, 8, .rw, 0x14⟩]⟩,
   ⟨0x18, 0x0, 1, 32, true, false, [⟨0, 8, .rw, 0x32⟩]⟩,
   ⟨0x1c, 0x0, 1, 32, false, true, [⟨0, 3, .rw, 7⟩, ⟨4, 3, .rw, 7⟩, ⟨8, 3, .rw, 7⟩, ⟨12, 3, .rw, 7⟩]⟩,
   ⟨0x20, 0x0, 1, 64, false, true, [⟨6, 42, .rw, 0⟩]⟩,
   ⟨0x28, 0x0, 1, 64, false, true, [⟨0, 64, .rw, 0⟩]⟩,
   ⟨0x30, 0x0, 1, 32, false, true, [⟨0, 32, .rw, 0⟩]⟩,
   ⟨0x38, 0x0, 1, 64, false, false, [⟨0, 16, .ro, 0⟩, ⟨16, 16, .ro, 0⟩, ⟨32, 16, .ro, 0⟩, ⟨48, 16, .ro, 0⟩]⟩] ++
  [⟨0x40, 0x0, 1, 64, false, false, [⟨0, 3, .ro, 7⟩, ⟨4, 3, .ro, 7⟩, ⟨8, 3, .ro, 7⟩, ⟨12, 3, .ro, 7⟩, ⟨16, 4, .ro, 0⟩, ⟨20, 8, .ro, 0⟩, ⟨28, 1, .ro, 0⟩, ⟨29, 4, .ro, 0⟩]⟩,
   ⟨0x48, 0x0, 1, 64, false, false, [⟨0, 16, .ro, 0⟩, ⟨16, 16, .ro, 0⟩, ⟨32, 16, .ro, 0⟩, ⟨48, 8, .ro, 0⟩]⟩,
   ⟨0x50, 0x0, 1, 32, false, false, [⟨0, 1, .w1c, 0⟩, ⟨1, 1, .w1c, 0⟩, ⟨2, 1, .w1c, 0⟩, ⟨3, 1, .w1c, 0⟩, ⟨4, 1, .w1c, 0⟩, ⟨5, 1, .w1c, 0⟩, ⟨6, 1, .w1c, 0⟩, ⟨7, 1, .w1c, 0⟩, ⟨8, 1, .w1c, 0⟩, ⟨9, 1, .w1c, 0⟩]⟩,
   ⟨0x54, 0x0, 1, 32, false, false, [⟨0, 32, .cnt, 0⟩]⟩,
   ⟨0x58, 0x0, 1, 32, false, false, [⟨0, 32, .cnt, 0⟩]⟩,
   ⟨0x5c, 0x0, 1, 32, false, false, [⟨0, 32, .cnt, 0⟩]⟩,
   ⟨0x60, 0x0, 1, 32, false, false, [⟨0, 32, .cnt, 0⟩]⟩,
   ⟨0x64, 0x0, 1, 32, false, false, [⟨0, 32, .cnt, 0⟩]⟩,
   ⟨0x68, 0x0, 1, 32, false, false, [⟨0, 32, .cnt, 0⟩]⟩,
   ⟨0x6c, 0x0, 1, 32, false, false, [⟨0, 32, .cnt, 0⟩]⟩,
   ⟨0x70, 0x0, 1, 32, false, false, [⟨0, 32, .cnt, 0⟩]⟩,
   ⟨0x74, 0x0, 1, 32, false, false, [⟨0, 32, .cnt, 0⟩]⟩] ++
  [⟨0x78, 0x0, 1, 32, false, false, [⟨0, 32, .cnt, 0⟩]⟩,
   ⟨0x80, 0x0, 1, 32, false, false, [⟨0, 2, .ro, 0⟩, ⟨2, 6, .ro, 0⟩, ⟨8, 8, .ro, 0⟩, ⟨16, 1, .ro, 0⟩, ⟨31, 1, .ro, 0⟩]⟩,
   ⟨0x84, 0x0, 1, 32, true, false, [⟨0, 1, .wo, 0⟩]⟩,
   ⟨0x100, 0x4, 96, 32, false, false, [⟨0, 16, .ro, 0⟩, ⟨16, 3, .ro, 0⟩, ⟨20, 3, .ro, 7⟩, ⟨24, 3, .ro, 7⟩]⟩,
   ⟨0x400, 0x4, 512, 32, false, false, [⟨0, 16, .ro, 0xffff⟩, ⟨16, 16, .ro, 0xffff⟩]⟩]

/-- Registers of the THM block. -/
def thmRegs : List Reg :=
  [⟨0x0, 0x0, 1, 32, true, false, [⟨0, 1, .rw, 1⟩]⟩,
   ⟨0x4, 0x0, 1, 32, true, false, [⟨0, 13, .rw, 0x1054⟩, ⟨16, 12, .rw, 0x4b0⟩]⟩,
   ⟨0x8, 0x0, 1, 32, false, false, [⟨0, 1, .w1c, 0⟩, ⟨1, 1, .w1c, 0⟩, ⟨2, 1, .w1c, 0⟩, ⟨3, 1, .w1c, 0⟩, ⟨4, 1, .w1c, 0⟩, ⟨5, 1, .w1c, 0⟩, ⟨6, 1, .w1c, 0⟩, ⟨7, 1, .w1c, 0⟩]⟩,
   ⟨0xc, 0x0, 1, 32, false, false, [⟨0, 32, .cnt, 0⟩]⟩,
   ⟨0x10, 0x0, 1, 32, false, false, [⟨0, 32, .cnt, 0⟩]⟩,
   ⟨0x14, 0x0, 1, 32, false, false, [⟨0, 32, .cnt, 0⟩]⟩,
   ⟨0x18, 0x0, 1, 32, false, false, [⟨0, 32, .cnt, 0⟩]⟩,
   ⟨0x1c, 0x0, 1, 32, false, false, [⟨0, 32, .cnt, 0⟩]⟩,
   ⟨0x20, 0x0, 1, 32, false, false, [⟨0, 32, .cnt, 0⟩]⟩,
   ⟨0x24, 0x0, 1, 32, false, false, [⟨0, 32, .cnt, 0⟩]⟩,
   ⟨0x28, 0x0, 1, 32, false, false, [⟨0, 32, .cnt, 0⟩]⟩,
   ⟨0x2c, 0x0, 1, 32, false, false, [⟨0, 32, .cnt, 0⟩]⟩] ++
  [⟨0x40, 0x0, 1, 64, false, false, [⟨0, 16, .ro, 0⟩, ⟨16, 16, .ro, 0⟩, ⟨32, 16, .ro, 0⟩, ⟨48, 8, .ro, 0⟩, ⟨56, 1, .ro, 0⟩]⟩,
   ⟨0x48, 0x0, 1, 32, false, false, [⟨0, 3, .ro, 7⟩, ⟨4, 3, .ro, 7⟩, ⟨8, 3, .ro, 7⟩, ⟨12, 3, .ro, 7⟩, ⟨16, 12, .ro, 0⟩]⟩,
   ⟨0x100, 0x8, 96, 64, false, false, [⟨0, 11, .ro, 0⟩, ⟨11, 11, .ro, 0⟩, ⟨22, 1, .ro, 0⟩, ⟨23, 1, .ro, 0⟩, ⟨24, 1, .ro, 0⟩, ⟨25, 1, .ro, 0⟩, ⟨32, 11, .ro, 0⟩, ⟨43, 11, .ro, 0⟩]⟩,
   ⟨0x400, 0x0, 1, 64, false, false, [⟨0, 11, .ro, 0⟩, ⟨11, 11, .ro, 0⟩, ⟨22, 1, .ro, 0⟩, ⟨23, 1, .ro, 0⟩, ⟨24, 1, .ro, 0⟩, ⟨25, 1, .ro, 0⟩, ⟨32, 11, .ro, 0⟩, ⟨43, 11, .ro, 0⟩]⟩,
   ⟨0x408, 0x4, 20, 32, false, false, [⟨0, 11, .ro, 0⟩, ⟨11, 1, .ro, 0⟩, ⟨12, 4, .ro, 0⟩]⟩]

/-- Registers of the CLK block. -/
def clkRegs : List Reg :=
  [⟨0x0, 0x0, 1, 32, false, false, [⟨0, 1, .w1c, 0⟩, ⟨1, 1, .w1c, 0⟩, ⟨2, 1, .w1c, 0⟩, ⟨3, 1, .w1c, 0⟩]⟩,
   ⟨0x4, 0x0, 1, 32, false, false, [⟨0, 32, .cnt, 0⟩]⟩,
   ⟨0x8, 0x0, 1, 32, false, false, [⟨0, 32, .cnt, 0⟩]⟩,
   ⟨0xc, 0x0, 1, 32, false, false, [⟨0, 32, .cnt, 0⟩]⟩,
   ⟨0x10, 0x0, 1, 32, false, false, [⟨0, 32, .cnt, 0⟩]⟩,
   ⟨0x18, 0x0, 1, 64, false, false, [⟨0, 64, .ro, 0⟩]⟩,
   ⟨0x20, 0x0, 1, 32, false, false, [⟨0, 8, .ro, 0xa0⟩, ⟨8, 1, .ro, 0⟩]⟩,
   ⟨0x28, 0x4, 4, 32, false, false, [⟨0, 3, .ro, 7⟩, ⟨3, 1, .ro, 0⟩, ⟨4, 1, .ro, 1⟩]⟩,
   ⟨0x40, 0x8, 4, 64, false, false, [⟨0, 64, .ro, 0⟩]⟩,
   ⟨0x100, 0x4, 96, 32, false, false, [⟨0, 3, .ro, 7⟩, ⟨3, 1, .ro, 0⟩, ⟨4, 1, .ro, 1⟩, ⟨5, 1, .ro, 0⟩, ⟨8, 6, .ro, 0x3c⟩, ⟨14, 1, .ro, 0⟩]⟩]

/-- Registers of the SEC block. -/
def secRegs : List Reg :=
  [⟨0x0, 0x0, 1, 32, false, false, [⟨0, 1, .w1c, 0⟩, ⟨1, 1, .w1c, 0⟩, ⟨2, 1, .w1c, 0⟩, ⟨3, 1, .w1c, 0⟩]⟩,
   ⟨0x4, 0x0, 1, 32, false, false, [⟨0, 32, .cnt, 0⟩]⟩,
   ⟨0x8, 0x0, 1, 32, false, false, [⟨0, 32, .cnt, 0⟩]⟩,
   ⟨0xc, 0x0, 1, 32, false, false, [⟨0, 32, .cnt, 0⟩]⟩,
   ⟨0x10, 0x0, 1, 32, false, false, [⟨0, 32, .cnt, 0⟩]⟩,
   ⟨0x18, 0x0, 1, 32, false, false, [⟨0, 2, .ros, 0⟩, ⟨2, 1, .ros, 0⟩, ⟨3, 1, .ros, 0⟩, ⟨4, 1, .ros, 0⟩]⟩,
   ⟨0x1c, 0x0, 1, 32, false, false, [⟨0, 16, .ro, 0⟩, ⟨16, 16, .ro, 0⟩]⟩,
   ⟨0x20, 0x0, 1, 64, false, false, [⟨0, 1, .ro, 0⟩, ⟨1, 1, .ro, 0⟩, ⟨2, 1, .ro, 0⟩, ⟨3, 4, .ro, 0⟩, ⟨7, 4, .ro, 0⟩, ⟨11, 1, .ro, 0⟩, ⟨16, 16, .ro, 0⟩, ⟨32, 21, .ro, 0⟩]⟩,
   ⟨0x28, 0x0, 1, 32, true, false, [⟨0, 8, .rw, 0x1e⟩, ⟨8, 8, .rw, 0x3a⟩]⟩,
   ⟨0x2c, 0x0, 1, 32, false, false, [⟨0, 12, .ro, 0⟩, ⟨16, 12, .ro, 0⟩]⟩]

/-- Registers of the GEN block. -/
def genRegs : List Reg :=
  [⟨0x0, 0x0, 1, 32, false, false, [⟨0, 16, .ro, 0xe020⟩, ⟨16, 8, .ro, 0xb0⟩]⟩,
   ⟨0x4, 0x0, 1, 32, false, false, [⟨0, 4, .ro, 1⟩]⟩,
   ⟨0x8, 0x0, 1, 64, false, true, [⟨12, 36, .rw, 0⟩]⟩,
   ⟨0x10, 0x0, 1, 32, false, false, [⟨0, 16, .rws, 0⟩, ⟨16, 3, .rws, 0⟩, ⟨31, 1, .rws, 0⟩]⟩,
   ⟨0x18, 0x0, 1, 64, false, false, [⟨0, 64, .rws, 0⟩]⟩,
   ⟨0x20, 0x0, 1, 32, false, false, [⟨0, 1, .w1c, 0⟩]⟩,
   ⟨0x24, 0x0, 1, 32, false, false, [⟨0, 32, .cnt, 0⟩]⟩,
   ⟨0x28, 0x0, 1, 64, false, false, [⟨0, 48, .ro, 0⟩, ⟨63, 1, .ro, 0⟩]⟩]

/-- Registers of the CFG block. -/
def cfgRegs : List Reg :=
  [⟨0x0, 0x0, 1, 32, false, false, [⟨0, 2, .wo, 0⟩]⟩,
   ⟨0x8, 0x0, 1, 64, false, false, [⟨0, 64, .rw, 0⟩]⟩,
   ⟨0x10, 0x0, 1, 32, false, false, [⟨0, 3, .ro, 0⟩]⟩,
   ⟨0x18, 0x0, 1, 64, false, false, [⟨0, 8, .ro, 0⟩, ⟨8, 16, .ro, 0⟩, ⟨24, 8, .ro, 0⟩, ⟨32, 32, .ro, 0⟩]⟩,
   ⟨0x20, 0x0, 1, 32, false, false, [⟨0, 32, .ro, 0⟩]⟩,
   ⟨0x28, 0x0, 1, 64, false, false, [⟨0, 64, .ro, 0⟩]⟩,
   ⟨0x30, 0x0, 1, 32, false, false, [⟨0, 1, .w1c, 0⟩, ⟨1, 1, .w1c, 0⟩, ⟨2, 1, .w1c, 0⟩]⟩,
   ⟨0x34, 0x0, 1, 32, false, false, [⟨0, 32, .cnt, 0⟩]⟩,
   ⟨0x38, 0x0, 1, 32, false, false, [⟨0, 32, .cnt, 0⟩]⟩,
   ⟨0x3c, 0x0, 1, 32, false, false, [⟨0, 32, .cnt, 0⟩]⟩]

/-- Registers of the EVT block. -/
def evtRegs : List Reg :=
  [⟨0x0, 0x0, 1, 32, false, false, [⟨0, 1, .rw, 0⟩, ⟨1, 1, .rw, 0⟩]⟩,
   ⟨0x8, 0x0, 1, 64, false, false, [⟨12, 36, .rw, 0⟩]⟩,
   ⟨0x10, 0x0, 1, 32, false, false, [⟨0, 5, .rw, 0xc⟩]⟩,
   ⟨0x18, 0x0, 1, 32, false, false, [⟨0, 32, .ro, 0⟩]⟩,
   ⟨0x1c, 0x0, 1, 32, false, false, [⟨0, 32, .rw, 0⟩]⟩,
   ⟨0x20, 0x0, 1, 32, false, false, [⟨0, 1, .w1c, 0⟩]⟩,
   ⟨0x24, 0x0, 1, 32, false, false, [⟨0, 32, .cnt, 0⟩]⟩,
   ⟨0x28, 0x0, 1, 32, false, false, [⟨0, 7, .ro, 0⟩]⟩]

def Blk.regs : Blk → List Reg
  | .til => tilRegs
  | .vec => vecRegs
  | .seq => seqRegs
  | .syn => synRegs
  | .stmd => stmdRegs
  | .stm => stmRegs
  | .mem => memRegs
  | .shc => shcRegs
  | .upd => updRegs
  | .lnk => lnkRegs
  | .pwr => pwrRegs
  | .thm => thmRegs
  | .clk => clkRegs
  | .sec => secRegs
  | .gen => genRegs
  | .cfg => cfgRegs
  | .evt => evtRegs

def allBlks : List Blk := [.til, .vec, .seq, .syn, .stmd, .stm, .mem, .shc, .upd, .lnk, .pwr, .thm, .clk, .sec, .gen, .cfg, .evt]

/-- A register found at an address: its block, instance, definition, element and byte within the register. -/
structure Hit where
  blk : Blk
  inst : Nat
  reg : Reg
  idx : Nat
  byte : Nat
  deriving DecidableEq, Repr

/-- The register of a list that occupies an offset. -/
def findReg (o : Nat) : List Reg → Option (Reg × Nat × Nat)
  | [] => none
  | r :: t =>
    let st := if r.stride = 0 then r.width / 8 else r.stride
    let i := (o - r.off) / st
    let b := (o - r.off) % st
    if r.off ≤ o && i < r.count && b < r.width / 8 then some (r, i, b) else findReg o t

/-- The block instance of an address: a cluster's four blocks lie 0x1000 apart. -/
def findBlk (a : Nat) : List Blk → Option (Blk × Nat × Nat)
  | [] => none
  | b :: t =>
    let (base, st, n) := b.place
    let sz := if b = .til || b = .vec || b = .seq || b = .stm then 0x1000 else 0x10000
    let i := if st = 0 then 0 else (a - base) / st
    let o := if st = 0 then a - base else (a - base) % st
    if base ≤ a && i < n && o < sz then some (b, i, o) else findBlk a t

/-- The register that occupies an address (R452, R453). -/
def hitAt (a : Nat) : Option Hit :=
  (findBlk a allBlks).bind fun (b, i, o) => (findReg o b.regs).map fun (r, k, y) => ⟨b, i, r, k, y⟩

/-- Reset value of a register. -/
def Reg.rst (r : Reg) : Nat := r.flds.foldl (fun a f => a + f.rst * 2 ^ f.lo) 0

def rstAt (a : Nat) : Nat := ((hitAt a).map fun h => h.reg.rst).getD 0

/-- Stored value of the register at its base address: what the device uses. -/
def State.rd (s : State) (a : Nat) : Nat :=
  match SMap.find a s.regs.file with
  | some w => w.toNat
  | none => rstAt a

def State.wr (s : State) (a v : Nat) : State :=
  { s with regs := { s.regs with file := SMap.put a (BitVec.ofNat 64 v) s.regs.file } }

/-- A field of a register as the device uses it. -/
def State.rf (s : State) (a lo len : Nat) : Nat := bitsOf (s.rd a) lo len

def State.wf (s : State) (a lo len v : Nat) : State := s.wr a (setBits (s.rd a) lo len v)

/-- Staged value of a staged register: what a read returns (R458). -/
def State.stagedVal (s : State) (a : Nat) : Nat :=
  match SMap.find a s.regs.staged with
  | some w => w.toNat
  | none => s.rd a

/-! ### Addresses by name -/

namespace R

def tilCtl (i : Nat) : Nat := 0xff0001000000 + 0x10000 * i
def tilAvail (i : Nat) : Nat := 0xff0001000008 + 0x10000 * i
def tilSpare (i : Nat) : Nat := 0xff0001000010 + 0x10000 * i
def tilRepair (i : Nat) : Nat := 0xff0001000018 + 0x10000 * i
def tilStat (i : Nat) : Nat := 0xff0001000020 + 0x10000 * i
def tilSatcnt (i : Nat) : Nat := 0xff0001000024 + 0x10000 * i
def tilRescnt (i : Nat) : Nat := 0xff0001000028 + 0x10000 * i
def tilResloc (i : Nat) : Nat := 0xff0001000030 + 0x10000 * i
def tilKsteps (i : Nat) : Nat := 0xff0001000038 + 0x10000 * i
def tilSkips (i : Nat) : Nat := 0xff0001000040 + 0x10000 * i
def tilRamps (i : Nat) : Nat := 0xff0001000048 + 0x10000 * i
def tilCellmap (i n : Nat) : Nat := 0xff0001000100 + 0x10000 * i + 0x4 * n
def vecStat (i n : Nat) : Nat := 0xff0001001000 + 0x10000 * i + 0x40 * n
def vecSatcnt (i n : Nat) : Nat := 0xff0001001004 + 0x10000 * i + 0x40 * n
def vecRescnt (i n : Nat) : Nat := 0xff0001001008 + 0x10000 * i + 0x40 * n
def vecDropcnt (i n : Nat) : Nat := 0xff000100100c + 0x10000 * i + 0x40 * n
def vecResloc (i n : Nat) : Nat := 0xff0001001010 + 0x10000 * i + 0x40 * n
def vecRetired (i n : Nat) : Nat := 0xff0001001018 + 0x10000 * i + 0x40 * n
def seqStat (i : Nat) : Nat := 0xff0001002000 + 0x10000 * i
def seqSlipcnt (i : Nat) : Nat := 0xff0001002004 + 0x10000 * i
def seqStalecnt (i : Nat) : Nat := 0xff0001002008 + 0x10000 * i
def seqHoldcnt (i : Nat) : Nat := 0xff000100200c + 0x10000 * i
def seqOcc (i : Nat) : Nat := 0xff0001002010 + 0x10000 * i
def seqInflight (i : Nat) : Nat := 0xff0001002018 + 0x10000 * i
def seqLastslip (i : Nat) : Nat := 0xff0001002020 + 0x10000 * i
def seqNotice (i : Nat) : Nat := 0xff0001002028 + 0x10000 * i
def synStat (i : Nat) : Nat := 0xff0000100000 + 0x20000 * i
def synStalecnt (i : Nat) : Nat := 0xff0000100004 + 0x20000 * i
def synAgedcnt (i : Nat) : Nat := 0xff0000100008 + 0x20000 * i
def synOvfcnt (i : Nat) : Nat := 0xff000010000c + 0x20000 * i
def stmCkctl : Nat := 0xff0000070000
def stmCkbase : Nat := 0xff0000070008
def stmCktop : Nat := 0xff0000070010
def stmResbase : Nat := 0xff0000070018
def stmRescnt : Nat := 0xff0000070020
def stmDstat : Nat := 0xff0000070028
def stmDcrccnt : Nat := 0xff000007002c
def stmDckloc : Nat := 0xff0000070030
def stmStat (i : Nat) : Nat := 0xff0001003000 + 0x10000 * i
def stmCrccnt (i : Nat) : Nat := 0xff0001003004 + 0x10000 * i
def stmIdxcnt (i : Nat) : Nat := 0xff0001003008 + 0x10000 * i
def stmLatecnt (i : Nat) : Nat := 0xff000100300c + 0x10000 * i
def stmCkloc (i : Nat) : Nat := 0xff0001003010 + 0x10000 * i
def stmBinds (i : Nat) : Nat := 0xff0001003018 + 0x10000 * i
def memStat : Nat := 0xff0000060000
def memCecnt : Nat := 0xff0000060004
def memUecnt : Nat := 0xff0000060008
def memRepcnt : Nat := 0xff000006000c
def memRetcnt : Nat := 0xff0000060010
def memFailcnt : Nat := 0xff0000060014
def memMapcnt : Nat := 0xff0000060018
def memMglowcnt : Nat := 0xff000006001c
def memTop : Nat := 0xff0000060020
def memLivecnt : Nat := 0xff0000060028
def memLive (n : Nat) : Nat := 0xff0000060040 + 0x8 * n
def memMapmask (n : Nat) : Nat := 0xff00000600a0 + 0x8 * n
def memScrub : Nat := 0xff0000060100
def memRepcfg : Nat := 0xff0000060104
def memChsel : Nat := 0xff0000060108
def memChinfo : Nat := 0xff0000060110
def memUeloc : Nat := 0xff0000060118
def memMgctl : Nat := 0xff0000060120
def memMgres : Nat := 0xff0000060128
def shcCtl (i : Nat) : Nat := 0xff0000110000 + 0x20000 * i
def shcStat (i : Nat) : Nat := 0xff0000110004 + 0x20000 * i
def shcOvfcnt (i : Nat) : Nat := 0xff0000110008 + 0x20000 * i
def shcUecnt (i : Nat) : Nat := 0xff000011000c + 0x20000 * i
def shcCbhwm (i : Nat) : Nat := 0xff0000110010 + 0x20000 * i
def shcCombined (i : Nat) : Nat := 0xff0000110018 + 0x20000 * i
def updCtl : Nat := 0xff0000090000
def updRingtab : Nat := 0xff0000090008
def updShtab : Nat := 0xff0000090010
def updShcnt : Nat := 0xff0000090018
def updPartab : Nat := 0xff0000090020
def updLrtab : Nat := 0xff0000090028
def updCommita : Nat := 0xff0000090030
def updDkey : Nat := 0xff0000090038
def updPcbbase : Nat := 0xff0000090040
def updEpoch : Nat := 0xff0000090048
def updStat : Nat := 0xff0000090050
def updRingerrcnt : Nat := 0xff0000090054
def updDbstalecnt : Nat := 0xff0000090058
def updFetchcnt : Nat := 0xff000009005c
def updNormsatcnt : Nat := 0xff0000090060
def updWsatcnt : Nat := 0xff0000090064
def updFetchcfg : Nat := 0xff0000090068
def updLasterr : Nat := 0xff0000090070
def updTwincfg : Nat := 0xff0000090078
def updRplcnt : Nat := 0xff000009007c
def lnkCtl : Nat := 0xff0000080000
def lnkRtbase : Nat := 0xff0000080008
def lnkGtbase : Nat := 0xff0000080010
def lnkStg : Nat := 0xff0000080018
def lnkTcfg : Nat := 0xff0000080020
def lnkTstat : Nat := 0xff0000080028
def lnkStat : Nat := 0xff0000080030
def lnkStalecnt : Nat := 0xff0000080034
def lnkDupcnt : Nat := 0xff0000080038
def lnkTmocnt : Nat := 0xff000008003c
def lnkTlostcnt : Nat := 0xff0000080040
def lnkPctl (n : Nat) : Nat := 0xff0000080100 + 0x40 * n
def lnkPeer (n : Nat) : Nat := 0xff0000080104 + 0x40 * n
def lnkPstat (n : Nat) : Nat := 0xff0000080108 + 0x40 * n
def lnkCredit (n : Nat) : Nat := 0xff0000080110 + 0x40 * n
def lnkPerr (n : Nat) : Nat := 0xff0000080114 + 0x40 * n
def lnkRtrcnt (n : Nat) : Nat := 0xff0000080118 + 0x40 * n
def lnkAuthcnt (n : Nat) : Nat := 0xff000008011c + 0x40 * n
def lnkLamcnt (n : Nat) : Nat := 0xff0000080120 + 0x40 * n
def lnkRetrycnt (n : Nat) : Nat := 0xff0000080128 + 0x40 * n
def lnkFecce (n : Nat) : Nat := 0xff0000080130 + 0x40 * n
def lnkFecue (n : Nat) : Nat := 0xff0000080138 + 0x40 * n
def pwrCap : Nat := 0xff0000030000
def pwrPrio : Nat := 0xff0000030004
def pwrRamp : Nat := 0xff0000030008
def pwrShed : Nat := 0xff000003000c
def pwrEnvctl : Nat := 0xff0000030010
def pwrGate : Nat := 0xff0000030014
def pwrArb : Nat := 0xff0000030018
def pwrDiemax : Nat := 0xff000003001c
def pwrPhtab : Nat := 0xff0000030020
def pwrDusk : Nat := 0xff0000030028
def pwrDuskhi : Nat := 0xff0000030030
def pwrMeas : Nat := 0xff0000030038
def pwrLever : Nat := 0xff0000030040
def pwrEnv : Nat := 0xff0000030048
def pwrStat : Nat := 0xff0000030050
def pwrPhasecnt : Nat := 0xff0000030054
def pwrDarkcnt : Nat := 0xff0000030058
def pwrConncnt : Nat := 0xff000003005c
def pwrCcapcnt : Nat := 0xff0000030060
def pwrDefercnt : Nat := 0xff0000030064
def pwrShedcnt : Nat := 0xff0000030068
def pwrVrcnt : Nat := 0xff000003006c
def pwrEnvlostcnt : Nat := 0xff0000030070
def pwrEnvbadcnt : Nat := 0xff0000030074
def pwrExccnt : Nat := 0xff0000030078
def pwrConnloc : Nat := 0xff0000030080
def pwrConnclr : Nat := 0xff0000030084
def pwrCluster (n : Nat) : Nat := 0xff0000030100 + 0x4 * n
def pwrLearn (n : Nat) : Nat := 0xff0000030400 + 0x4 * n
def thmCtl : Nat := 0xff0000040000
def thmCool : Nat := 0xff0000040004
def thmStat : Nat := 0xff0000040008
def thmDiscnt : Nat := 0xff000004000c
def thmSuscnt : Nat := 0xff0000040010
def thmBalcnt : Nat := 0xff0000040014
def thmTlostcnt : Nat := 0xff0000040018
def thmFlowcnt : Nat := 0xff000004001c
def thmThrcnt : Nat := 0xff0000040020
def thmStkcnt : Nat := 0xff0000040024
def thmFailcnt : Nat := 0xff0000040028
def thmBadcnt : Nat := 0xff000004002c
def thmCoolant : Nat := 0xff0000040040
def thmCeil : Nat := 0xff0000040048
def thmHs (n : Nat) : Nat := 0xff0000040100 + 0x8 * n
def thmHssd : Nat := 0xff0000040400
def thmStack (n : Nat) : Nat := 0xff0000040408 + 0x4 * n
def clkStat : Nat := 0xff0000050000
def clkRefcnt : Nat := 0xff0000050004
def clkAligncnt : Nat := 0xff0000050008
def clkRegtmocnt : Nat := 0xff000005000c
def clkPllcnt : Nat := 0xff0000050010
def clkMeridian : Nat := 0xff0000050018
def clkMinc : Nat := 0xff0000050020
def clkDie (n : Nat) : Nat := 0xff0000050028 + 0x4 * n
def clkStops (n : Nat) : Nat := 0xff0000050040 + 0x8 * n
def clkRstat (n : Nat) : Nat := 0xff0000050100 + 0x4 * n
def secStat : Nat := 0xff00000a0000
def secAuthcnt : Nat := 0xff00000a0004
def secLockcnt : Nat := 0xff00000a0008
def secDenycnt : Nat := 0xff00000a000c
def secForcecnt : Nat := 0xff00000a0010
def secBoot : Nat := 0xff00000a0018
def secFw : Nat := 0xff00000a001c
def secSess : Nat := 0xff00000a0020
def secSesscfg : Nat := 0xff00000a0028
def secLock : Nat := 0xff00000a002c
def genId : Nat := 0xff0000000000
def genState : Nat := 0xff0000000004
def genStattab : Nat := 0xff0000000008
def genLaststop : Nat := 0xff0000000010
def genStoptime : Nat := 0xff0000000018
def genStat : Nat := 0xff0000000020
def genIgncnt : Nat := 0xff0000000024
def genIgnloc : Nat := 0xff0000000028
def cfgCmd : Nat := 0xff0000010000
def cfgInstant : Nat := 0xff0000010008
def cfgState : Nat := 0xff0000010010
def cfgFail : Nat := 0xff0000010018
def cfgEpoch : Nat := 0xff0000010020
def cfgLast : Nat := 0xff0000010028
def cfgStat : Nat := 0xff0000010030
def cfgChkcnt : Nat := 0xff0000010034
def cfgApfcnt : Nat := 0xff0000010038
def cfgAppcnt : Nat := 0xff000001003c
def evtCtl : Nat := 0xff0000020000
def evtBase : Nat := 0xff0000020008
def evtSize : Nat := 0xff0000020010
def evtProd : Nat := 0xff0000020018
def evtCons : Nat := 0xff000002001c
def evtStat : Nat := 0xff0000020020
def evtLostcnt : Nat := 0xff0000020024
def evtResv : Nat := 0xff0000020028

end R

end Sys2Proof.Machine
end

