-- ==== Sys2Proof/Machine/Flags.lean ====
section
/-!
DEFINITION. Flags, companion counters and events: the one way a W1C flag is set (R19, R20), the one way an event is
raised (R15, R467 to R473), and the entry into FAULT (R425, R464, R473).
-/

namespace Sys2Proof.Machine

/-- Add to a 32-bit counter, saturating (R20). -/
def State.count (s : State) (cnt n : Nat) : State := s.wr cnt (min (s.rd cnt + n) 0xFFFFFFFF)

/-- Set a W1C flag and count `n` settings in its companion counter (R20). With n = 0 nothing is set. -/
def State.flag (s : State) (stat bit cnt n : Nat) : State :=
  if n = 0 then s else (s.wf stat bit 1 1).count cnt n

/-- Add to a 64-bit free-running count. -/
def State.tally (s : State) (reg n : Nat) : State := s.wr reg ((s.rd reg + n) % 2 ^ 64)

/-! ### Events -/

/-- Severity of a code (Table 16.10). CLK_PLL_FAILED has two severities; its raiser names it. -/
def sevOf (code : Nat) : Sev :=
  if [0x1301, 0x3002, 0x3005, 0x3007, 0x5004, 0x5007, 0x5105, 0x5107, 0x510A, 0x510B, 0x510D, 0x5204, 0x6001,
      0x6002].contains code then .stop
  else if [0x1001, 0x1101, 0x1201, 0x1403, 0x2002, 0x2101, 0x2201, 0x4007, 0x5003].contains code then .replay
  else if [0x1003, 0x1303, 0x2005, 0x2006, 0x2007, 0x4003, 0x4004, 0x4005, 0x400C, 0x5001, 0x5002, 0x5006, 0x500C,
      0x500D, 0x5101, 0x5103, 0x5106, 0x5109, 0x5201, 0x5203].contains code then .degrade
  else if [0x0201, 0x2001, 0x2003, 0x4001, 0x6004].contains code then .info
  else .notice

def Sev.code : Sev → Nat
  | .info => 0 | .notice => 1 | .degrade => 2 | .replay => 3 | .stop => 4

/-- The steward die and a compute die as sources; a unit of a cluster; a stack; a port (Table 16.8). -/
def srcSd : Src := { die := 4 }
def srcDie (d : Nat) : Src := { die := d }
def srcCl (c kind index : Nat) : Src := { die := dieOf c, cluster := c, kind, index }
def srcStack (k : Nat) : Src := { die := k / 5, kind := 6, index := k }
def srcPort (p : Nat) : Src := { die := p / 8, kind := 7, index := p }

/-- Number of the unit whose queue carries a record (R468): block, cluster, kind, index and die. -/
def unitNo (code : Nat) (q : Src) : Nat := (((code / 256 * 256 + q.cluster) * 8 + q.kind) * 32 + q.index) * 8 + q.die

/-- A lost record (R469): EVT_STAT.LOST and its counter. -/
def State.loseRec (s : State) : State :=
  let s := s.flag R.evtStat 0 R.evtLostcnt 1
  { s with evt := { s.evt with lost := s.evt.lost + 1 } }

/-- Put a record into its unit's queue of 8; a full queue loses it (R468). After host memory has entered self-refresh a
record is lost (R469). -/
def State.sendRec (s : State) (r : EvRec) : State :=
  let u := unitNo r.code.toNat r.src
  let q := SMap.val [] s.evt.queues u
  if s.dev.selfRefresh || q.length ≥ 8 then s.loseRec
  else { s with evt := { s.evt with queues := SMap.put u (q ++ [r]) s.evt.queues } }

/-- An armed epoch and every staged value are discarded (R464). -/
def State.dropEpoch (s : State) : State :=
  { s with cfg := { s.cfg with phase := .idle, tailMap := false, tailDusk := [] },
           regs := { s.regs with staged := [] } }

/-- Entry into FAULT (R425): from any state except OFF. A STOP overrides every pending command (R428). -/
def State.enterFault (s : State) : State :=
  if s.dev.st = .off then s
  else
    let s := s.dropEpoch
    { s with dev := { s.dev with st := .fault, start := none, holdPending := false, replayDue := [],
                                 restartDue := false, holdDue := none, heldReplay := false } }

/-- Entry into HELD (R425): idle time counts from here (R442). -/
def State.enterHeld (s : State) : State :=
  { s with dev := { s.dev with st := .held }, sec := { s.sec with lastCmd := s.ticks } }

/-- GEN_LASTSTOP and GEN_STOPTIME (R455, R473). -/
def State.recordStop (s : State) (code : Nat) (q : Src) : State :=
  (s.wr R.genLaststop (code + q.die * 2 ^ 16 + 2 ^ 31)).wr R.genStoptime s.time.meridian.toNat

/-- Raise an event of a given severity: its record, then the response of R15. A REPLAY is due only while a step runs
(R217); `hold` says that its continuation is Held (Table 11.4). -/
def State.raiseAs (s : State) (sev : Sev) (code : Nat) (q : Src) (arg d0 d1 : Nat) (hold : Bool) : State :=
  let r : EvRec := ⟨s.time.meridian, BitVec.ofNat 16 code, sev, q, BitVec.ofNat 16 arg, BitVec.ofNat 64 d0,
    BitVec.ofNat 64 d1, false⟩
  let s := s.sendRec r
  match sev with
  | .stop =>
    let cold := s.dev.faultCold || [0x5107, 0x5203, 0x510D].contains code
    ({ s with dev := { s.dev with faultCold := cold } }.recordStop code q).enterFault
  | .replay =>
    if s.running then
      { s with dev := { s.dev with replayDue := s.dev.replayDue ++
          [⟨BitVec.ofNat 16 code, BitVec.ofNat 64 d0, BitVec.ofNat 64 d1, hold⟩] } }
    else s
  | _ => s

/-- Raise an event at the severity of Table 16.10. -/
def State.raise (s : State) (code : Nat) (q : Src) (arg d0 d1 : Nat) : State :=
  s.raiseAs (sevOf code) code q arg d0 d1 false

/-- Raise a REPLAY event whose continuation is Held (Table 11.4). -/
def State.raiseHeld (s : State) (code : Nat) (q : Src) (arg d0 d1 : Nat) : State :=
  s.raiseAs .replay code q arg d0 d1 true

/-- An event limited to one record in `gap` ticks for each key (R473). `mk` gives D0 and D1 from the number of
occurrences since the last record, this one included. -/
def State.raiseLimited (s : State) (key gap code : Nat) (q : Src) (arg n : Nat) (mk : Nat → Nat × Nat) : State :=
  let put := fun (s : State) (v : Nat × Nat) => { s with evt := { s.evt with rate := SMap.put key v s.evt.rate } }
  match SMap.find key s.evt.rate with
  | none => put (s.raise code q arg (mk n).1 (mk n).2) (s.ticks, 0)
  | some (t, k) =>
    if s.ticks - t ≥ gap then put (s.raise code q arg (mk (k + n)).1 (mk (k + n)).2) (s.ticks, 0)
    else put s (t, k + n)

/-! ### Values of an earlier epoch (R9, R463) -/

/-- Installed values by which collectives and steward commands run. -/
def workRegs : List Nat := [R.lnkCtl, R.lnkRtbase, R.lnkGtbase, R.updShtab, R.updShcnt, R.updPartab, R.updLrtab]

/-- The values that were in force at place `ord` of the order of acceptance, where a later epoch has replaced them. -/
def State.oldVals (s : State) (ord : Nat) : SMap Word :=
  match s.cfg.old.find? fun p => ord < p.1 with
  | some p => p.2
  | none => []

/-- Install values; of LNK_CTL only RANK is staged (Table 16.4). -/
def State.putVals (s : State) (v : SMap Word) : State :=
  v.foldl (fun s p => if p.1 = R.lnkCtl then s.wf R.lnkCtl 0 12 p.2.toNat else s.wr p.1 p.2.toNat) s

/-- Work accepted at place `ord` runs with the values in force at its acceptance, which leaves the installed ones as they
were. -/
def State.asOf (s : State) (ord : Nat) (f : State → State) : State :=
  let v := s.oldVals ord
  if v.isEmpty then f s
  else (f (s.putVals v)).putVals (v.map fun p => (p.1, BitVec.ofNat 64 (s.rd p.1)))

/-- Ticks of a microsecond, a millisecond and a second (R24). -/
def tUs : Nat := 100
def tMs : Nat := 100000
def tSec : Nat := 100000000

/-- Meridian units of a microsecond (R24). -/
def merUs : Nat := 16000

end Sys2Proof.Machine
end

