-- ==== Sys2Proof/Machine/Mem.lean ====
section
/-!
DEFINITION. Memory as every unit reaches it: the array code and row repair of the base dies (R215 to R222), the lines, the
ingress queues and the combining buffers of the slices (R207 to R214), block checksums (R198 to R201), release classes
(R446, R447) and host memory (R267). Within one step the requests of an access join their slices' queues as credits allow,
and each is taken and applied in that order (R209, log 63).
-/

namespace Sys2Proof.Machine

/-- Pieces of [a, a + n) that lie each within one aligned unit: (address, length). -/
def piecesGo (u : Nat) : Nat → Nat → Nat → List (Nat × Nat)
  | 0, _, _ => []
  | f + 1, a, n =>
    if n = 0 then []
    else
      let k := min n (u - a % u)
      (a, k) :: piecesGo u f (a + k) (n - k)

def pieces (u a n : Nat) : List (Nat × Nat) := piecesGo u (n / u + 2) a n

/-! ### Lines and requests of a home slice (R207, R214) -/

/-- Whether a slice holds a line dirty. -/
def State.isDirty (s : State) (l : Nat) : Bool := s.shc.lines.any fun p => p.2.contains (l, true)

/-- A line leaves its slice. -/
def State.dropLine (s : State) (l : Nat) : State :=
  { s with shc := { s.shc with lines := s.shc.lines.map fun p => (p.1, p.2.filter fun e => e.1 != l) } }

/-- A line is read or written in its slice: it is allocated in its set, a full set giving up one line, which is written back
if it is dirty (R207). Memory as this model holds it already has what a write-back writes. -/
def State.touch (s : State) (l : Nat) (dirty : Bool) : State :=
  let k := 1024 * s.homeSlice (l * 256) + Config.shcSet l % 1024
  let ls := SMap.val [] s.shc.lines k
  let rest := ls.filter fun e => e.1 != l
  let kept := if rest.length < 12 then rest else rest.eraseIdx (Config.shcWay l s.ticks % rest.length)
  { s with shc := { s.shc with lines := SMap.put k ((l, dirty || ls.contains (l, true)) :: kept) s.shc.lines } }

/-- The lines of [a, a + n). -/
def linesOf (a n : Nat) : List Nat := (pieces 256 a n).map fun p => p.1 / 256

def State.touchAll (s : State) (a n : Nat) (dirty : Bool) : State :=
  (linesOf a n).foldl (fun s l => s.touch l dirty) s

/-- Who holds the credits for a request (R214): a cluster, the collective engines of a die together, or the steward with its
units. -/
def poolOf : Client → Nat
  | .stream c _ => c.val
  | .requant c => c.val
  | .comet c => c.val
  | .sequencer c => c.val
  | .vector c _ => c.val
  | .coll d => 96 + d.val
  | _ => 100

/-- Credits that a requester holds for each slice when none is in use. -/
def poolCredits (p : Nat) : Nat := if p < 96 then 4 else 16

def putList {α : Type} (k : Nat) (l : List α) (m : SMap (List α)) : SMap (List α) :=
  if l.isEmpty then SMap.del k m else SMap.put k l m

/-- A requester that holds a credit for a slice sends its request into the ingress queue; without one it stalls. -/
def State.sendReq (s : State) (who : Client) (k : Nat) : State :=
  let p := poolOf who
  let q := SMap.val [] s.shc.queue k
  if q.count p < poolCredits p then
    let s := { s with shc := { s.shc with queue := putList k (q ++ [p]) s.shc.queue } }
    if s.rf (R.shcCbhwm (k / 32)) 8 10 < q.length + 1 then s.wf (R.shcCbhwm (k / 32)) 8 10 (q.length + 1) else s
  else { s with shc := { s.shc with stalled := putList k (SMap.val [] s.shc.stalled k ++ [p]) s.shc.stalled } }

/-- A slice takes the oldest request from its queue and returns the credit, with which a stalled request of the same
requester is sent. -/
def State.takeReq (s : State) (k : Nat) : State :=
  match SMap.val [] s.shc.queue k with
  | [] => s
  | p :: q =>
    let w := SMap.val [] s.shc.stalled k
    let q := if w.contains p then q ++ [p] else q
    { s with shc := { s.shc with queue := putList k q s.shc.queue, stalled := putList k (w.erase p) s.shc.stalled } }

/-- One request that is sent and taken. -/
def State.request (s : State) (who : Client) (a : Nat) : State := (s.sendReq who (s.homeSlice a)).takeReq (s.homeSlice a)

/-! ### Row repair (R219 to R222) -/

/-- Lowest free spare of a channel. -/
def Chan.freeSpare (x : Chan) : Option Nat := (List.range 48).find? fun k => (SMap.find k x.spares).isNone

/-- Spare that serves a row. -/
def Chan.spareOf (x : Chan) (row : Nat) : Option Nat :=
  (x.spares.find? fun p => p.2 = .inUse row).map (·.1)

/-- Move a row to a free spare, whose count starts anew: a repair when it was Normal (R220), a retirement of the spare it
leaves (R221), or the channel becomes Failing (R222). -/
def State.moveRow (s : State) (ch row : Nat) : State :=
  let x := s.chan ch
  let src := srcStack (ch / 32)
  let drop := fun (x : Chan) => { x with due := x.due.filter (· != row) }
  match x.freeSpare, x.spareOf row with
  | some k, none =>
    let s := s.setChan ch (drop { x with spares := SMap.put k (.inUse row) x.spares, rows := SMap.del row x.rows })
    (s.flag R.memStat 2 R.memRepcnt 1).raise 0x2003 src k ch row
  | some k, some old =>
    let s := s.setChan ch (drop { x with spares := SMap.put k (.inUse row) (SMap.put old (.retired row) x.spares),
                                         rows := SMap.del row x.rows })
    (s.flag R.memStat 3 R.memRetcnt 1).raise 0x2004 src old ch row
  | none, _ =>
    if x.st = .live then
      let s := s.setChan ch (drop { x with st := .failing })
      (s.flag R.memStat 4 R.memFailcnt 1).raise 0x2005 src 0 ch 0
    else s.setChan ch (drop x)

/-- A corrected codeword in a row (R216, R220): counts, the due mark at CETHR, and MEM_CE at most once a second. -/
def State.corrected (s : State) (ch row : Nat) : State :=
  let x := s.chan ch
  let known := (SMap.find row x.rows).isSome
  let n := SMap.val 0 x.rows row + 1
  let thr := s.rf R.memRepcfg 0 4
  let rows := if known || x.rows.length < 256 then SMap.put row n x.rows else x.rows
  let due := if thr != 0 && n ≥ thr && (known || x.rows.length < 256) && !x.due.contains row then x.due ++ [row] else x.due
  let s := s.setChan ch { x with rows, due, cecur := min (x.cecur + 1) 4095 }
  let s := s.flag R.memStat 0 R.memCecnt 1
  s.raiseLimited (0x2001 * 1024 + ch) tSec 0x2001 (srcStack (ch / 32)) 0 1 fun n => (ch, n)

/-- Uncorrectable codewords of one row of one channel (R217): `grains` are the DPAs of the lost grains. A line the slice
holds dirty keeps its value, which a later write-back restores. -/
def State.lostGrains (s : State) (ch row : Nat) (grains : List Nat) : State :=
  let s := s.moveRow ch row
  let wiped := grains.filter fun g => !s.isDirty (g / 256)
  let s := { s with mem := wiped.foldl (fun m g => Mem.wipe m g 256) s.mem,
                    shc := { s.shc with verified := s.shc.verified.filter fun b => !wiped.any fun g => g / 4096 = b } }
  let s := s.wr R.memUeloc (grains.headD 0 / 256 * 256 + ch * 2 ^ 48 + 2 ^ 63)
  let x := s.chan ch
  let s := s.setChan ch { x with uetot := min (x.uetot + grains.length) 0xFFFFFFFF }
  let s := s.flag R.memStat 1 R.memUecnt grains.length
  grains.foldl (fun s g => s.raiseHeld 0x2002 (srcStack (ch / 32)) grains.length ch g) s

/-- A dirty line lost to SECDED (R210): written to HBM as zeros, outside any block transaction. -/
def State.lostLine (s : State) (line : Nat) : State :=
  let k := s.homeSlice (line * 256)
  let s := s.dropLine line
  let s := { s with mem := Mem.wipe s.mem (line * 256) 256,
                    shc := { s.shc with verified := s.shc.verified.filter (· != line / 16) } }
  let s := s.flag (R.shcStat (k / 32)) 1 (R.shcUecnt (k / 32)) 1
  s.raiseHeld 0x2101 { die := k / 32, kind := 5, index := k % 32 } 0 (line * 256) 0

/-- What the codewords of a range gave: whether one was uncorrectable or lost, and those with wrong data undetected. -/
structure EccOut where
  ue : Bool
  wrong : List Nat

/-- Findings on the HBM codewords of [a, a + n) (R210, R216, R217). -/
def State.eccHbm (s : State) (a n : Nat) (errs : Errs) : EccOut × State :=
  let hits := errs.filter fun e => a / 32 ≤ e.1 && e.1 * 32 < a + n
  let lines := (hits.filter fun e => e.2 = .line && s.isDirty (e.1 / 8)).map (·.1 / 8)
  let lines := lines.eraseDups
  let s := lines.foldl (fun s l => s.lostLine l) s
  let arr := hits.filterMap fun e => match e.2 with
    | .array k => if k = 0 then none else some (e.1, k)
    | .line => none
  let place := fun (cw : Nat) => let (ch, off) := s.locate (cw * 32); (ch, off / 2048)
  let s := ((arr.map fun e => e.1 / 8).eraseDups).foldl (fun s l => s.dropLine l) s
  let s := (arr.filter fun e => e.2 = 1).foldl (fun s e => let (ch, r) := place e.1; s.corrected ch r) s
  let ue := arr.filter fun e => e.2 = 2 || e.2 = 3
  let rows := (ue.map fun e => place e.1).eraseDups
  let s := rows.foldl (fun s r =>
    let gs := ((ue.filter fun e => place e.1 = r).map fun e => e.1 / 8 * 256).eraseDups
    s.lostGrains r.1 r.2 gs) s
  (⟨!ue.isEmpty || !lines.isEmpty, (arr.filter fun e => e.2 ≥ 4).map (·.1)⟩, s)

/-- Findings on host codewords of [hpa, hpa + n) (R267): a correction leaves no trace; an uncorrectable codeword is
rewritten as zeros and raises HOST_UE. -/
def State.eccHost (s : State) (hpa n : Nat) (errs : Errs) : EccOut × State :=
  let arr := (errs.filter fun e => hpa / 32 ≤ e.1 && e.1 * 32 < hpa + n).filterMap fun e => match e.2 with
    | .array k => if k = 0 then none else some (e.1, k)
    | .line => none
  let ue := arr.filter fun e => e.2 = 2 || e.2 = 3
  let s := ue.foldl (fun s e =>
    let s := { s with mem := Mem.wipe s.mem (hostBase + e.1 * 32) 32 }
    s.raiseHeld 0x2201 srcSd 0 (e.1 * 32) 0) s
  (⟨!ue.isEmpty, (arr.filter fun e => e.2 ≥ 4).map (·.1)⟩, s)

/-- Bytes as delivered where codewords were wrong and undetected: free values (Table 7.3, log 1). -/
def State.deliver (s : State) (a n base : Nat) (wrong : List Nat) : List Byte × State :=
  let bs := s.mem.bytes a n
  if wrong.isEmpty then (bs, s)
  else
    let (k, s) := s.takeFree
    (bs.zipIdx.map fun p =>
      if wrong.contains ((a + p.2 - base) / 32) then Config.badByte (k * 2 ^ 20 + p.2) else p.1, s)

/-- A write of part of a codeword merges what its read delivered (R215): of a codeword that was wrong and undetected, the
wrong bytes are written with it. `base` is the address of codeword 0. -/
def State.mergeWrong (s : State) (base : Nat) (cws : List Nat) : State :=
  cws.foldl (fun s w =>
    let (bs, s) := s.deliver (base + 32 * w) 32 base [w]
    { s with mem := s.mem.write (base + 32 * w) bs }) s

/-- The codewords of [a, a + n) that a write covers only in part (R215). -/
def partialCw (a n : Nat) : List Nat :=
  (if a % 32 != 0 then [a / 32] else []) ++ (if (a + n) % 32 != 0 then [(a + n) / 32] else [])

/-- Findings on certain codewords only. -/
def Errs.only (errs : Errs) (cws : List Nat) : Errs := errs.filter fun x => cws.contains x.1

/-! ### Checksums (R198 to R201) -/

/-- Whether block b of HBM carries a maintained entry (R198). -/
def State.ckOn (s : State) (b : Nat) : Bool :=
  let base := s.rd R.stmCkbase
  let top := s.rd R.stmCktop
  s.rf R.stmCkctl 0 1 = 1 && b * 4096 < top && !(base < b * 4096 + 4096 && b * 4096 < base + top / 1024)

/-- Address of the entry of block b. -/
def State.ckAt (s : State) (b : Nat) : Nat := s.rd R.stmCkbase + 4 * b

def State.ckEntry (s : State) (b : Nat) : Nat := leNat (s.mem.bytes (s.ckAt b) 4)

/-- CRC-32C of a 4,096-byte message that holds bytes at an offset and zeros elsewhere (R199). -/
def crcAt (off : Nat) (bs : List Byte) : Nat :=
  (crc32c (List.replicate off 0 ++ bs ++ List.replicate (4096 - off - bs.length) 0)).toNat

/-- The entry after a block transaction (R199). -/
def State.ckUpdate (s : State) (a : Nat) (bs : List Byte) : State :=
  let b := a / 4096
  if !s.ckOn b then s
  else
    let p := crcAt (a % 4096) bs
    let e := if bs.length = 4096 then p
      else Nat.xor (Nat.xor (s.ckEntry b) (crcAt (a % 4096) (s.mem.bytes a bs.length))) p
    { s with mem := s.mem.write (s.ckAt b) (natLe 4 e) }

/-- One block transaction: the entry and the data change in one step (R199); the lines become dirty and the verified
copy is replaced. -/
def State.blockWrite (s : State) (a : Nat) (bs : List Byte) : State :=
  let s := (s.ckUpdate a bs).touchAll a bs.length true
  { s with mem := s.mem.write a bs, shc := { s.shc with verified := s.shc.verified.filter (· != a / 4096) } }

/-- UNIT and INST of Table 6.12, and the source of its event, for a consumer (R201). -/
def clientUnit : Client → Nat × Nat × Src
  | .stream c e => (0, e.val, srcCl c.val 3 e.val)
  | .requant c => (1, 0, srcCl c.val 5 0)
  | .comet c => (2, 0, srcCl c.val 4 0)
  | .sequencer c => (6, 0, srcCl c.val 4 0)
  | .vector c _ => (6, 0, srcCl c.val 4 0)
  | .update e => (4, e.val, { die := 4, kind := 0, index := e.val })
  | .coll d => (5, d.val, srcDie d.val)
  | .steward => (7, 0, srcSd)
  | .core => (3, 0, srcSd)
  | .pcie => (3, 0, srcSd)

/-- The cluster of a consumer, if it has one. -/
def clientClus : Client → Option Nat
  | .stream c _ => some c.val
  | .requant c => some c.val
  | .comet c => some c.val
  | .sequencer c => some c.val
  | .vector c _ => some c.val
  | _ => none

/-- A failed verification (R201, R346): flag, count, location, and the REPLAY event, held when the block has failed
before in the epoch. -/
def State.crcFail (s : State) (who : Client) (tag b : Nat) : State :=
  let (u, i, src) := clientUnit who
  let loc := b * 4096 + u * 2 ^ 48 + i * 2 ^ 51 + 2 ^ 63
  let again := s.stw.badBlocks.contains b
  let s := { s with stw := { s.stw with badBlocks := if again then s.stw.badBlocks else b :: s.stw.badBlocks } }
  let s := match clientClus who with
    | some c => (s.flag (R.stmStat c) 0 (R.stmCrccnt c) 1).wr (R.stmCkloc c) loc
    | none => (s.flag R.stmDstat 0 R.stmDcrccnt 1).wr R.stmDckloc loc
  s.raiseAs .replay 0x1403 src tag loc 0 again

/-! ### Combining buffers (R211 to R213) -/

def elemBytes : Elem → Nat
  | .i32 => 4
  | .i64 => 8

/-- Effect on one element: new signed value (Table 7.1). -/
def redEffect (op : RedOp) (m v : Int) : Int :=
  match op with
  | .add => m + v
  | .max => max m v
  | .min => min m v
  | .or => (Nat.lor (trunc 64 m) (trunc 64 v) : Nat)

/-- Apply a closing entry to its line as one block transaction, with R212's overflow count. The read that the application
makes has its findings; where it finds an uncorrectable codeword or a lost line, nothing is applied (R210, R215). -/
def State.applyComb (s : State) (e : Comb) (errs : Errs) : State :=
  let w := elemBytes e.el
  let base := e.line * 256
  let (o, s) := s.eccHbm base 256 errs
  if o.ue then s
  else
    let s := s.mergeWrong 0 o.wrong
    let old := fun (i : Nat) => sx (8 * w) (leNat (s.mem.bytes (base + w * i) w))
    let new := e.lanes.map fun p => (p.1, redEffect e.op (old p.1) p.2)
    let ovs := (new.filter fun p => e.op = .add && (clampTo (8 * w) p.2).2).length
    let cur := s.mem.bytes base 256
    let upd := (List.range 256).map fun i =>
      match SMap.find (i / w) new with
      | some v => (natLe w (trunc (8 * w) v)).getD (i % w) 0
      | none => cur.getD i 0
    let s := s.blockWrite base upd
    let k := s.homeSlice base
    if ovs = 0 then s
    else
      (s.flag (R.shcStat (k / 32)) 0 (R.shcOvfcnt (k / 32)) ovs).raise 0x2102
        { die := k / 32, kind := 5, index := k % 32 } 0 base ovs

/-- Whether an entry's line has a byte in [a, a + n). -/
def Comb.hits (a n : Nat) (e : Comb) : Bool := a < e.line * 256 + 256 && e.line * 256 < a + n

/-- Close and apply the open entries of the lines of [a, a + n) of one block (R213), each application with the findings on
its line. -/
def State.closeRange (s : State) (a n : Nat) (errs : Errs) : State :=
  let k := s.homeSlice a
  let es := SMap.val [] s.shc.comb k
  if es.any (Comb.hits a n) then
    let s := { s with shc := { s.shc with comb := SMap.put k (es.filter fun e => !e.hits a n) s.shc.comb } }
    (es.filter (Comb.hits a n)).foldl (fun s e => s.applyComb e errs) s
  else s

/-- Findings left for an access after the applications before it: an applied line is in the slice. -/
def State.errsAfter (s : State) (a n : Nat) (errs : Errs) : Errs :=
  let es := (SMap.val [] s.shc.comb (s.homeSlice a)).filter (Comb.hits a n)
  errs.filter fun x => !es.any fun e => e.line = x.1 / 8

/-- Close every open entry of every slice, oldest first in each. -/
def State.closeAll (s : State) (errs : Errs) : State :=
  let es := s.shc.comb.flatMap (·.2)
  es.foldl (fun s e => s.applyComb e errs) { s with shc := { s.shc with comb := [] } }

/-- A combinable request (R213): it merges, or opens an entry after closing one that differs or the oldest of a full
buffer of 128. -/
def State.combine (s : State) (line : Nat) (op : RedOp) (el : Elem) (lanes : List (Nat × Int)) (errs : Errs) : State :=
  let k := s.homeSlice (line * 256)
  let d := k / 32
  let es := SMap.val [] s.shc.comb k
  let put := fun (s : State) (l : List Comb) => { s with shc := { s.shc with comb := SMap.put k l s.shc.comb } }
  match es.find? fun e => e.line = line with
  | some e =>
    if e.op = op && e.el = el then
      let ls := lanes.foldl (fun m p =>
        SMap.put p.1 (match SMap.find p.1 m with
          | some v => if op = .add then v + p.2 else redEffect op v p.2
          | none => p.2) m) e.lanes
      (put s (es.map fun f => if f.line = line then { e with lanes := ls, idle := 0 } else f)).tally (R.shcCombined d) 1
    else
      let s := (put s (es.filter fun f => f.line != line)).applyComb e errs
      put s (SMap.val [] s.shc.comb k ++ [⟨line, op, el, lanes.foldl (fun m p => SMap.put p.1 p.2 m) [], 0⟩])
  | none =>
    let s := match es with
      | e :: t => if es.length ≥ 128 then (put s t).applyComb e errs else s
      | [] => s
    let l := SMap.val [] s.shc.comb k ++ [⟨line, op, el, lanes.foldl (fun m p => SMap.put p.1 p.2 m) [], 0⟩]
    let s := put s l
    if s.rf (R.shcCbhwm d) 0 8 < l.length then s.wf (R.shcCbhwm d) 0 8 l.length else s

/-! ### Release classes (R446, R447) -/

def State.classOf (s : State) (a : Nat) : Nat := (SMap.val 0 s.cls (a / 4096)).toNat

/-- Class of a block after a write of class k: the class for a whole block, else the rule of R447. -/
def mergeClass (whole : Bool) (old k : Nat) : Nat :=
  if whole || old = k then k else if old = 4 || k = 4 then 4 else 0

def State.setClass (s : State) (a n k : Nat) : State :=
  (pieces 4096 a n).foldl (fun s p =>
    let c := mergeClass (p.2 = 4096) (s.classOf p.1) k
    { s with cls := if c = 0 then SMap.del (p.1 / 4096) s.cls else SMap.put (p.1 / 4096) (BitVec.ofNat 4 c) s.cls }) s

/-- Whether a unit may read the blocks of a range: a NOISE block only by an update engine (R449). The owner's transfer
of noise reads as `noiseOk`. -/
def State.noiseBlocked (s : State) (who : Client) (a n : Nat) (noiseOk : Bool) : Bool :=
  let upd := match who with | .update _ => true | _ => false
  s.sec.sealMem && !upd && !noiseOk && (pieces 4096 a n).any fun p => s.classOf p.1 = 4

/-! ### Reads and writes -/

/-- Answer of a read: status code (Table 0.8) and bytes. -/
abbrev MemAns := Nat × List Byte

/-- A read of part of one block of HBM (R200, R201, R209, R216). -/
def State.readHbmPiece (s : State) (who : Client) (tag a n : Nat) (errs : Errs) : MemAns × State :=
  let b := a / 4096
  let ck := s.ckOn b
  let have_ := s.shc.verified.contains b && n < 4096
  let (ra, rn) := if ck && !have_ then (b * 4096, 4096) else (a, n)
  let left := s.errsAfter ra rn errs
  let s := (s.takeReq (s.homeSlice a)).closeRange ra rn errs
  let (e, s) := s.eccHbm ra rn left
  if e.ue then ((0x32, []), s)
  else
    let s := s.touchAll ra rn false
    let (bs, s) := s.deliver ra rn 0 (if s.hbm.spoiled then (List.range (rn / 32 + 2)).map (ra / 32 + ·) else e.wrong)
    let out := (bs.drop (a - ra)).take n
    if ck && !have_ then
      if (crc32c bs).toNat = s.ckEntry b then
        ((0, out), if n < 4096 then { s with shc := { s.shc with verified := b :: s.shc.verified } } else s)
      else ((0x30, []), s.crcFail who tag b)
    else ((0, out), s)

/-- A read of [hpa, hpa + n) of host memory (R267). -/
def State.readHostRange (s : State) (hpa n : Nat) (errs : Errs) : MemAns × State :=
  let (e, s) := s.eccHost hpa n errs
  if e.ue then ((0x32, []), s)
  else
    let (bs, s) := s.deliver (hostBase + hpa) n hostBase e.wrong
    ((0, bs), s)

/-- The requests of an access are sent, one for each block. -/
def State.sendAll (s : State) (who : Client) (ps : List (Nat × Nat)) : State :=
  ps.foldl (fun s p => s.sendReq who (s.homeSlice p.1)) s

/-- Read of a range by a unit: block by block until the first that fails. -/
def State.memRead (s : State) (who : Client) (tag a n : Nat) (errs : Errs) (noiseOk : Bool := false) : MemAns × State :=
  if s.noiseBlocked who a n noiseOk then ((0x51, []), s)
  else if a ≥ hostBase then s.readHostRange (a - hostBase) n errs
  else
    (pieces 4096 a n).foldl (fun (r : MemAns × State) p =>
      if r.1.1 != 0 then (r.1, r.2.takeReq (r.2.homeSlice p.1))
      else
        let (q, s) := r.2.readHbmPiece who tag p.1 p.2 errs
        if q.1 != 0 then (q, s) else ((0, r.1.2 ++ q.2), s)) ((0, []), s.sendAll who (pieces 4096 a n))

/-- A write of part of one block of HBM with its class (R199, R209, R215, R447). -/
def State.writeHbmPiece (s : State) (a : Nat) (bs : List Byte) (k : Nat) (errs : Errs) : Nat × State :=
  let left := s.errsAfter a bs.length errs
  let s := (s.takeReq (s.homeSlice a)).closeRange a bs.length errs
  let (e, s) := s.eccHbm (a / 4096 * 4096) 4096 (Errs.only left (partialCw a bs.length))
  if e.ue then (0x32, s)
  else (0, ((s.mergeWrong 0 e.wrong).blockWrite a bs).setClass a bs.length k)

/-- A write of host memory with its class (R215, R267, R447). -/
def State.writeHostRange (s : State) (hpa : Nat) (bs : List Byte) (k : Nat) (errs : Errs) : Nat × State :=
  let (e, s) := s.eccHost hpa bs.length (Errs.only errs (partialCw hpa bs.length))
  if e.ue then (0x32, s)
  else
    let s := s.mergeWrong hostBase e.wrong
    (0, ({ s with mem := s.mem.write (hostBase + hpa) bs }).setClass (hostBase + hpa) bs.length k)

/-- Write of a byte string by a unit: block transactions in address order until the first that fails. -/
def State.memWrite (s : State) (who : Client) (a : Nat) (bs : List Byte) (k : Nat) (errs : Errs) : Nat × State :=
  if a ≥ hostBase then s.writeHostRange (a - hostBase) bs k errs
  else
    (pieces 4096 a bs.length).foldl (fun (r : Nat × State) p =>
      if r.1 != 0 then (r.1, r.2.takeReq (r.2.homeSlice p.1))
      else r.2.writeHbmPiece p.1 ((bs.drop (p.1 - a)).take p.2) k errs) (0, s.sendAll who (pieces 4096 a bs.length))

/-- Reads of a list of ranges until the first that fails. -/
def State.readAll (s : State) (who : Client) (tag : Nat) (rs : List (Nat × Nat)) (errs : Errs) :
    Nat × List (List Byte) × State :=
  rs.foldl (fun (r : Nat × List (List Byte) × State) p =>
    if r.1 != 0 then r
    else
      let (q, s) := r.2.2.memRead who tag p.1 p.2 errs
      (q.1, r.2.1 ++ [q.2], s)) (0, [], s)

/-- Writes of a list of runs until the first that fails. -/
def State.writeAll (s : State) (who : Client) (rs : List (Nat × List Byte)) (k : Nat) (errs : Errs) : Nat × State :=
  rs.foldl (fun (r : Nat × State) p => if r.1 != 0 then r else r.2.memWrite who p.1 p.2 k errs) (0, s)

/-! ### The rows of the home slices and of host memory -/

/-- HOME_SLICE_ACCESS: one access at the home slices of its blocks (R208, R209). Its answer is what the requester
receives; an address above HBM is refused with MALFORMED (R8). -/
def execHomeSliceAccess (who : Client) (dpa : Nat) (w : Option (List Byte)) (len : Nat) (cls : BitVec 4) (errs : Errs)
    (s : State) : Host.Outcome State Fault Refusal :=
  let n := match w with | some bs => bs.length | none => len
  if s.hbmEnd < dpa + n then .next { s with answer := (0x10, []) }
  else match w with
  | some bs =>
    let (r, s) := s.memWrite who dpa bs cls.toNat errs
    .next { s with answer := (BitVec.ofNat 8 r, []) }
  | none =>
    let (r, s) := s.memRead who 0 dpa len errs
    .next { s with answer := (BitVec.ofNat 8 r.1, r.2) }

/-- HOST_MEMORY_ACCESS (R267); outside the memory installed it is refused with MALFORMED (R8). A steward core's load from a
NOISE block returns zero, and its store is PRIVATE (R447, R449). -/
def execHostMemoryAccess (who : Client) (hpa : Nat) (w : Option (List Byte)) (len : Nat) (cls : BitVec 4) (errs : Errs)
    (s : State) : Host.Outcome State Fault Refusal :=
  let n := match w with | some bs => bs.length | none => len
  if s.fuse.hostBytes < hpa + n then .next { s with answer := (0x10, []) }
  else match w with
  | some bs =>
    let (r, s) := s.writeHostRange hpa bs (if who = .core || who = .pcie then 0 else cls.toNat) errs
    .next { s with answer := (BitVec.ofNat 8 r, []) }
  | none =>
    if s.noiseBlocked who (hostBase + hpa) len false then
      .next { s with answer := if who = .core then (0, List.replicate len 0) else (0x51, []) }
    else
      let (r, s) := s.readHostRange hpa len errs
      .next { s with answer := (BitVec.ofNat 8 r.1, r.2) }

/-- A refused egress (R449): SEC_STAT.DENY, its counter, and the event at most once in a millisecond. -/
def State.denyEgress (s : State) (a : Nat) : State :=
  (s.flag R.secStat 2 R.secDenycnt 1).raiseLimited (0x6006 * 1024) tMs 0x6006 srcSd 0 1 fun n => (a, n)

/-- PCIE_ENDPOINT_READ (R449): a Completer Abort (answer 0x51) from blocks not of class 1, 2 or 3 while classes are
enforced. -/
def execPcieEndpointRead (hpa len : Nat) (errs : Errs) (s : State) : Host.Outcome State Fault Refusal :=
  if s.fuse.hostBytes < hpa + len then .next { s with answer := (0x10, []) }
  else if s.sec.sealMem && (pieces 4096 (hostBase + hpa) len).any
      (fun p => !(1 ≤ s.classOf p.1 && s.classOf p.1 ≤ 3)) then
    .next { s.denyEgress (hostBase + hpa) with answer := (0x51, []) }
  else
    let (r, s) := s.readHostRange hpa len errs
    .next { s with answer := (BitVec.ofNat 8 r.1, r.2) }

/-- PCIE_ENDPOINT_WRITE (R447): the written blocks take class PRIVATE. -/
def execPcieEndpointWrite (hpa : Nat) (bs : List Byte) (errs : Errs) (s : State) : Host.Outcome State Fault Refusal :=
  if s.fuse.hostBytes < hpa + bs.length then .next { s with answer := (0x10, []) }
  else
    let (r, s) := s.writeHostRange hpa bs 0 errs
    .next { s with answer := (BitVec.ofNat 8 r, []) }

/-- Class of what a unit writes without naming one: update engines write UPDATE, all else is PRIVATE (Table 15.11). -/
def ownClass : Client → Nat
  | .update _ => 1
  | _ => 0

/-- A reduction request (R211): aligned, within one line, 4 to 256 bytes; a request that breaks these rules, or that lies
above HBM (R8), completes with MALFORMED before it reaches the slice. -/
def State.reduce (s : State) (who : Client) (dpa : Nat) (op : RedOp) (el : Elem) (lanes : List Int) (errs : Errs) :
    Host.Outcome State Fault Refusal :=
  let w := elemBytes el
  let n := w * lanes.length
  if dpa % w != 0 || n < 4 || n > 256 || dpa % 256 + n > 256 || s.hbmEnd < dpa + n then .next { s with answer := (0x10, []) }
  else
    let ls := lanes.zipIdx.map fun p => (dpa % 256 / w + p.2, sx (8 * w) (trunc (8 * w) p.1))
    .next { ((s.request who dpa).combine (dpa / 256) op el ls errs).setClass dpa n (ownClass who) with answer := (0, []) }

def execRadd (who : Client) (dpa : Nat) (ty : Elem) (lanes : List Int) (errs : Errs) (s : State) :=
  s.reduce who dpa .add ty lanes errs
def execRmax (who : Client) (dpa : Nat) (ty : Elem) (lanes : List Int) (errs : Errs) (s : State) :=
  s.reduce who dpa .max ty lanes errs
def execRmin (who : Client) (dpa : Nat) (ty : Elem) (lanes : List Int) (errs : Errs) (s : State) :=
  s.reduce who dpa .min ty lanes errs
/-- ROR works on 64-bit elements (Table 7.1). -/
def execRor (who : Client) (dpa : Nat) (lanes : List Word) (errs : Errs) (s : State) :=
  s.reduce who dpa .or .i64 (lanes.map fun w => (w.toNat : Int)) errs

/-- An atomic on one aligned 8-byte element (R211): the value it stores, if it stores; the old one is returned. Its read has
the outcomes of Table 7.3 (R210, R215, R216). -/
def State.atomic (s : State) (who : Client) (dpa : Nat) (errs : Errs) (f : Nat → Option Nat) :
    Host.Outcome State Fault Refusal :=
  if dpa % 8 != 0 || s.hbmEnd < dpa + 8 then .next { s with answer := (0x10, []) }
  else
    let left := s.errsAfter dpa 8 errs
    let (e, s) := ((s.request who dpa).closeRange dpa 8 errs).eccHbm dpa 8 left
    if e.ue then .next { s with answer := (0x32, []) }
    else
      let s := (s.mergeWrong 0 e.wrong).touchAll dpa 8 false
      let old := leNat (s.mem.bytes dpa 8)
      let s := match f old with
        | some v => (s.blockWrite dpa (natLe 8 v)).setClass dpa 8 (ownClass who)
        | none => s
      .next { s with answer := (0, natLe 8 old) }

def execAadd (who : Client) (dpa : Nat) (v : Word) (errs : Errs) (s : State) :=
  s.atomic who dpa errs fun m => some ((m + v.toNat) % 2 ^ 64)
def execAswap (who : Client) (dpa : Nat) (v : Word) (errs : Errs) (s : State) := s.atomic who dpa errs fun _ => some v.toNat
def execAcas (who : Client) (dpa : Nat) (cmp v : Word) (errs : Errs) (s : State) :=
  s.atomic who dpa errs fun m => if m = cmp.toNat then some v.toNat else none

/-- COMBINING_ENTRY_CLOSE (R213): due once the entry has been idle for SHC_CTL.IDLE fabric cycles. -/
def execCombiningEntryClose (line : Nat) (errs : Errs) (s : State) : Host.Outcome State Fault Refusal :=
  let k := s.homeSlice (line * 256)
  let es := SMap.val [] s.shc.comb k
  match es.find? fun e => e.line = line with
  | some e =>
    if e.idle < 4 * s.rf (R.shcCtl (k / 32)) 0 8 then .next s
    else .next ({ s with shc := { s.shc with comb := SMap.put k (es.filter fun f => f.line != line) s.shc.comb }}.applyComb e
      errs)
  | none => .next s

/-- The byte of HBM that locate maps to an offset of a live channel (R205, the inverse). -/
def State.dpaOf (s : State) (ch off : Nat) : Nat :=
  let d := ch / 160
  let live := s.liveOf d
  let ld := s.liveCnt d
  let l := s.liveAll
  let g := off / 256 * ld + (live.idxOf? ch).getD 0
  let j := g / 16
  let q := j / ld
  let st := ((List.range d).map s.liveCnt).foldl (· + ·) 0
  let sl := j % ld + st
  let r := (sl + (l - mixQ q % l)) % l
  let i := (r + (l - q * l % l)) % l
  (q * l + i) * 4096 + g % 16 * 256 + off % 256

/-- Throttle level in % of a step of Table 12.6. -/
def memPct (k : Nat) : Nat := [100, 90, 80, 70, 60, 50, 40, 30, 20, 10, 5].getD k 5

/-- Throttle level of a channel in %: the memory lever or its stack's ceiling, whichever is lower (R374, R394). -/
def State.chanLevel (s : State) (ch : Nat) : Nat := min s.pw.mem (memPct (SMap.val StackSt.reset s.thm.stack (ch / 32)).step)

/-- SCRUB_READ (R216 to R218, R220): the scrub reads codeword `word` of a live channel, with `bad` of its bytes in error.
A corrected codeword is written back at its home slice, which closes an open entry of the line (R208, R213), unless a write
has arrived since the read (`raced`). The last codeword of the channel ends the pass and clears its counts. The scrub pauses
below 50 % (R374). -/
def execScrubRead (ch : Channel) (word bad : Nat) (raced : Bool) (s : State) : Host.Outcome State Fault Refusal :=
  if s.rf R.memScrub 8 1 = 0 || !s.chanLive ch.val || s.chanLevel ch.val < 50 || word ≥ 2 ^ 26 then .next s
  else
    let row := word / 64
    let a := s.dpaOf ch.val (word * 32)
    let s :=
      if bad = 1 then
        let s := s.corrected ch.val row
        if raced then s else s.closeRange a 32 []
      else if bad = 2 || bad = 3 then s.lostGrains ch.val row [a / 256 * 256]
      else s
    if word = 2 ^ 26 - 1 then
      .next (s.setChan ch.val { s.chan ch.val with rows := [], cecur := 0 })
    else .next s

/-- ROW_REPAIR (R220, R221): the oldest due row of a live channel is moved while no step is running. -/
def execRowRepair (ch : Channel) (s : State) : Host.Outcome State Fault Refusal :=
  match (s.chan ch.val).due with
  | row :: _ => if s.running || !s.chanLive ch.val then .next s else .next (s.moveRow ch.val row)
  | [] => .next s

end Sys2Proof.Machine
end

