-- ==== Sys2Proof/Machine/Requant.lean ====
section
/-!
DEFINITION. The two reference models of the device: the values of stored tensors and the element of a tile operation
(R26 to R31, R38, R56, R83, R84) with its residues (R54), and the requantiser (R61 to R92). Both read a tensor through a `View`, so one text
serves panels in a tile store or the cluster buffer and tensors at a DPA.
-/

namespace Sys2Proof.Machine

/-- How an operand reads: raw codes or integers, exponent nibbles and outlier structures, by row and position. -/
structure View where
  fmt : Nat
  et : Int
  k : Nat
  ocap : Option Nat
  /-- Levels of a row's codebook (R38) with their residues (R54), and those of the escape codebook. -/
  levels : Nat → LevTab
  escLevels : LevTab
  code : Nat → Nat → Nat
  exp : Nat → Nat → Nat
  grec : Nat → Nat → GRec
  escCode : Nat → Nat → Nat
  escExp : Nat → Nat → Nat

def View.isQ (v : View) : Bool := v.fmt ≤ 1

/-- Residue modulo 7, in 0 to 6, rounded towards negative infinity (R54). -/
def mod7 (x : Int) : Nat := (x % 7).toNat

/-- Residue of an integer as the 3 bits that stand beside it. -/
def resOf (x : Int) : BitVec 3 := BitVec.ofNat 3 (mod7 x)

/-- Level of a codebook entry (Table 1.3), and the residue that its table holds for it. -/
def levelAt (ls : LevTab) (c : Nat) : Int := sx 16 ((ls.getD c (0, 0)).1.toNat)
def levelRes (ls : LevTab) (c : Nat) : Nat := (ls.getD c (0, 0)).2.toNat

/-- Integer range of a stored element as it reads (R26). -/
def intOf (fmt raw : Nat) : Int := if fmt = 2 then sx 16 raw else if fmt = 3 then sx 32 raw else sx 64 raw

/-- level(t, r, k): the codebook level for Q formats, the stored integer otherwise; padding reads 0 (R31). -/
def View.level (v : View) (r k : Nat) : Int :=
  if k ≥ v.k then 0
  else if v.isQ then levelAt (v.levels r) (v.code r k) else intOf v.fmt (v.code r k)

/-- Whether element k lies in a zero block or in padding of a whole block (R27, R43). -/
def View.zero (v : View) (r k : Nat) : Bool := v.isQ && (k ≥ v.k || v.exp r (k / 32) = 15)

def View.bexp (v : View) (r k : Nat) : Int := if v.isQ then (v.exp r (k / 32) : Nat) else 0

/-- Whether the group of position k of row r is escaped. -/
def View.escaped (v : View) (r k : Nat) : Bool := v.ocap.isSome && k < v.k && (v.grec r (k / 256)).esc

/-- Index of the slot that holds position k of row r (R83). -/
def View.slot (v : View) (r k : Nat) : Option Nat :=
  if v.ocap.isSome && k < v.k then
    let g := v.grec r (k / 256)
    if g.esc then none else (List.range g.nslot).find? fun i => g.pos.getD i 256 = k % 256
  else none

/-- bzero of R84. -/
def View.bzero (v : View) (r k : Nat) : Bool :=
  if v.escaped r k then v.escExp r (k / 32) = 15 else v.zero r k

/-- bx of R84. -/
def View.bx (v : View) (r k : Nat) : Int :=
  if v.escaped r k then (v.escExp r (k / 32) : Nat) else v.bexp r k

/-- blv of R84. -/
def View.blv (v : View) (r k : Nat) : Int :=
  if v.escaped r k then levelAt v.escLevels (v.escCode r k)
  else if (v.slot r k).isSome then 0 else v.level r k

/-- Residue beside a level or an integer that enters the tile (R54). -/
def View.lres (v : View) (r k : Nat) : Nat :=
  if k ≥ v.k then 0
  else if v.isQ then levelRes (v.levels r) (v.code r k) else mod7 (intOf v.fmt (v.code r k))

/-- Residue of blv. -/
def View.blvRes (v : View) (r k : Nat) : Nat :=
  if v.escaped r k then levelRes v.escLevels (v.escCode r k)
  else if (v.slot r k).isSome then 0 else v.lres r k

/-- ov of R84: the integer and exponent of an element in a slot term. -/
def View.ov (v : View) (r k : Nat) : Int × Int :=
  match v.slot r k with
  | some i => ((v.grec r (k / 256)).val.getD i 0, ((v.ocap.getD 0 : Nat) : Int))
  | none => if v.bzero r k then (0, 0) else (v.blv r k, v.bx r k)

/-- Residue of the integer of ov. -/
def View.ovRes (v : View) (r k : Nat) : Nat :=
  match v.slot r k with
  | some i => mod7 ((v.grec r (k / 256)).val.getD i 0)
  | none => if v.bzero r k then 0 else v.blvRes r k

/-- value_x(t, r, k) divided by 2^E_t (R83, R132). -/
def View.value (v : View) (r k : Nat) : Int :=
  let (a, x) := v.ov r k
  a * (2 ^ x.toNat : Nat)

/-- Whether every record of row r that positions from a to b - 1 read is valid (R498). -/
def View.recsOk (v : View) (o : OutlHdr) (r a b : Nat) : Bool :=
  v.ocap.isNone || ((List.range (ceilDiv (min b v.k) 256)).drop (a / 256)).all fun cg =>
    (v.grec r cg).valid o v.k cg

/-- A cell's accumulator, and whether a partial disagreed with its residue at a promotion (R54, R55). -/
structure Cell where
  acc : Accum
  bad : Bool
  deriving DecidableEq, Repr

/-- Saturating promotion of a partial by 2^p (R44, R47) with the residue beside it: the partial is checked against its
residue `rp`, the accumulator's residue follows, and a limit takes its own residue (R54). -/
def promote (st : Cell) (part : Int) (rp p : Nat) : Cell :=
  let bad := st.bad || mod7 part != rp
  if st.acc.sat then { st with bad }
  else
    let (v, f) := clampTo 64 (st.acc.v + part * (2 ^ p : Nat))
    let res := if f then resOf v else BitVec.ofNat 3 ((st.acc.res.toNat + rp * (2 ^ p % 7)) % 7)
    ⟨⟨v, f, res⟩, bad⟩

/-- Numbers from a to b - 1 by step. -/
def stepRange (a b step : Nat) : List Nat := (List.range (ceilDiv (b - a) step)).map fun i => a + i * step

/-- Whether a pair runs in I16 mode (Table 1.5). -/
def pairI16 (fa fb : Nat) : Bool := fa = 2 || fb = 2

/-- Whether a pair of formats is one of Table 1.5. -/
def pairOk (fa fb : Nat) : Bool :=
  (fa ≤ 1 && fb ≤ 1) || (fa = 2 && (fb = 1 || fb = 2)) || (fb = 2 && fa = 1)

/-- One promotion interval of tile_element_x from b0 up to e (R41 to R44). -/
def interval (a b : View) (i j b0 e : Nat) (st : Cell) : Cell :=
  if a.bzero i b0 || b.bzero j b0 then st
  else
    let ks := stepRange b0 e 1
    promote st (ks.foldl (fun s k => s + a.blv i k * b.blv j k) (0 : Int))
      (ks.foldl (fun s k => (s + a.blvRes i k * b.blvRes j k) % 7) 0) (a.bx i b0 + b.bx j b0).toNat

/-- The slot terms of one group (R84). -/
def slotTerms (a b : View) (i j g0 gend : Nat) (st : Cell) : Cell :=
  (stepRange g0 gend 1).foldl (fun st k =>
    if (a.slot i k).isSome || (b.slot j k).isSome then
      let (x, ex) := a.ov i k
      let (y, ey) := b.ov j k
      if x != 0 && y != 0 then promote st (x * y) (a.ovRes i k * b.ovRes j k % 7) (ex + ey).toNat else st
    else st) st

/-- An integer that enters an accumulator, with its residue (R45, R54). -/
def accOf (v : Int) : Accum := ⟨v, false, resOf v⟩

/-- tile_element and tile_element_x (R56, R84) from a bank's preload: accumulator, saturation flag and residue. -/
def tileElement (a b : View) (i j k0 kk : Nat) (preload : Accum) : Cell :=
  let step := if pairI16 a.fmt b.fmt then 16 else 32
  let e := k0 + kk
  if a.ocap.isSome || b.ocap.isSome then
    (stepRange k0 e 256).foldl (fun st g0 =>
      let gend := min (g0 + 256) e
      let st := (stepRange g0 gend step).foldl (fun st b0 => interval a b i j b0 (min (b0 + step) gend) st) st
      slotTerms a b i j g0 gend st) ⟨preload, false⟩
  else
    (stepRange k0 e step).foldl (fun st b0 => interval a b i j b0 (min (b0 + step) e) st) ⟨preload, false⟩

/-- The view of an operand through the tables of its lanes (R98): lane i holds the table of row r0 + i. -/
def View.withTabs (v : View) (r0 : Nat) (lanes : List LevTab) (esc : LevTab) : View :=
  { v with levels := fun r => lanes.getD (r - r0) [], escLevels := esc }

/-! ### The requantiser -/

/-- An element entering a requantiser: row, position, value, exponent, flag. -/
structure Elt where
  row : Nat
  col : Nat
  x : Int
  ex : Int
  flag : Bool
  deriving DecidableEq, Repr

/-- What a requantising operation works with: its control block, output header, outlier header and levels. -/
structure RqCtx where
  q : Rqcb
  h : Hdr
  o : Option OutlHdr
  levels : Nat → LevTab
  escLevels : LevTab

/-- Levels a codebook of a format uses. -/
def usedLevels (fmt : Nat) (ls : LevTab) : List Int :=
  (ls.take (if fmt = 0 then 16 else 256)).map fun w => sx 16 w.1.toNat

/-- u(e) of an element: rounding on the shift onto E_t + e (R65, R66, R67). -/
def RqCtx.u (c : RqCtx) (t : Elt) (e : Int) : Int :=
  rshift c.q.rmode (noiseKey c.q.nseed c.h.tid (t.row * c.h.k + t.col) c.q.step) t.x (c.h.et + e - t.ex)

/-- An element fits when its rounded value lies between the extreme levels (R69). -/
def fits (lv : List Int) (u : Int) : Bool := lv.headD 0 ≤ u && u ≤ lv.getLastD 0

/-- Code of the nearest level, the smaller magnitude winning a tie (R70). -/
def nearest (lv : List Int) (u : Int) : Nat :=
  (lv.zipIdx.foldl (fun (b : Nat × Int) p =>
    let d := (p.1 - u).natAbs
    let e := (b.2 - u).natAbs
    if d < e || (d = e && p.1.natAbs < b.2.natAbs) then (p.2, p.1) else b) (0, lv.headD 0)).1

/-- Code of level 0. -/
def zeroCode (lv : List Int) : Nat := (lv.idxOf? 0).getD 0

/-- A coded block: exponent nibble, codes in position order, saturated elements as positions, whether it saturated. -/
structure CBlk where
  e : Nat
  codes : List Nat
  sat : List Nat
  bsat : Bool
  deriving DecidableEq, Repr

/-- Smallest block exponent in 0 to C at which every body element fits (R69). -/
def RqCtx.blockExp (c : RqCtx) (lv : List Int) (cap : Nat) (body : List Elt) : Option Nat :=
  (List.range (cap + 1)).find? fun e => body.all fun t => fits lv (c.u t (e : Nat))

/-- Coding of one block (R69 to R73). `els` are its elements in position order; those for which `body` is false take
the code of level 0. `keep` holds for a block with a slot, which is never a zero block (R80). -/
def RqCtx.block (c : RqCtx) (lv : List Int) (cap : Nat) (els : List Elt) (body : Elt → Bool) (keep : Bool) : CBlk :=
  let bs := els.filter body
  match c.blockExp lv cap bs with
  | some e =>
    let codes := els.map fun t => if body t then nearest lv (c.u t (e : Nat)) else zeroCode lv
    if codes.all (fun k => lv.getD k 0 = 0) then
      (if keep then ⟨0, codes, [], false⟩ else ⟨15, els.map fun _ => 0, [], false⟩)
    else ⟨e, codes, [], false⟩
  | none =>
    let codes := els.map fun t =>
      let u := c.u t (cap : Nat)
      if !body t then zeroCode lv
      else if u < lv.headD 0 then 0 else if u > lv.getLastD 0 then lv.length - 1 else nearest lv u
    let sat := (bs.filter fun t => !fits lv (c.u t (cap : Nat))).map (·.col)
    if !keep && codes.all (fun k => lv.getD k 0 = 0) then ⟨15, els.map fun _ => 0, sat, true⟩ else ⟨cap, codes, sat, true⟩

/-- Coding at a fixed exponent with clamping (R82); without a slot, levels that are all 0 make a zero block (R71). -/
def RqCtx.blockAt (c : RqCtx) (lv : List Int) (e : Nat) (els : List Elt) (body : Elt → Bool) : CBlk :=
  let codes := els.map fun t =>
    let u := c.u t (e : Nat)
    if !body t then zeroCode lv
    else if u < lv.headD 0 then 0 else if u > lv.getLastD 0 then lv.length - 1 else nearest lv u
  if els.all body && codes.all (fun k => lv.getD k 0 = 0) then ⟨15, els.map fun _ => 0, [], false⟩ else ⟨e, codes, [], false⟩

/-- Counts of a requantising operation (R86 to R91): step maximum, elements, saturated elements, saturated blocks and
groups, escaped groups, slots. -/
structure Counts where
  mx : Option Int
  elems : Nat
  sat : Nat
  satBlk : Nat
  satGrp : Nat
  escGrp : Nat
  slots : Nat
  deriving DecidableEq, Repr

def Counts.zero : Counts := ⟨none, 0, 0, 0, 0, 0, 0⟩

def maxOpt : Option Int → Option Int → Option Int
  | none, b => b
  | a, none => a
  | some a, some b => some (max a b)

def Counts.add (a b : Counts) : Counts :=
  ⟨maxOpt a.mx b.mx, a.elems + b.elems, a.sat + b.sat, a.satBlk + b.satBlk, a.satGrp + b.satGrp,
    a.escGrp + b.escGrp, a.slots + b.slots⟩

/-- Writes of a requantised unit: byte runs, and exponent nibbles (byte address, high half, value). -/
structure RqOut where
  runs : List (Nat × List Byte)
  nibs : List (Nat × Bool × Nat)
  cnt : Counts
  deriving Repr

def RqOut.add (a b : RqOut) : RqOut := ⟨a.runs ++ b.runs, a.nibs ++ b.nibs, a.cnt.add b.cnt⟩

/-- Top bit of a value (R90). -/
def topBit (t : Elt) : Option Int := if t.x = 0 then none else some ((flog2 t.x.natAbs : Nat) + t.ex)

/-- Pack 4-bit codes two per byte, the lower position in the low half (R29). -/
def packNibs : List Nat → List Byte
  | [] => []
  | [a] => [BitVec.ofNat 8 a]
  | a :: b :: t => BitVec.ofNat 8 (a + 16 * b) :: packNibs t

/-- Codes of a block as stored, padded with zero codes to 32 (R31). -/
def codeBytes (fmt : Nat) (codes : List Nat) : List Byte :=
  let cs := codes ++ List.replicate (32 - codes.length) 0
  if fmt = 0 then packNibs cs else cs.map (BitVec.ofNat 8)

/-- Where a block of the output lies: its codes and its nibble. -/
def RqCtx.putBlock (c : RqCtx) (row blk : Nat) (b : CBlk) : RqOut :=
  ⟨[(c.h.codes + row * c.h.cstride + blk * blkBytes c.h.fmt, codeBytes c.h.fmt b.codes)],
   [(c.h.exps + row * c.h.estride + blk / 2, blk % 2 = 1, b.e)], Counts.zero⟩

/-- The elements of block `blk` among a list in position order. -/
def inBlk (els : List Elt) (blk : Nat) : List Elt := els.filter fun t => t.col / 32 = blk

/-- Blocks that a list of elements in position order touches. -/
def blksOf (els : List Elt) : List Nat := (els.map fun t => t.col / 32).eraseDups

/-- Rotation of one aligned run (R74, R75): values at the run's smallest exponent. -/
def RqCtx.rotRun (c : RqCtx) (els : List Elt) : List Elt :=
  let n := c.q.rotN
  let ex := els.foldl (fun m t => min m t.ex) ((els.head?.map (·.ex)).getD 0)
  let xs : List Int := els.map fun t => t.x * ((2 ^ (t.ex - ex).toNat : Nat) : Int)
  let f := els.any (·.flag)
  List.zipWith (fun t y => { t with x := y, ex := ex - (flog2 n / 2 : Nat), flag := f }) els
    (rotate c.q.rseed xs)

/-- Stage 2 of R65 on the elements of a row in position order. -/
def RqCtx.rotateAll (c : RqCtx) (els : List Elt) : List Elt :=
  if c.q.rot = 0 then els
  else
    let n := c.q.rotN
    ((els.map fun t => (t.row, t.col / n)).eraseDups).flatMap fun g =>
      c.rotRun (els.filter fun t => (t.row, t.col / n) = g)

/-- A row's unit without outlier structures: integer output (R68) or blocks (R69 to R73). -/
def RqCtx.plain (c : RqCtx) (els : List Elt) : RqOut :=
  let mx := els.foldl (fun m t => maxOpt m (topBit t)) none
  if !c.h.isQ then
    let n := 8 * intBytes c.h.fmt
    let out := els.map fun t => (t, clampTo n (c.u t 0))
    ⟨out.map fun p => (c.h.codes + p.1.row * c.h.cstride + p.1.col * intBytes c.h.fmt,
        natLe (intBytes c.h.fmt) (trunc n p.2.1)), [],
      { Counts.zero with mx, elems := els.length, sat := (out.filter fun p => p.2.2 || p.1.flag).length }⟩
  else
    let row := (els.head?.map (·.row)).getD 0
    let lv := usedLevels c.h.fmt (c.levels row)
    let base : RqOut := ⟨[], [], { Counts.zero with mx, elems := els.length }⟩
    (blksOf els).foldl (fun a blk =>
      let es := inBlk els blk
      let b := c.block lv 14 es (fun _ => true) false
      let o := c.putBlock row blk b
      a.add { o with cnt := { Counts.zero with
        sat := (es.filter fun t => t.flag || b.sat.contains t.col).length, satBlk := if b.bsat then 1 else 0 } }) base

/-- Magnitude order of R90 within a group: |x| * 2^ex on a common grid. -/
def magAt (m : Int) (t : Elt) : Nat := t.x.natAbs * 2 ^ (t.ex - m).toNat

/-- Top bit of the fifth-largest magnitude of a group (R90). -/
def fifthTop (els : List Elt) : Option Int :=
  let nz := els.filter fun t => t.x != 0
  let m := nz.foldl (fun m t => min m t.ex) ((nz.head?.map (·.ex)).getD 0)
  let s := sortBy (fun a b => magAt m a ≥ magAt m b) nz
  (s[4]?).bind topBit

/-- One group of a row with outlier structures (R79 to R82). `esc` is the next free entry of the bucket, if one is
left. Answers the writes and whether the entry was used. -/
def RqCtx.group (c : RqCtx) (o : OutlHdr) (row cg : Nat) (els : List Elt) (esc : Option Nat) : RqOut × Bool :=
  let lv := usedLevels c.h.fmt (c.levels row)
  let outs := els.filter fun t => !fits lv (c.u t (o.ocap : Nat))
  let isOut := fun (t : Elt) => outs.contains t
  let recAt := o.gtab + 16 * (row * c.h.gpr + cg)
  let cnt0 := { Counts.zero with mx := fifthTop els, elems := els.length }
  let slotVal := fun (t : Elt) => clampTo 16 (c.u t (o.ocap : Nat))
  let pad := fun (n : Nat) => List.replicate (4 - n) 0
  if outs.length ≤ 4 then
    let r : GRec := ⟨outs.map (·.col % 256) ++ pad outs.length,
      outs.map (fun t => (slotVal t).1) ++ List.replicate (4 - outs.length) 0, outs.length, false, 0, false, true⟩
    let sat := (els.filter fun t => t.flag || (isOut t && (slotVal t).2)).length
    let base : RqOut := ⟨[(recAt, grecBytes r)], [], { cnt0 with sat, slots := outs.length }⟩
    ((blksOf els).foldl (fun a blk =>
      let es := inBlk els blk
      a.add (c.putBlock row blk (c.block lv o.ocap es (fun t => !isOut t) (es.any isOut)))) base, false)
  else match esc with
  | some ix =>
    let ev := usedLevels 1 c.escLevels
    let bl := (blksOf els).map fun blk => (blk, c.block ev 14 (inBlk els blk) (fun _ => true) false)
    let codes := bl.flatMap fun p => p.2.codes ++ List.replicate (32 - p.2.codes.length) 0
    let exps := bl.map fun p => p.2.e
    let at_ := o.pool + 272 * (((row / 32) * c.h.gpr + cg) * o.epb + ix)
    let ent := (codes ++ List.replicate (256 - codes.length) 0).map (BitVec.ofNat 8)
      ++ packNibs (exps ++ List.replicate (8 - exps.length) 15) ++ natLe 4 row ++ natLe 4 cg ++ natLe 4 0
    let r : GRec := ⟨[0, 0, 0, 0], [0, 0, 0, 0], 0, true, ix, false, true⟩
    let clamped := bl.flatMap fun p => p.2.sat
    let sat := (els.filter fun t => t.flag || clamped.contains t.col).length
    let base : RqOut := ⟨[(recAt, grecBytes r), (at_, ent)], [],
      { cnt0 with sat, escGrp := 1, satBlk := (bl.filter fun p => p.2.bsat).length }⟩
    ((blksOf els).foldl (fun a blk =>
      a.add (c.putBlock row blk ⟨15, (inBlk els blk).map fun _ => 0, [], false⟩)) base, true)
  | none =>
    let byMag := sortBy (fun a b =>
      let x := (c.u a (o.ocap : Nat)).natAbs
      let y := (c.u b (o.ocap : Nat)).natAbs
      x > y || (x = y && a.col ≤ b.col)) outs
    let top := byMag.take 4
    let inSlot := fun (t : Elt) => top.contains t
    let sl := els.filter inSlot
    let r : GRec := ⟨sl.map (·.col % 256), sl.map (fun t => (slotVal t).1), 4, false, 0, true, true⟩
    let sat := (els.filter fun t => t.flag || (isOut t && !inSlot t) || (inSlot t && (slotVal t).2)).length
    let base : RqOut := ⟨[(recAt, grecBytes r)], [], { cnt0 with sat, slots := 4, satGrp := 1 }⟩
    ((blksOf els).foldl (fun a blk =>
      let es := inBlk els blk
      let b := if es.any fun t => isOut t && !inSlot t then c.blockAt lv o.ocap es (fun t => !inSlot t)
        else c.block lv o.ocap es (fun t => !inSlot t) (es.any inSlot)
      a.add (c.putBlock row blk b)) base, false)

/-- A bucket: its rows in ascending order, taking pool entries in that order (R81). -/
def RqCtx.bucket (c : RqCtx) (o : OutlHdr) (cg : Nat) (els : List Elt) : RqOut :=
  (((els.map (·.row)).eraseDups).foldl (fun (a : RqOut × Nat) row =>
    let es := els.filter fun t => t.row = row
    let (r, used) := c.group o row cg es (if a.2 < o.epb then some a.2 else none)
    (a.1.add r, if used then a.2 + 1 else a.2)) (⟨[], [], Counts.zero⟩, 0)).1

/-- One complete unit through the stages of R65: `els` in row order and within a row in position order. -/
def RqCtx.run (c : RqCtx) (els : List Elt) : RqOut :=
  let rs := c.rotateAll els
  match c.o with
  | none => c.plain rs
  | some o => c.bucket o ((rs.head?.map fun t => t.col / 256).getD 0) rs

end Sys2Proof.Machine
end

