-- ==== Sys2Proof/Machine/Tensor.lean ====
section
/-!
DEFINITION. Tensors and panels where they lie: the views through which tiles and engines read slots (R180 to R182) and
memory (R28 to R31), the checks of tensor headers, control blocks and codebooks that need the state (R8, R33, R37, R63),
and the structures a descriptor names, read with verification (R201).
-/

namespace Sys2Proof.Machine

/-! ### Structures in memory -/

/-- 64 bytes at an address as they stand. -/
def State.peek64 (s : State) (a : Nat) : Block64 := blockOf (s.mem.bytes a 64)
def State.hdrAt (s : State) (a : Nat) : Hdr := hdrOf (s.peek64 a)

/-- The outlier header of a tensor, if it has outlier structures. -/
def State.outlAt (s : State) (h : Hdr) : Option OutlHdr := if h.outl = 0 then none else some (outlOf (s.peek64 h.outl))

/-- Codebook slots of a row (R38). -/
def Hdr.slotOf (h : Hdr) (r : Nat) : Nat := h.cbslot + min (r / 2 ^ h.gshift) h.ncb

/-- Whether a tensor header is well formed in the present map (R8, R33, and Table 2.3 for its outlier header). -/
def State.hdrOk (s : State) (h : Hdr) : Bool :=
  h.formOk && (h.outl = 0 || s.dataOk h.outl 64) &&
    (let o := s.outlAt h
     (match o with | some o => o.ok | none => true) && (h.ranges o).all fun r => s.dataOk r.1 r.2)

def cbStOf (fmt : Nat) : CbState := if fmt = 0 then .q4 else .q8

/-- Codebook check of R37 on slots a to a + n of die d's copy: 0x10, 0x21 or 0. -/
def State.cbCheck (s : State) (d a n : Nat) (fmt gen : Nat) : Nat :=
  let sl := (List.range (n + 1)).map fun i => s.slot d (a + i)
  if sl.any fun x => x.st != cbStOf fmt then 0x10
  else if sl.any fun x => x.gen.toNat != gen then 0x21 else 0

/-- Codebook checks of a header and of its escape codebook (R37, R63): the status of the first failure in R13's order. -/
def State.hdrCb (s : State) (d : Nat) (h : Hdr) : Nat :=
  let a := if h.isQ then s.cbCheck d h.cbslot h.ncb h.fmt h.cbgen else 0
  let b := match s.outlAt h with
    | some o => s.cbCheck d o.esccb 0 1 o.escgen
    | none => 0
  if a = 0x10 || b = 0x10 then 0x10 else if a != 0 then a else b

/-- Read of structures by a consumer with verification (R201): the status of the first failure. -/
def State.fetch (s : State) (who : Client) (tag : Nat) (rs : List (Nat × Nat)) (errs : Errs) : Nat × State :=
  let (r, _, s) := s.readAll who tag (rs.filter fun p => s.present p.1 p.2) errs
  (r, s)

/-! ### Panels (R180) -/

/-- Sizes of a panel: bytes of a code row, of an exponent row, groups of a row, and where its parts start. -/
structure Panel where
  cb : Nat
  eb : Nat
  ng : Nat
  exps : Nat
  recs : Nat
  esc : Nat
  size : Nat
  deriving DecidableEq, Repr

def panelOf (h : Hdr) (o : Option OutlHdr) (nrows klen : Nat) : Panel :=
  let nb := ceilDiv klen 32
  let cb := if h.isQ then blkBytes h.fmt * nb else roundUp 16 (intBytes h.fmt * klen)
  let eb := if h.isQ then 8 * ceilDiv nb 16 else 0
  let ng := ceilDiv klen 256
  let exps := nrows * cb
  let recs := exps + nrows * eb
  match o with
  | none => ⟨cb, eb, ng, exps, recs, recs, recs⟩
  | some o =>
    let esc := recs + nrows * ng * 16
    ⟨cb, eb, ng, exps, recs, esc, esc + o.epb * ng * ceilDiv nrows 32 * 272⟩

/-- Slots a panel or raw rows occupy. -/
def slotsOf (size : Nat) : Nat := ceilDiv size 8192

/-- Byte range of a run of slots of local memory t in the scoreboard's space (R183). -/
def slotRange (t slot n : Nat) : Nat × Nat := (2 ^ 48 + t * 2 ^ 24 + slot * 8192, n * 8192)

/-- Slots of a binding. R181 gives a binding no count: it follows from the sizes of R180 under the tensor's header as memory
holds it now. DESIGN CHOICE (log 73). -/
def State.bindSlots (s : State) (b : Binding) : Nat :=
  let h := s.hdrAt b.hdr
  slotsOf (panelOf h (s.outlAt h) b.nrows b.klen).size

/-- Whether a binding holds rows [r, r + n) of a header's tensor over positions [k0, k1) (R182). -/
def Binding.covers (b : Binding) (hdr r n k0 k1 : Nat) : Bool :=
  b.hdr = hdr && b.row0 ≤ r && r + n ≤ b.row0 + b.nrows && (k1 ≤ k0 || (b.k0 ≤ k0 && k1 ≤ b.k0 + b.klen))

/-- Levels of each row of a tensor, and of its escape codebook, in die d's copies of the slots (R34). -/
def State.levelsOf (s : State) (d : Nat) (h : Hdr) (r : Nat) : LevTab := (s.slot d (h.slotOf r)).table
def State.escLevelsOf (s : State) (d : Nat) (o : Option OutlHdr) : LevTab :=
  match o with | some o => (s.slot d o.esccb).table | none => []

/-- A tensor as its header and outlier header in memory describe it. -/
def State.tensOf (s : State) (h : Hdr) : Tens := ⟨h, s.outlAt h⟩
def State.tensAt (s : State) (a : Nat) : Tens := s.tensOf (s.hdrAt a)

/-- Nibble number i of a byte. -/
def nib (b : Nat) (hi : Bool) : Nat := if hi then b / 16 else b % 16

/-- A tensor as it reads through a binding in local memory m of a cluster of die d (R180). -/
def State.panelView (s : State) (d : Nat) (m : Mem) (b : Binding) (t : Tens) : View :=
  let h := t.h
  let o := t.o
  let p := panelOf h o b.nrows b.klen
  let w := Mem.slice m (b.slot * 8192) p.size
  let at_ := fun (i n : Nat) => leNat (Mem.bytes w (b.slot * 8192 + i) n)
  let epb := match o with | some o => o.epb | none => 0
  let grec := fun (r cg : Nat) =>
    grecOf (Mem.bytes w (b.slot * 8192 + p.recs + 16 * ((r - b.row0) * p.ng + (cg - b.k0 / 256))) 16)
  let ent := fun (r cg : Nat) =>
    p.esc + 272 * ((((r - b.row0) / 32) * p.ng + (cg - b.k0 / 256)) * epb + (grec r cg).escidx)
  { fmt := h.fmt, et := h.et, k := h.k, ocap := o.map (·.ocap)
    levels := s.levelsOf d h, escLevels := s.escLevelsOf d o
    code := fun r k =>
      let i := r - b.row0
      let j := k - b.k0
      if h.fmt = 0 then nib (at_ (i * p.cb + j / 2) 1) (j % 2 = 1)
      else if h.fmt = 1 then at_ (i * p.cb + j) 1
      else at_ (i * p.cb + intBytes h.fmt * j) (intBytes h.fmt)
    exp := fun r blk =>
      let j := blk - b.k0 / 32
      nib (at_ (p.exps + (r - b.row0) * p.eb + j / 2) 1) (j % 2 = 1)
    grec := grec
    escCode := fun r k => at_ (ent r (k / 256) + k % 256) 1
    escExp := fun r blk => nib (at_ (ent r (blk / 8) + 256 + blk % 8 / 2) 1) (blk % 2 = 1) }

/-- A tensor as it reads from memory (R28 to R31, R76 to R78), through die d's codebooks. -/
def State.memView (s : State) (d : Nat) (h : Hdr) : View :=
  let o := s.outlAt h
  let at_ := fun (a n : Nat) => leNat (s.mem.bytes a n)
  let gtab := match o with | some o => o.gtab | none => 0
  let pool := match o with | some o => o.pool | none => 0
  let epb := match o with | some o => o.epb | none => 0
  let grec := fun (r cg : Nat) => grecOf (s.mem.bytes (gtab + 16 * (r * h.gpr + cg)) 16)
  let ent := fun (r cg : Nat) => pool + 272 * (((r / 32) * h.gpr + cg) * epb + (grec r cg).escidx)
  { fmt := h.fmt, et := h.et, k := h.k, ocap := o.map (·.ocap)
    levels := s.levelsOf d h, escLevels := s.escLevelsOf d o
    code := fun r k =>
      let a := h.codes + r * h.cstride
      if h.fmt = 0 then nib (at_ (a + k / 2) 1) (k % 2 = 1)
      else if h.fmt = 1 then at_ (a + k) 1 else at_ (a + intBytes h.fmt * k) (intBytes h.fmt)
    exp := fun r blk => nib (at_ (h.exps + r * h.estride + blk / 2) 1) (blk % 2 = 1)
    grec := grec
    escCode := fun r k => at_ (ent r (k / 256) + k % 256) 1
    escExp := fun r blk => nib (at_ (ent r (blk / 8) + 256 + blk % 8 / 2) 1) (blk % 2 = 1) }

/-! ### Requantised writes -/

/-- Context of a requantising operation of a cluster of die d from its control block and output tensor. -/
def State.rqCtx (s : State) (d : Nat) (q : Rqcb) (t : Tens) (evalPhase : Bool) : RqCtx :=
  ⟨{ q with nostat := q.nostat || evalPhase }, t.h, t.o, s.levelsOf d t.h, s.escLevelsOf d t.o⟩

/-- Write of a requantised unit: byte runs, then exponent nibbles, each a partial write of its block, and the counts of
R88 unless the operation keeps out of them. -/
def State.rqWrite (s : State) (who : Client) (c : RqCtx) (r : RqOut) (cls : Nat) (errs : Errs) : Nat × State :=
  let (st, s) := s.writeAll who r.runs cls errs
  let (st, s) := r.nibs.foldl (fun (a : Nat × State) n =>
    if a.1 != 0 then a
    else
      let old := (a.2.mem.byte n.1).toNat
      a.2.memWrite who n.1 (natLe 1 (if n.2.1 then old % 16 + 16 * n.2.2 else old / 16 * 16 + n.2.2)) cls errs) (st, s)
  if st != 0 then (st, s)
  else if c.q.nostat then (0, s)
  else
    let a := SMap.val StatAcc.reset s.stat c.h.tid
    let k := r.cnt
    let b : StatAcc := ⟨maxOpt a.mx k.mx, a.elems + k.elems, a.sat + k.sat, a.satBlk + k.satBlk,
      a.satGrp + k.satGrp, a.escGrp + k.escGrp, a.slots + k.slots⟩
    (0, { s with stat := SMap.put c.h.tid b s.stat })

/-- Saturated elements and groups of an operation by identity, with those of one more unit (R89). -/
def satNote (m : SMap (Nat × Nat)) (tid : Nat) (k : Counts) : SMap (Nat × Nat) :=
  let a := SMap.val (0, 0) m tid
  SMap.put tid (a.1 + k.sat, a.2 + k.satGrp) m

/-- Whether any element or group of an operation saturated. -/
def satAny (m : SMap (Nat × Nat)) : Bool := m.any fun p => p.2.1 + p.2.2 != 0

/-- RQ_SATURATED and RQ_POOL_FULL of an operation (R89): one of each at most for an identity. -/
def State.satEvents (s : State) (src : Src) (m : SMap (Nat × Nat)) : State :=
  m.foldl (fun s p =>
    let s := if p.2.1 = 0 then s else s.raise 0x1102 src p.1 p.2.1 0
    if p.2.2 = 0 then s else s.raise 0x1103 src p.1 p.2.2 0) s

end Sys2Proof.Machine
end

