-- ==== Sys2Proof/Machine/Sync.lean ====
section
/-!
DEFINITION. Completion records (R272, R273), the end of a work descriptor (R163), and synchronisation objects: signals,
waits, local waits and resets (R152, R164 to R168).
-/

namespace Sys2Proof.Machine

/-! ### Completion records -/

/-- The record of Table 9.3. -/
def mkRec (tag status pass dgen kind cluster unit seq off cnt : Nat) : Block16 :=
  BitVec.ofNat 128 (tag % 2 ^ 16 + status * 2 ^ 16 + pass * 2 ^ 24 + (dgen % 2 ^ 16) * 2 ^ 32
    + (cluster % 2 ^ 7 + (unit % 2 ^ 6) * 2 ^ 7 + kind * 2 ^ 13) * 2 ^ 48 + (seq % 2 ^ 32) * 2 ^ 64
    + off * 2 ^ 96 + (cnt % 2 ^ 24) * 2 ^ 104)

/-- A record in the completion queue of a control core (Table 5.2). With all 256 unconsumed, which only the record of a
rejected descriptor can meet, it overwrites the next entry. DESIGN CHOICE (log 66): R154 does not say. -/
def Cl.pushRec (x : Cl) (mk : Nat → Block16) : Cl :=
  let pass := if x.cqProd = 255 then !x.cqPass else x.cqPass
  let r := mk (if x.cqPass then 1 else 0)
  { x with cq := SMap.put x.cqProd.toNat r x.cq, cqProd := x.cqProd + 1, cqPass := pass,
           cqUsed := min (x.cqUsed + 1) 256 }

/-- DPA of a ring's table entry. -/
def State.ringEntryAt (s : State) (r : Nat) : Nat := s.rd R.updRingtab + 64 * r

/-- The bytes of a ring's entry that the device writes (Table 9.2, bytes 32 to 47). -/
def State.ringStore (s : State) (r : Nat) : State :=
  let x := s.ring r
  let st := match x.st with | .idle => 0 | .active => 1 | .error => 2
  let bs := natLe 4 x.cons.toNat ++ natLe 4 x.cqProd.toNat ++ natLe 1 st ++ natLe 7 0
  { s with mem := s.mem.write (s.ringEntryAt r + 32) bs }

/-- Whether a ring has nothing left to fetch and no entry in flight: it is then idle (R268). -/
def Ring.settle (x : Ring) : Ring :=
  if x.st = .active && x.cons = x.prod && x.reserved = 0 then { x with st := .idle } else x

/-- A completion record on a ring's queue (R273), using the record reserved for its entry. -/
def State.ringRec (s : State) (r : Nat) (mk : Nat → Block16) : State :=
  let x := s.ring r
  let lg := fld x.entry 136 5
  let k := x.cqProd.toNat
  let at_ := fld x.entry 64 48 + 16 * (k % 2 ^ lg)
  let pass := (k / 2 ^ lg + 1) % 2
  let s := { s with mem := s.mem.write at_ (natLe 16 (mk pass).toNat) }
  (s.setRing r { x with cqProd := x.cqProd + 1, reserved := x.reserved - 1 }.settle).ringStore r

/-- A reserved record that is not needed is released (R273). -/
def State.ringRelease (s : State) (r : Nat) : State :=
  let x := s.ring r
  (s.setRing r { x with reserved := x.reserved - 1 }.settle).ringStore r

/-! ### Collectives and steward commands -/

def State.eng (s : State) (d : Nat) : CollEng := SMap.val CollEng.reset s.lnk.eng d
def State.setEng (s : State) (d : Nat) (e : CollEng) : State :=
  { s with lnk := { s.lnk with eng := SMap.put d e s.lnk.eng } }
def State.onEng (s : State) (d : Nat) (f : CollEng → CollEng) : State := s.setEng d (f (s.eng d))
def State.coll (s : State) (d k : Nat) : Option CollJob := (s.eng d).jobs.find? fun j => j.k = k
def State.onColl (s : State) (d k : Nat) (f : CollJob → CollJob) : State :=
  s.onEng d fun e => { e with jobs := e.jobs.map fun j => if j.k = k then f j else j }

/-- A collective reaches its engine (R321). -/
def State.collAdd (s : State) (d : Nat) (cmd : Block64) (ring : Option (Nat × BitVec 32)) (seq : Option (Nat × Nat))
    (ord : Nat) (cbs : Ranges) : State :=
  s.onEng d fun e =>
    { e with jobs := e.jobs ++ [⟨e.nextJob, cmd, ring, seq, ord, cbs, .queued, s.ticks, [], [], [], 0, 0, 0, false⟩],
             nextJob := e.nextJob + 1 }

/-- Generation of a group (Table 10.9). -/
def State.cgenOf (s : State) (g : Nat) : Nat := leNat (s.mem.bytes (s.rd R.lnkGtbase + 64 * g + 4) 2)

/-- The record of a collective from a ring (kind 2), or the release of its entry (R163). -/
def State.collRecord (s : State) (d : Nat) (j : CollJob) (status : Nat) : State :=
  let h := whdrOf j.cmd
  match j.ring with
  | none => s
  | some (r, cons) =>
    if h.crec || status != 0 then
      s.ringRec r fun pass => mkRec h.tag status pass h.dgen 2 0 d cons.toNat j.off.toNat j.cnt.toNat
    else s.ringRelease r

/-- A collective leaves its engine with a status. One that completed marks its sequence number (R330); one that did not
keeps what it has received (R331). One from a cluster queue has done its descriptor's work. -/
def State.collDrop (s : State) (d : Nat) (j : CollJob) (status : Nat) : State :=
  let g := fld j.cmd 264 8
  let q := fld j.cmd 320 32
  let grp := fld j.cmd 0 8 < 0x44
  let s := s.onEng d fun e =>
    { e with jobs := e.jobs.filter (fun x => x.k != j.k),
             done := if status ≤ 1 && grp then (g, s.cgenOf g, q) :: e.done else e.done }
  let s := if status ≤ 1 && grp then
      (let eng := s.lnk.eng.map fun (p : Nat × CollEng) =>
        (p.1, { p.2 with got := p.2.got.filter fun m => !(m.1 ≤ 6 && m.2.group.toNat = g && m.2.cseq.toNat = q) })
       { s with lnk := { s.lnk with eng } })
    else s
  match j.seq with
  | some (c, n) => s.onJob c n fun x =>
      { x with ph := .worked, status := if status = 1 then 0 else BitVec.ofNat 8 status, ev := x.ev || status = 1,
               off := j.off, cnt := j.cnt }
  | none => s

/-- The record of a steward command (kinds 1 and 3), or the release of its entry. -/
def State.stwRecord (s : State) (j : StwJob) (status : Nat) : State :=
  let h := whdrOf j.cmd
  let kind := if h.opc = 0x88 || h.opc = 0x89 then 1 else 3
  if h.crec || status != 0 then
    s.ringRec j.ring fun pass => mkRec h.tag status pass h.dgen kind 0 (if kind = 1 then j.eng else 0) j.cons.toNat
      j.off.toNat j.cnt.toNat
  else s.ringRelease j.ring

/-- A steward command leaves the unit with a status. -/
def State.stwDrop (s : State) (j : StwJob) (status : Nat) : State :=
  { s with stw := { s.stw with jobs := s.stw.jobs.filter fun x => x.k != j.k } }.stwRecord j status

/-- The record, or the release of the reserved entry, of a descriptor of cluster c that ends with a status (R163 step 3,
R270: ring entries complete to their ring). -/
def State.recordJob (s : State) (c : Nat) (j : Job) (status off : Nat) : State :=
  let h := whdrOf j.desc
  let mk := fun pass => mkRec h.tag status pass h.dgen 0 c 0 j.n off j.cnt.toNat
  if h.crec || status != 0 then
    match j.ring with
    | some (r, _) => s.ringRec r mk
    | none => s.onClus c fun x => x.pushRec mk
  else
    match j.ring with
    | some (r, _) => s.ringRelease r
    | none => s

/-- What a descriptor that ends leaves in the cluster's units: its passes, drained values and place in the engines go
with it. -/
def Cl.dropWork (x : Cl) (n : Nat) : Cl :=
  let fixBank := fun (b : Bank) => match b with
    | .free => .free
    | .pre p i => if p.n = n then .free else .pre p i
    | .active p v => if p.n = n then .free else .active p v
    | .closed p v => if p.n = n then .free else .closed p v
  { x with
    tile := x.tile.map fun p => (p.1, { p.2 with
      waiting := p.2.waiting.filter fun q => q.n != n
      bank := p.2.bank.map fixBank
      narrow := match p.2.narrow with
        | some (q, v) => if q.n = n then none else some (q, v)
        | none => none })
    rq := x.rq.filter fun r => r.n != n
    ve := x.ve.map fun p => (p.1, { p.2 with
      run := match p.2.run with
        | some r => if r.n = n then none else some r
        | none => none
      cmp := match p.2.cmp with
        | some r => if r.n = n then none else some r
        | none => none
      drain := p.2.drain.filter fun d => d.1 != n }) }

/-- The end of a descriptor with a status: it leaves its queue or the set in flight, and its record is written or its
entry released (R163). The end of a datapath descriptor starts the cluster's idle time anew (R367). -/
def State.endJob (s : State) (c : Nat) (j : Job) (status off : Nat) : State :=
  let s := s.onClus c fun x =>
    { (x.dropWork j.n) with flight := x.flight.filter (fun k => k.n != j.n),
                            queue := x.queue.map (fun l => l.filter fun k => k.n != j.n),
                            idleAt := if isDatapath (fld j.desc 0 8) then s.ticks else x.idleAt }
  s.recordJob c j status off

/-! ### The head of a queue -/

/-- Whether a tile belongs to a dispatched tile operation whose passes have not been given to its tiles yet. -/
def Cl.taken (x : Cl) (t : Nat) : Bool :=
  x.flight.any fun j => isTileOp (fld j.desc 0 8) && j.ph = .run && (fld j.desc 256 32).testBit t

/-- Tiles of a cluster that are not idle, or that a dispatched operation will use (R106, R175). -/
def Cl.busyTiles (x : Cl) : List Nat :=
  (List.range 32).filter fun t =>
    let y := x.tileAt t
    y.act != .gated || !y.waiting.isEmpty || x.taken t

/-- Tiles that would be non-idle with a mask's tiles added. -/
def Cl.needTiles (x : Cl) (mask : Nat) : Nat := (x.busyTiles ++ maskTiles mask).eraseDups.length

/-- A declaration (R174): a lower one lowers the earlier ones at once. -/
def Cl.declare (x : Cl) (n : Nat) : Cl :=
  { x with decls := (x.decls.map fun d => { d with tiles := min d.tiles n }) ++ [⟨n, none, false⟩] }

/-- What follows when descriptors stand at the heads of queues: the load-step notice of a tile operation, a fresh one
once its wait is met or for passes already given to tiles (R173), when it reaches the head a declaration of 32 tiles where
none covers it (R175), and the request for Dawn (R368). -/
def State.heads (s : State) (c : Nat) : State :=
  let x := s.clus c
  let hs := (List.finRange 8).filterMap fun q => (x.qAt q).head?
  let x := hs.foldl (fun x j =>
    let opc := fld j.desc 0 8
    let x := if isDatapath opc && x.region = .twilight && x.dawnReq.isNone && x.dawnAt.isNone then
      { x with dawnReq := some s.ticks } else x
    if !isTileOp opc then x
    else
      let x := if x.notice.isNone && (!j.noticed || j.met.isSome) then
        { x with notice := some ⟨0, !x.busyTiles.isEmpty, false⟩ } else x
      let x := x.onJob j.n fun k => { k with noticed := true }
      let need := x.needTiles (fld j.desc 256 32)
      if !j.noticed && x.decls.all fun d => d.tiles < need then x.declare 32 else x) x
  let given := x.tile.any fun p => !p.2.waiting.isEmpty
  s.setClus c (if given && x.notice.isNone then { x with notice := some ⟨0, false, false⟩ } else x)

/-! ### Local waits (R152) -/

/-- A stale signal, or a stale wait of another unit than a sequencer, counts at its object's home die (R23, R167). -/
def State.countStale (s : State) (o : Nat) : State := s.flag (R.synStat (o / 4096)) 0 (R.synStalecnt (o / 4096)) 1

/-- The armed local wait of a cluster looks at its object. -/
def State.localWait (s : State) (c : Nat) : State :=
  let x := s.clus c
  if !x.arm then s
  else
    let o := s.obj x.swObj.toNat
    if o.gen != x.swGen then (s.setClus c { x with arm := false, swStale := true }).countStale x.swObj.toNat
    else if o.count.toNat ≥ x.swThr.toNat then s.setClus c { x with arm := false, met := true }
    else s

/-- Every cluster whose armed wait names object o looks at it. -/
def State.localWaits (s : State) (o : Nat) : State :=
  (s.cl.map (·.1)).foldl (fun s c =>
    if (s.clus c).arm && (s.clus c).swObj.toNat = o then s.localWait c else s) s

/-! ### Signals -/

/-- Whether a wait is met (R164). -/
def State.waitMet (s : State) (obj gen thr : Nat) : Bool :=
  (s.obj obj).gen.toNat = gen && (s.obj obj).count.toNat ≥ thr

/-- Queued descriptors whose wait on object o is now met start their bound (R172); one at its head may need a fresh notice
(R173). -/
def State.markMet (s : State) (o : Nat) : State :=
  let f := fun (j : Job) =>
    let h := whdrOf j.desc
    if h.wen && h.wobj = o && j.met.isNone && s.waitMet h.wobj h.wgen h.wthr then { j with met := some s.ticks } else j
  let hit := s.cl.filter fun p => p.2.queue.toList.any fun l => l.any fun j => f j != j
  let s := { s with cl := s.cl.map fun p => (p.1, { p.2 with queue := p.2.queue.map fun l => l.map f }) }
  hit.foldl (fun s p => s.heads p.1) s

/-- What became of a signal at its object. -/
inductive SigOut where
  | applied | stale | aged
  deriving DecidableEq, Repr

/-- A signal arrives at its object's home die (R165, R167): discarded by age beyond 16 µs, discarded as stale, or
added, saturating. -/
def State.arrive (s : State) (obj : Nat) (gen : BitVec 16) (inc : Nat) (sent : BitVec 64) : SigOut × State :=
  let d := obj / 4096
  if (s.time.meridian - sent).toNat > 16 * merUs then
    (.aged, s.flag (R.synStat d) 1 (R.synAgedcnt d) 1)
  else
    let o := s.obj obj
    if o.gen != gen then (.stale, s.countStale obj)
    else
      let n := o.count.toNat + inc
      let s := s.setObj obj { o with count := BitVec.ofNat 32 (min n 0xFFFFFFFF) }
      let s := if n > 0xFFFFFFFF then s.flag (R.synStat d) 2 (R.synOvfcnt d) 1 else s
      (.applied, (s.localWaits obj).markMet obj)

/-- A signal leaves for its object (R164, R167). -/
def State.send (s : State) (obj : Nat) (gen : BitVec 16) (inc : Nat) (org : Origin) : State :=
  { s with sync := { s.sync with flying := s.sync.flying ++ [⟨obj, gen, inc, s.time.meridian, org⟩] } }

/-! ### Resets (R166) -/

/-- Queued descriptors, steward commands and collectives that wait on an object under another generation than its own
complete with STALE_GENERATION (R167, R168); a sequencer counts its own, the object's die those of other units. -/
def State.staleWaits (s : State) (o : Nat) : State :=
  let cur := (s.obj o).gen.toNat
  let bad := s.cl.flatMap fun p => (p.2.queue.toList.flatMap id).filterMap fun j =>
    let h := whdrOf j.desc
    if h.wen && h.wobj = o && h.wgen != cur then some (p.1, j) else none
  let s := bad.foldl (fun s p =>
    ((s.endJob p.1 p.2 0x21 0).heads p.1).flag (R.seqStat p.1) 1 (R.seqStalecnt p.1) 1) s
  let late := fun (b : Block64) =>
    let h := whdrOf b
    h.wen && h.wobj = o && h.wgen != cur
  let s := (s.stw.jobs.filter fun j => !j.signalled && late j.cmd).foldl (fun s j => (s.stwDrop j 0x21).countStale o) s
  s.lnk.eng.foldl (fun s p =>
    (p.2.jobs.filter fun j => j.ph = .queued && j.seq.isNone && late j.cmd).foldl (fun s j =>
      ((s.collDrop p.1 j 0x21).collRecord p.1 j 0x21).countStale o) s) s

/-- Whether the spacing of R166 lets an object be reset now. -/
def State.resetDue (s : State) (t : Option Nat) : Bool :=
  match t with
  | none => true
  | some t => s.ticks - t ≥ tUs

/-- The reset of one object: count 0, the next generation; a later wait under the old one is stale. -/
def State.resetObj (s : State) (o : Nat) : State :=
  let x := s.obj o
  ((s.setObj o ⟨0, x.gen + 1, some s.ticks⟩).localWaits o).staleWaits o

/-- Objects that waits name: armed local waits, queued descriptors, steward commands and collectives. -/
def State.waitedOn (s : State) : List Nat :=
  let obj := fun (b : Block64) => if (whdrOf b).wen then [(whdrOf b).wobj] else []
  ((s.cl.flatMap fun p => (if p.2.arm then [p.2.swObj.toNat] else [])
      ++ (p.2.queue.toList.flatMap id).flatMap fun j => obj j.desc)
    ++ (s.stw.jobs.flatMap fun j => obj j.cmd)
    ++ s.lnk.eng.flatMap fun p => p.2.jobs.flatMap fun j => obj j.cmd).eraseDups

/-- The reset of every object not listed, which share their last reset. -/
def State.resetRest (s : State) : State :=
  let s := { s with sync := { s.sync with gen0 := s.sync.gen0 + 1, reset0 := some s.ticks } }
  (s.waitedOn.filter fun o => (SMap.find o s.sync.obj).isNone).foldl (fun s o => (s.localWaits o).staleWaits o) s

/-- Reset of every object by an abort (R160): at once where the spacing lets it and no earlier reset is held, held
elsewhere. Resets that descriptors of the aborted step asked for are dropped with them. -/
def State.resetEvery (s : State) : State :=
  let s := { s with sync := { s.sync with resets := s.sync.resets.filter fun p => p.2.isNone } }
  let s := s.sync.obj.foldl (fun s p =>
    if s.resetDue p.2.resetAt && !(s.sync.resets.any fun r => r.1 = p.1) then s.resetObj p.1
    else { s with sync := { s.sync with resets := s.sync.resets ++ [(p.1, none)] } }) s
  if s.sync.held0 = 0 && s.resetDue s.sync.reset0 then s.resetRest
  else { s with sync := { s.sync with held0 := s.sync.held0 + 1 } }

/-- No reset that an abort asked for is still held. -/
def State.resetsDone (s : State) : Bool := s.sync.held0 = 0 && s.sync.resets.all fun p => p.2.isSome

/-! ### Rows -/

/-- The descriptor that carried a signal ends with its outcome (R163, R167), unless a replay has ended it. -/
def State.signalled (s : State) (org : Origin) (o : SigOut) : State :=
  match org with
  | .seq c n =>
    match (s.clus c).inFlight n with
    | some j =>
      let st := if o = .stale then 0x21 else if j.status != 0 then j.status.toNat else if j.ev then 1 else 0
      (s.endJob c j st 0).heads c
    | none => s
  | .stw k =>
    match s.stwJob k with
    | some j => s.stwDrop j (if o = .stale then 0x21 else j.status.toNat)
    | none => s
  | .coll d k =>
    match s.coll d k with
    | some j =>
      let st := if o = .stale then 0x21 else j.status.toNat
      (s.collDrop d j st).collRecord d j st
    | none => s
  | .none => s

/-- A local wait is armed (R152). An earlier MET or STALE ends (log 67). -/
def State.armWait (s : State) (c : Nat) (obj : BitVec 14) (gen : BitVec 16) (thr : BitVec 32) : State :=
  (s.onClus c fun x =>
    { x with swObj := obj, swGen := gen, swThr := thr, arm := true, met := false, swStale := false }).localWait c

/-- LOCAL_WAIT_ARM (R152): the core names an object, a generation and a threshold and arms its wait, which clears an earlier
MET and STALE. DESIGN CHOICE (log 67): Table 5.3 does not say. -/
def execLocalWaitArm (c : Cluster) (obj : BitVec 14) (gen : BitVec 16) (thr : BitVec 32) (s : State) :
    Host.Outcome State Fault Refusal :=
  .next (s.armWait c.val obj gen thr)

/-- SYNC_OBJECT_RESET (R165, R166): a held reset of the object is made once the spacing allows. The SYNC_RESET whose
last object this was has done its work. -/
def execSyncObjectReset (o : Fin 16384) (s : State) : Host.Outcome State Fault Refusal :=
  let listed := (SMap.find o.val s.sync.obj).isSome
  match s.sync.resets.find? fun p => p.1 = o.val with
  | some p =>
    if !s.resetDue (s.obj o.val).resetAt then .next s
    else
      let s := { s with sync := { s.sync with resets := s.sync.resets.erase p } }
      let s := s.resetObj o.val
      match p.2 with
      | none => .next s
      | some (c, n) =>
        let left := s.sync.resets.any fun q => q.2 = some (c, n)
        .next (s.onJob c n fun j => { j with resets := j.resets.erase o.val, ph := if left then j.ph else .worked })
  | none =>
    if !listed && s.sync.held0 != 0 && s.resetDue s.sync.reset0 then
      .next { s with sync := { s.sync with held0 := s.sync.held0 - 1 } }.resetRest
    else .next s

end Sys2Proof.Machine
end

