-- ==== Sys2Proof/Machine/Issue.lean ====
section
/-!
DEFINITION. Acceptance of a work descriptor: its body (Tables 5.6, 5.8, 5.9, 6.2, 6.6), the checks at issue (R154, R157,
R182, R103, R174), its footprint and the slots it names (R36, R162, R183), its bindings (R181, R182), and what follows
when it reaches the head of its queue (R173, R175, R368).
-/

namespace Sys2Proof.Machine

/-- First offset whose rule is broken. -/
def firstBad (l : List (Bool × Nat)) : Option Nat := (l.find? fun p => p.1).map (·.2)

/-- The four opcodes that HELD lets run (R157). -/
def isHeldOk (opc : Nat) : Bool := opc = 0x10 || opc = 0x11 || opc = 0x20 || opc = 0x21
/-- Collectives that stepping B0 implements (R323). -/
def isColl (opc : Nat) : Bool := 0x40 ≤ opc && opc ≤ 0x45
/-- Opcodes of Table 5.5 that are implemented. -/
def isSeqOpc (opc : Nat) : Bool := isDatapath opc || isHeldOk opc || opc = 0x30 || opc = 0x50 || isColl opc

/-! ### Tile operations -/

/-- TILE_OP and TILE_CMP body (Table 5.6). -/
structure TBody where
  tmask : Nat
  dest : Bool
  pre : Bool
  ve : Nat
  args : Nat
  wargs : Nat
  cmprec : Nat
  deriving DecidableEq, Repr

def tbodyOf (b : Block64) : TBody where
  tmask := fld b 256 32
  dest := fld b 288 1 = 1
  pre := fld b 289 1 = 1
  ve := fld b 290 2
  args := fld b 320 48
  wargs := fld b 384 48
  cmprec := fld b 448 48

/-- Number of passes, and the tile of pass q (R94). -/
def TArgs.passes (a : TArgs) : Nat := ceilDiv a.m 32 * ceilDiv a.n 32
def passTile (mask q : Nat) : Nat :=
  let ts := maskTiles mask
  ts.getD (q % ts.length) 0
def TArgs.bi (a : TArgs) (q : Nat) : Nat := q / ceilDiv a.n 32
def TArgs.bj (a : TArgs) (q : Nat) : Nat := q % ceilDiv a.n 32

/-- Usable tiles of a cluster (R116). -/
def State.availMask (s : State) (c : Nat) : Nat := s.rf (R.tilAvail c) 0 32

/-- A structure's address: bits [63:48] zero, aligned, in memory (R8). -/
def State.structOk (s : State) (a align n : Nat) : Bool := a % align = 0 && s.dataOk a n

/-- Byte offset of the first body field of a tile operation that breaks Table 5.6. -/
def State.tileBad (s : State) (c : Nat) (b : Block64) : Option Nat :=
  let t := tbodyOf b
  let cmp := fld b 0 8 = 2
  firstBad [(t.tmask = 0 || Nat.lor t.tmask (s.availMask c) != s.availMask c, 32), (cmp && t.dest, 36),
    (fld b 292 28 != 0, 36), (!s.structOk t.args 64 64, 40), (fld b 368 16 != 0, 46),
    (if cmp then !s.dataOk t.wargs 64 else t.wargs != 0, 48), (fld b 432 16 != 0, 54),
    (if cmp then !s.dataOk t.cmprec 48 else t.cmprec != 0, 56), (fld b 496 16 != 0, 62)]

/-- The rules of Table 5.7, R50, R51 and R103 on an argument block. `wide` marks the wide pair's block. -/
def State.targsOk (s : State) (t : TBody) (a : TArgs) (wide : Bool) : Bool :=
  a.resOk && s.dataOk a.ahdr 64 && s.dataOk a.bhdr 64
  && (if t.dest || wide then a.rqcb = 0 else s.dataOk a.rqcb 64)
  && (if t.pre && !wide then a.preofs % 8192 = 0 else a.preofs = 0)
  && a.m != 0 && a.n != 0 && a.k0 % 32 = 0 && a.k != 0 && (!wide || (a.orow0 = 0 && a.ocol0 = 0))

/-- Rows of operand block b: first row and count. -/
def blockRows (row0 total b : Nat) : Nat × Nat := (row0 + 32 * b, min 32 (total - 32 * b))

/-- Bindings of the passes of one argument block in the shadow tables (R182): none when a pass of an operand has none.
A store holds at most 32 bindings of at most 32 rows, so more than 1,024 row blocks of one operand cannot be bound. -/
def State.passBinds (s : State) (x : Cl) (mask : Nat) (a : TArgs) (wide : Bool) :
    Option (List (Nat × Nat × Nat × Binding)) :=
  if ceilDiv a.m 32 > 1024 || ceilDiv a.n 32 > 1024 then none
  else
    let ka := (s.hdrAt a.ahdr).k
    let kb := (s.hdrAt a.bhdr).k
    (List.range a.passes).foldl (fun acc q =>
      acc.bind fun l =>
        let t := passTile mask q
        let (ra, na) := blockRows a.arow0 a.m (a.bi q)
        let (rb, nb) := blockRows a.brow0 a.n (a.bj q)
        let look := fun (hdr r n k : Nat) =>
          (x.shadow t).find? fun b => b.covers hdr r n a.k0 (min (a.k0 + a.k) k)
        match look a.ahdr ra na ka, look a.bhdr rb nb kb with
        | some y, some z =>
          let o := if wide then 2 else 0
          some ((o, q, t, y) :: (o + 1, q, t, z) :: l)
        | _, _ => none) (some [])

/-- Preload images of each tile of the mask lie within its store (R103). -/
def preOk (mask : Nat) (a : TArgs) : Bool :=
  let ts := maskTiles mask
  (List.range ts.length).all fun i =>
    a.preofs + 8192 * ceilDiv (a.passes - i) ts.length ≤ 262144 || a.passes ≤ i

/-! ### Vector programs and streams -/

/-- Vector argument block of a descriptor (Table 5.8), as it stands. -/
def State.vargs (s : State) (b : Block64) : VArgs :=
  let a := fld b 384 48
  let bs := s.mem.bytes a 192
  { ve := fld b 256 2, prog := fld b 320 48, args := a
    h := (List.range 8).map fun i => leAt bs (8 * i) 8
    p := (List.range 8).map fun i => BitVec.ofNat 64 (leAt bs (64 + 8 * i) 8)
    q := (List.range 8).map fun i => leAt bs (128 + 8 * i) 8 }

def State.vecBad (s : State) (b : Block64) : Option Nat :=
  firstBad [(fld b 258 30 != 0, 32), (fld b 288 32 != 0, 36), (!s.structOk (fld b 320 48) 64 16384, 40),
    (fld b 368 16 != 0, 46), (!s.structOk (fld b 384 48) 64 192, 48), (fld b 432 16 != 0, 54),
    (fld b 448 64 != 0, 56)]

/-- STREAM body (Table 6.2). -/
structure SBody where
  se : Nat
  mode : Nat
  srcb : Bool
  dkind : Nat
  resid : Nat
  resid2 : Nat
  tmask : Nat
  dslot : Nat
  args : Nat
  deriving DecidableEq, Repr

def sbodyOf (b : Block64) : SBody where
  se := fld b 256 3
  mode := fld b 259 3
  srcb := fld b 262 1 = 1
  dkind := fld b 264 2
  resid := fld b 272 10
  resid2 := fld b 288 10
  tmask := fld b 320 32
  dslot := fld b 352 10
  args := fld b 384 48

/-- Stream argument block (Table 6.3). -/
structure SArgs where
  src : Nat
  dst : Nat
  idx : Nat
  row0 : Nat
  nrows : Nat
  k0 : Nat
  klen : Nat
  rbytes : Nat
  sstride : Nat
  dstride : Nat
  resOk : Bool
  deriving DecidableEq, Repr

def sargsOf (b : Block64) : SArgs where
  src := fld b 0 64
  dst := fld b 64 64
  idx := fld b 128 64
  row0 := fld b 192 32
  nrows := fld b 224 32
  k0 := fld b 256 32
  klen := fld b 288 32
  rbytes := fld b 320 32
  sstride := fld b 352 32
  dstride := fld b 384 32
  resOk := fld b 416 96 = 0

/-- Reserved fields and reserved values of a STREAM body. -/
def streamBad (b : Block64) : Option Nat :=
  firstBad [(fld b 259 3 > 4 || fld b 263 1 != 0, 32), (fld b 264 2 = 3 || fld b 266 6 != 0, 33),
    (fld b 282 6 != 0, 34), (fld b 298 6 != 0, 36), (fld b 304 16 != 0, 38), (fld b 362 22 != 0, 44),
    (fld b 384 6 != 0, 48), (fld b 432 16 != 0, 54), (fld b 448 64 != 0, 56)]

/-- Bytes that a local destination spans, from its first slot (R180, R186). -/
def State.destSize (s : State) (b : SBody) (a : SArgs) : Nat :=
  if a.nrows = 0 then 0
  else if b.mode = 0 then (a.nrows - 1) * a.dstride + a.rbytes
  else
    let h := s.hdrAt a.src
    (panelOf h (s.outlAt h) a.nrows a.klen).size

/-- Local memories a stream writes: tiles of its mask, or the cluster buffer. -/
def SBody.dests (b : SBody) : List Nat := if b.dkind = 1 then maskTiles b.tmask else if b.dkind = 2 then [32] else []

/-- The binding a placing stream makes (R181, R188). -/
def SBody.binding (b : SBody) (a : SArgs) : Option Binding :=
  if a.nrows = 0 then none
  else if b.mode = 1 && b.dkind != 0 then some ⟨a.src, a.row0, a.nrows, a.k0, a.klen, b.dslot⟩
  else if b.mode = 2 && b.dkind = 2 then some ⟨a.dst, a.row0, a.nrows, a.k0, a.klen, b.dslot⟩
  else none

/-- Whether a binding shares a slot with [slot, slot + n). An empty run shares none (R187). -/
def State.shares (s : State) (slot n : Nat) (b : Binding) : Bool :=
  n != 0 && b.slot < slot + n && slot < b.slot + s.bindSlots b

/-- Removal of the bindings that share a slot with a run (R181). -/
def State.evict (s : State) (slot n : Nat) (l : List Binding) : List Binding :=
  l.filter fun b => !s.shares slot n b

/-- Reserved fields of a COMET body, and the rules of R196 on its lengths. -/
def cometBad (b : Block64) : Option Nat :=
  let inl := fld b 256 1 = 1
  let len := fld b 288 13
  firstBad [(fld b 257 7 != 0, 32), (fld b 264 24 != 0, 33),
    (fld b 301 19 != 0 || len < 8 || len > 4096 || len % 8 != 0 || (inl && len != 8), 36),
    (!inl && fld b 368 16 != 0, 40), (fld b 384 48 % 8 != 0, 48), (fld b 432 16 != 0, 54), (fld b 448 64 != 0, 56)]

/-- Rules of Table 5.9 and R166. -/
def bodyBad59 (b : Block64) : Option Nat :=
  let opc := fld b 0 8
  if opc = 0x20 then firstBad [(fld b 256 256 != 0, 32)]
  else if opc = 0x21 then
    let f := fld b 256 14
    let n := fld b 272 16
    firstBad [(fld b 270 2 != 0, 32), (n = 0 || n > 4096 || f / 4096 != (f + n - 1) / 4096, 34),
      (fld b 288 224 != 0, 36)]
  else if opc = 0x30 then
    let sl := fld b 320 10
    let n := fld b 336 8
    firstBad [(fld b 256 9 != 0, 32), (fld b 304 16 != 0, 38), (fld b 330 6 != 0 || sl + n > 1024, 40),
      (n = 0 || n > 16, 42), (fld b 344 8 > 1, 43), (fld b 368 144 != 0, 46)]
  else if opc = 0x50 then
    firstBad [(fld b 8 1 = 1 || fld b 11 1 = 1, 1), (fld b 256 8 > 32, 32), (fld b 264 248 != 0, 33)]
  else none

/-- Byte offset of the first field of header or body that breaks a rule which the descriptor alone decides (R157). -/
def State.descBad (s : State) (c : Nat) (b : Block64) : Option Nat :=
  let opc := fld b 0 8
  match whdrBad b with
  | some o => some o
  | none =>
    if fld b 24 4 > 4 then some 3
    else if isTileOp opc then s.tileBad c b
    else if opc = 0x03 then s.vecBad b
    else if opc = 0x10 then
      (match streamBad b with
        | some o => some o
        | none => if s.structOk (sbodyOf b).args 64 64 then none else some 48)
    else if opc = 0x11 then cometBad b
    else bodyBad59 b

/-! ### Collectives (Tables 10.10 and 10.11) -/

/-- Body of a collective. -/
structure CBody where
  alg : Nat
  dual : Bool
  buf : Nat
  cmt : Bool
  group : Nat
  resid : Nat
  resid2 : Nat
  cseq : Nat
  args : Nat
  resOk : Bool
  deriving DecidableEq, Repr

def cbodyOf (b : Block64) : CBody where
  alg := fld b 256 2
  dual := fld b 258 1 = 1
  buf := fld b 259 1
  cmt := fld b 260 1 = 1
  group := fld b 264 8
  resid := fld b 272 10
  resid2 := fld b 288 10
  cseq := fld b 320 32
  args := fld b 384 48
  resOk := zeroBits b [(261, 3), (282, 6), (298, 6), (304, 16), (352, 32), (432, 16), (448, 64)]

/-- Argument block of a collective. -/
structure CArgs where
  src : Nat
  dst : Nat
  tab : Nat
  count : Nat
  peer : Nat
  obj : Nat
  ogen : Nat
  resOk : Bool
  deriving DecidableEq, Repr

def cargsOf (b : Block64) : CArgs where
  src := fld b 0 64
  dst := fld b 64 64
  tab := fld b 128 64
  count := fld b 192 32
  peer := fld b 224 16
  obj := fld b 240 16
  ogen := fld b 256 16
  resOk := fld b 272 240 = 0

/-- A chunk table entry (R323). -/
structure Chunk where
  first : Nat
  count : Nat
  own : Nat
  dhdr : Nat
  resOk : Bool
  deriving DecidableEq, Repr

def State.chunkAt (s : State) (tab i : Nat) : Chunk :=
  let bs := s.mem.bytes (tab + 32 * i) 32
  { first := leAt bs 0 8, count := leAt bs 8 4, own := leAt bs 12 2, dhdr := leAt bs 16 8
    resOk := leAt bs 14 2 = 0 && leAt bs 24 8 = 0 }

def State.chunks (s : State) (a : CArgs) : List Chunk := (List.range a.count).map fun i => s.chunkAt a.tab i

/-! ### Footprints (R162, R183) -/

/-- Whether two byte ranges overlap. -/
def overlaps (a b : Nat × Nat) : Bool := a.1 < b.1 + b.2 && b.1 < a.1 + a.2
def anyOverlap (l m : Ranges) : Bool := l.any fun a => m.any fun b => overlaps a b

/-- Header and outlier header of a tensor as ranges read. -/
def State.hdrRanges (s : State) (a : Nat) : Ranges :=
  let h := s.hdrAt a
  (a, 64) :: (if h.outl = 0 then [] else [(h.outl, 64)])

/-- Ranges of a whole tensor. -/
def State.tensorRanges (s : State) (a : Nat) : Ranges :=
  let h := s.hdrAt a
  if h.rows = 0 then [] else h.ranges (s.outlAt h)

/-- Ranges a requantising control block adds: read and written. -/
def State.rqRanges (s : State) (q : Nat) : Ranges × Ranges :=
  if q = 0 then ([], [])
  else
    let o := (rqcbOf (s.peek64 q)).outhdr
    ((q, 64) :: s.hdrRanges o, s.tensorRanges o)

/-- Read and write sets of a descriptor, with the bindings it has resolved. -/
def State.footprint (s : State) (b : Block64) (binds : List (Nat × Nat × Nat × Binding)) : Ranges × Ranges :=
  let opc := fld b 0 8
  let slots := binds.map fun p => slotRange p.2.2.1 p.2.2.2.slot (s.bindSlots p.2.2.2)
  if isTileOp opc then
    let t := tbodyOf b
    let a := targsOf (s.peek64 t.args)
    let w := targsOf (s.peek64 t.wargs)
    let (rq, wq) := s.rqRanges a.rqcb
    let ts := maskTiles t.tmask
    let pre := if t.pre then (List.range ts.length).map fun i =>
      slotRange (ts.getD i 0) (a.preofs / 8192) (ceilDiv (a.passes - i) ts.length) else []
    ([(t.args, 64)] ++ s.hdrRanges a.ahdr ++ s.hdrRanges a.bhdr ++ rq ++ slots ++ pre
      ++ (if opc = 2 then (t.wargs, 64) :: (s.hdrRanges w.ahdr ++ s.hdrRanges w.bhdr) else []),
     wq ++ (if opc = 2 then [(t.cmprec, 48)] else []))
  else if opc = 0x03 then
    let v := s.vargs b
    let qs := v.q.map s.rqRanges
    ([(v.prog, 16384), (v.args, 192)] ++ (v.h.filter (· != 0)).flatMap s.hdrRanges ++ qs.flatMap (·.1) ++ slots,
     qs.flatMap (·.2))
  else if opc = 0x10 then
    let y := sbodyOf b
    let a := sargsOf (s.peek64 y.args)
    let loc := y.dests.map fun t => slotRange t y.dslot (slotsOf (s.destSize y a))
    let args := (y.args, 64)
    if a.nrows = 0 then ([args], [])
    else if y.mode = 0 then
      ([args, (a.src, (a.nrows - 1) * a.sstride + a.rbytes)],
       if y.dkind = 0 then [(a.dst, (a.nrows - 1) * a.dstride + a.rbytes)] else loc)
    else if y.mode = 1 then
      (args :: (s.hdrRanges a.src ++ (if y.srcb then slots else s.tensorRanges a.src)), loc)
    else if y.mode = 4 then
      ([args, (a.src, 4096 * a.nrows)], [(s.ckAt (a.src / 4096), 4 * a.nrows)])
    else
      (args :: (a.idx, 4 * a.nrows) :: (s.hdrRanges a.src ++ s.hdrRanges a.dst ++ s.tensorRanges a.src),
       if y.dkind = 0 then s.tensorRanges a.dst else loc)
  else if opc = 0x11 then
    let len := fld b 288 13
    ((if fld b 256 1 = 1 then [] else [(fld b 320 48, len)]), [(fld b 384 48, len)])
  else if opc = 0x30 then ([(fld b 256 48, 512 * fld b 336 8)], [])
  else if isColl opc then
    let y := cbodyOf b
    let a := cargsOf (s.peek64 y.args)
    let args := (y.args, 64)
    let tens := fun (h : Nat) => s.hdrRanges h ++ s.tensorRanges h
    if opc = 0x40 then
      (args :: (a.tab, 32 * a.count) :: (tens a.src ++ (s.chunks a).flatMap fun k => s.hdrRanges k.dhdr),
        (s.chunks a).flatMap fun k => s.tensorRanges k.dhdr)
    else if opc = 0x41 then ([args, (a.tab, 32 * a.count)] ++ tens a.dst, s.tensorRanges a.dst)
    else if opc = 0x42 then (args :: (tens a.src ++ s.hdrRanges a.dst), s.tensorRanges a.dst)
    else if opc = 0x43 then ([args, (a.src, 8 * a.count)], [(a.dst, 8 * a.count)])
    else if opc = 0x44 then ([args, (a.src, a.count)], [])
    else ([args], [])
  else ([], [])

/-- Codebook slots of a tensor (R37, R63). -/
def State.tensorSlots (s : State) (a : Nat) : Ranges :=
  if a = 0 then []
  else
    let h := s.hdrAt a
    (if h.isQ then [(h.cbslot, h.ncb + 1)] else []) ++
      (match s.outlAt h with | some o => [(o.esccb, 1)] | none => [])

/-- Codebook slots a descriptor names (R36). -/
def State.namedSlots (s : State) (b : Block64) : Ranges :=
  let opc := fld b 0 8
  let out := fun (q : Nat) => if q = 0 then [] else s.tensorSlots (rqcbOf (s.peek64 q)).outhdr
  if isTileOp opc then
    let t := tbodyOf b
    let a := targsOf (s.peek64 t.args)
    let w := targsOf (s.peek64 t.wargs)
    s.tensorSlots a.ahdr ++ s.tensorSlots a.bhdr ++ out a.rqcb ++
      (if opc = 2 then s.tensorSlots w.ahdr ++ s.tensorSlots w.bhdr else [])
  else if opc = 0x03 then
    let v := s.vargs b
    v.h.flatMap s.tensorSlots ++ v.q.flatMap out
  else if opc = 0x10 then
    let y := sbodyOf b
    let a := sargsOf (s.peek64 y.args)
    if y.mode = 1 then s.tensorSlots a.src
    else if y.mode = 2 || y.mode = 3 then s.tensorSlots a.src ++ s.tensorSlots a.dst else []
  else if opc = 0x30 then [(fld b 320 10, fld b 336 8)]
  else if isColl opc then
    let a := cargsOf (s.peek64 (cbodyOf b).args)
    if opc = 0x40 then s.tensorSlots a.src
    else if opc = 0x41 then s.tensorSlots a.dst
    else if opc = 0x42 then s.tensorSlots a.src ++ s.tensorSlots a.dst else []
  else []

/-! ### Acceptance -/

/-- Bindings a descriptor resolves when it is issued (R182, and for R183 the source of a PLACE with SRCB 1): none where an
operand of a pass has none. -/
def State.resolve (s : State) (c : Nat) (b : Block64) : Option (List (Nat × Nat × Nat × Binding)) :=
  let x := s.clus c
  let opc := fld b 0 8
  if isTileOp opc then
    let t := tbodyOf b
    (s.passBinds x t.tmask (targsOf (s.peek64 t.args)) false).bind fun l =>
      if opc = 1 then some l
      else (s.passBinds x t.tmask (targsOf (s.peek64 t.wargs)) true).map (l ++ ·)
  else if opc = 0x03 then
    let v := s.vargs b
    some (v.h.zipIdx.flatMap fun p =>
      if p.1 = 0 then [] else ((x.shadow 32).filter fun y => y.hdr = p.1).map fun y => (p.2, 0, 32, y))
  else if opc = 0x10 && (sbodyOf b).mode = 1 && (sbodyOf b).srcb then
    let a := sargsOf (s.peek64 (sbodyOf b).args)
    let k := (s.hdrAt a.src).k
    some (((x.shadow 32).find? fun z => z.covers a.src a.row0 a.nrows a.k0 (min (a.k0 + a.klen) k)).toList.map
      fun z => (0, 0, 32, z))
  else some []

/-- Rules on the argument blocks of a tile operation at issue. -/
def State.tileArgsOk (s : State) (b : Block64) : Bool :=
  let t := tbodyOf b
  let a := targsOf (s.peek64 t.args)
  s.targsOk t a false && (!t.pre || preOk t.tmask a) &&
  (fld b 0 8 != 2 ||
    (let w := targsOf (s.peek64 t.wargs)
     s.targsOk t w true && w.arow0 = a.arow0 && w.m = a.m && w.brow0 = a.brow0 && w.n = a.n && w.k0 = a.k0
       && w.k = a.k))

/-- The state of the device lets a descriptor in (R157, R426). -/
def State.admits (s : State) (opc : Nat) : Bool := s.running || (s.dev.st = .held && isHeldOk opc)

/-- Structures read at issue with verification (R201): argument blocks, and for a tile operation the headers whose K the
lookup of R182 uses. -/
def State.issueReads (s : State) (b : Block64) : Ranges × Ranges :=
  let opc := fld b 0 8
  let t := tbodyOf b
  let hs := fun (p : Nat) => let a := targsOf (s.peek64 p); [(a.ahdr, 64), (a.bhdr, 64)]
  if opc = 1 then ([(t.args, 64)], hs t.args)
  else if opc = 2 then ([(t.args, 64), (t.wargs, 64)], hs t.args ++ hs t.wargs)
  else if opc = 0x03 then ([(fld b 384 48, 192)], [])
  else if opc = 0x10 then ([((sbodyOf b).args, 64)], [])
  else ([], [])

/-- Outcome of the checks at issue: status and OFFSET. -/
def State.issueCheck (s : State) (c : Nat) (b : Block64) (errs : Errs) : (Nat × Nat) × State :=
  let opc := fld b 0 8
  if (s.clus c).region = .dark then ((0x10, 0), s)
  else match s.descBad c b with
  | some o => ((0x10, o), s)
  | none =>
    let who := Client.sequencer (Fin.ofNat 96 c)
    let (st, s) := s.fetch who (fld b 32 16) (s.issueReads b).1 errs
    if st != 0 then ((st, 0), s)
    else if isTileOp opc && !s.tileArgsOk b then ((0x10, 0xFF), s)
    else
    let (st, s) := s.fetch who (fld b 32 16) (s.issueReads b).2 errs
    if st != 0 then ((st, 0), s)
    else if isTileOp opc && (s.resolve c b).isNone then ((0x10, 0xFF), s)
    else if !isSeqOpc opc then ((0x11, 0), s)
    else if !s.admits opc then ((0x20, 0), s)
    else if fld b 48 16 != s.runGen.toNat then ((0x21, 0), s)
    else ((0, 0), s)

/-- Effects of a stream on the shadow tables when it is issued (R181). -/
def State.shadowIssue (s : State) (c : Nat) (b : Block64) : State :=
  if fld b 0 8 != 0x10 then s
  else
    let y := sbodyOf b
    let a := sargsOf (s.peek64 y.args)
    let n := slotsOf (s.destSize y a)
    s.onClus c fun x => y.dests.foldl (fun x t =>
      let l := s.evict y.dslot n (x.shadow t)
      x.setShadow t (match y.binding a with | some z => l ++ [z] | none => l)) x

/-- A descriptor joins a queue with the cluster's next issue number (R154). A wait met now starts its bound (R172), and
one under another generation is stale (R167). Its footprint and the slots it names are taken from the structures as they
stand now. DESIGN CHOICE (log 65): R162 does not say when. The base exponents of a vector program's tensors are fixed here
(R126). -/
def State.accept (s : State) (c : Nat) (q : Fin 8) (b : Block64) (ring : Option (Nat × BitVec 32)) : State :=
  let x := s.clus c
  let h := whdrOf b
  let n := x.issueNo + 1
  let binds := (s.resolve c b).getD []
  let (rs, ws) := s.footprint b binds
  let met := if !h.wen || s.waitMet h.wobj h.wgen h.wthr then some s.ticks else none
  let j : Job := ⟨n, b, ring, .queued, s.ticks, met, 0, s.order, s.namedSlots b, false, rs, ws, binds,
    0, 0, 0, false, 0, false, 0, 0, [], false, [], BitVec.ofNat 3 (s.rd (R.tilCtl c)), none, 0, none,
    if h.opc = 0x03 then (s.vargs b).h.map fun a => (s.hdrAt a).et else []⟩
  let s := { s with order := s.order + 1 }
  let s := s.setClus c { x.setQ q (x.qAt q ++ [j]) with issueNo := n }
  let s := s.shadowIssue c b
  let s := if h.wen then s.staleWaits h.wobj else s
  s.heads c

/-- A descriptor of phase tag work carried to its outcome: RESULT and STATUS of Table 5.3, or a queue that is full.
`mk` writes the record of a refused one. -/
def State.issueOne (s : State) (c : Nat) (q : Fin 8) (b : Block64) (ring : Option (Nat × BitVec 32)) (errs : Errs) :
    (Nat × Nat) × State :=
  let ((st, off), s) := s.issueCheck c b errs
  let h := whdrOf b
  if st != 0 then
    let s := if st = 0x21 then s.flag (R.seqStat c) 1 (R.seqStalecnt c) 1 else s
    let (k, s) := s.takeFree
    let mk := fun pass => mkRec h.tag st pass h.dgen 0 c 0 (trunc 32 (Config.unstated k 0)) off 0
    let s := match ring with
      | some (r, _) => s.ringRec r mk
      | none => s.onClus c fun x => x.pushRec mk
    ((2, st), s)
  else if h.opc = 0x50 then
    -- R174: a PHASE completes on acceptance and takes no queue entry
    let n := (s.clus c).issueNo + 1
    let s := s.onClus c fun x => { x.declare (fld b 256 8) with issueNo := n }
    let s := { s with order := s.order + 1 }
    let (o, s) := if h.sen then s.arrive h.sobj (BitVec.ofNat 16 h.sgen) h.sinc s.time.meridian else (.applied, s)
    let st := if o = .stale then 0x21 else 0
    let mk := fun pass => mkRec h.tag st pass h.dgen 0 c 0 n 0 0
    let s := if h.crec || st != 0 then
        (match ring with
          | some (r, _) => s.ringRec r mk
          | none => s.onClus c fun x => x.pushRec mk)
      else (match ring with | some (r, _) => s.ringRelease r | none => s)
    ((0, 0), s)
  else if ((s.clus c).qAt q).length ≥ 64 then ((1, 0), s)
  else ((0, 0), s.accept c q b ring)

/-- An issue by a control core (R154): RESULT and STATUS hold its outcome. -/
def State.coreIssue (s : State) (c : Nat) (q : Fin 8) (b : Block64) (errs : Errs) : State :=
  let ((r, st), s) := s.issueOne c q b none errs
  s.onClus c fun x => { x with stage := b, result := BitVec.ofNat 2 r, status := BitVec.ofNat 8 st }

/-- A running control core writes QUEUE (R154). While the device is HELD the core stalls at the port (R157). -/
def State.queueWrite (s : State) (c : Nat) (q : Fin 8) (desc : Block64) (errs : Errs) : State :=
  if (s.clus c).cc != .running then s
  else if s.dev.st = .held then s.onClus c fun x => { x with cc := .stalled q desc, stage := desc }
  else s.coreIssue c q desc errs

/-- ISSUE (R154). -/
def execIssue (c : Cluster) (q : Fin 8) (desc : Block64) (errs : Errs) (s : State) : Host.Outcome State Fault Refusal :=
  .next (s.queueWrite c.val q desc errs)

/-- PHASE (R174): the issue of a PHASE descriptor. A descriptor of another opcode is no PHASE and has no effect here. -/
def execPhase (c : Cluster) (q : Fin 8) (desc : Block64) (s : State) : Host.Outcome State Fault Refusal :=
  .next (if fld desc 0 8 != 0x50 then s else s.queueWrite c.val q desc [])

/-- Cores stalled at their ports go on when the device leaves HELD (R157). -/
def State.unstall (s : State) : State :=
  (s.cl.map (·.1)).foldl (fun s c =>
    match (s.clus c).cc with
    | .stalled q b => (s.onClus c fun x => { x with cc := .running }).coreIssue c q b []
    | _ => s) s

/-- The core advances CQCONS (R161): the records up to it are consumed. -/
def Cl.consume (x : Cl) (value : BitVec 8) : Cl :=
  { x with cqCons := value, cqUsed := x.cqUsed - (value - x.cqCons).toNat }

/-- CQCONS_WRITE (R161). -/
def execCqconsWrite (c : Cluster) (value : BitVec 8) (s : State) : Host.Outcome State Fault Refusal :=
  .next (s.onClus c.val fun x => x.consume value)

/-- A trap (R153): the core and its sequencer's dispatch stop, with a STOP event. -/
def State.ccTrap (s : State) (c : Nat) (pc : BitVec 32) (cause : Nat) : State :=
  let s := s.onClus c fun x => { x with cc := .trapped, ccPc := pc, halted := true }
  s.raise 0x1301 (srcCl c 4 0) 0 pc.toNat cause

/-- CONTROL_CORE_TRAP (R153). -/
def execControlCoreTrap (c : Cluster) (pc cause : BitVec 32) (s : State) : Host.Outcome State Fault Refusal :=
  .next (if (s.clus c.val).cc != .running then s else s.ccTrap c.val pc cause.toNat)

/-- FORECAST_COVER_MATURE (R175): declarations published at least 2 µs ago give cover. -/
def execForecastCoverMature (c : Cluster) (s : State) : Host.Outcome State Fault Refusal :=
  .next (s.onClus c.val fun x =>
    { x with decls := x.decls.map fun d =>
        { d with mature := d.mature || (match d.pub with | some t => s.ticks - t ≥ 2 * tUs | none => false) } })

/-- NOTICE_LEAD_ELAPSED (R173): SEQ_NOTICE.LEAD core cycles have passed since the notice. -/
def execNoticeLeadElapsed (c : Cluster) (s : State) : Host.Outcome State Fault Refusal :=
  let x := s.clus c.val
  match x.notice with
  | some v =>
    if v.half < 2 * s.rf (R.seqNotice c.val) 0 10 then .next s
    else .next ((s.setClus c.val { x with notice := some { v with leadDone := true } }).heads c.val)
  | none => .next s

/-- NOTICE_WITHDRAWAL (R173): a notice with no activity for 4,096 core cycles is withdrawn, and a fresh one goes out at
once for a head whose wait is met. -/
def execNoticeWithdrawal (c : Cluster) (s : State) : Host.Outcome State Fault Refusal :=
  let x := s.clus c.val
  match x.notice with
  | some v =>
    if v.active || v.half < 8192 then .next s
    else .next ((s.setClus c.val { x with notice := none }).heads c.val)
  | none => .next s

end Sys2Proof.Machine
end

