-- ==== Sys2Proof/Machine/Points.lean ====
section
/-!
DEFINITION. Operating points: the ceilings and the point of a die and of a cluster (R362, R370), tag points and the
learned controller (R372), and the causes of a slip (R172).
-/

namespace Sys2Proof.Machine

/-- Frequency of a point in MHz (Table 0.4). -/
def opMhz (p : Nat) : Nat := [400, 500, 650, 800, 950, 1100, 1300, 1500].getD p 1500

/-- Die d as a vector index. -/
def dieIx (d : Nat) : Fin 4 := Fin.ofNat 4 d

/-- The point of compute die d (R370). -/
def State.diePoint (s : State) (d : Nat) : Nat :=
  let i := dieIx d
  min (s.rf R.pwrDiemax (4 * d) 3) (min s.pw.compute[i].val (min s.pw.vrCeil[i].val
    (min s.pw.dieConn[i].val s.pw.thermal[i].val)))

/-- Ceiling of a cluster from its failed phases (Table 12.3). -/
def phaseCeil (failed : BitVec 16) : Nat :=
  let fs := (List.range 16).filter fun k => failed.getLsbD k
  match fs with
  | [] => 7
  | [_] => 6
  | [a, b] =>
    let g := min (b - a) (16 - (b - a))
    if g ≥ 3 then 6 else 5
  | _ => 0

/-- A phase tag's installed entry (R234): OP, DECL and KIND. -/
def State.phase (s : State) (t : Nat) : Nat := (SMap.val 0 s.phtab t).toNat
def phOp (e : Nat) : Nat := e % 8
def phDecl (e : Nat) : Bool := e / 8 % 2 = 1
def phKind (e : Nat) : Nat := e / 16

/-- Demand of a tag on a die (R372). -/
def State.demand (s : State) (d t : Nat) : Nat := (SMap.val 65535 s.learn (256 * d + t)).toNat

/-- The learned point: the lowest point k with 8 * 65,536 * f_k at least 9 * D_t * f_die (R372). -/
def State.learnedPoint (s : State) (d t : Nat) : Nat :=
  ((List.range 8).find? fun k =>
    8 * 65536 * opMhz k ≥ 9 * s.demand d t * opMhz (s.diePoint d)).getD 7

/-- The tag point of tag t on die d (R370). -/
def State.tagPoint (s : State) (d t : Nat) : Nat :=
  let e := s.phase t
  if phDecl e then phOp e else s.learnedPoint d t

/-- The point a cluster is to run at, for a requested point (R370). -/
def State.cluPoint (s : State) (c want : Nat) : Nat :=
  let x := s.clus c
  min (s.diePoint (dieOf c)) (min (phaseCeil x.phfail) (min x.connCeil.val want))

/-- The requested point of the datapath descriptors in flight, none when there are none. -/
def State.wanted (s : State) (c : Nat) : Option Nat :=
  let js := (s.clus c).flight.filter fun j => isDatapath (fld j.desc 0 8)
  js.foldl (fun m j =>
    let p := s.tagPoint (dieOf c) (fld j.desc 16 8)
    some (match m with | some k => max k p | none => p)) none

/-- Total charge of the installed reservations on an HBM channel (R170). -/
def State.hbmCharge (s : State) : Nat :=
  s.resTab.foldl (fun a p =>
    if fld p.2 32 2 = 0 then a + ceilDiv (17 * fld p.2 0 32) (16 * s.liveAll) else a) 0

/-- The lowest throttle level of a channel: of the memory lever and of the stacks' ceilings (R374, R394). -/
def State.memLevel (s : State) : Nat := s.thm.stack.foldl (fun m p => min m (memPct p.2.step)) s.pw.mem

/-- Whether memory is throttled below the admitted total (R172, R374, R394): a channel's rate at its throttle level. -/
def State.memLow (s : State) : Bool := s.memLevel < 100 && 102400 * s.memLevel < 100 * s.hbmCharge

/-- A port's reservations are not in force: the arbiter has parked wavelengths below what its admitted outbound rate
needs at 85 % (R308). -/
def State.portShort (s : State) (p : Nat) : Bool :=
  let x := SMap.val PortS.reset s.lnk.port p
  let up := x.light &&& ~~~x.failed &&& ~~~x.peerFailed &&& ~~~x.parked
  let n := ((List.range 8).filter up.getLsbD).length
  let r := s.resTab.foldl (fun a q =>
    if fld q.2 32 2 = 3 && fld q.2 40 7 = p && fld q.2 47 1 = 0 then a + fld q.2 0 32 else a) 0
  x.parked != 0 && 21250 * n < r

/-- Reservations are suspended (R171), or those of some port are not in force (R308). -/
def State.resOff (s : State) : Bool := s.resSuspended || (List.range 32).any s.portShort

/-- Cause bits whose condition holds now for a descriptor (R172). -/
def State.causeNow (s : State) (c : Nat) (j : Job) : Nat :=
  let x := s.clus c
  let e := s.phase (fld j.desc 16 8)
  (if phDecl e && x.clk.op.val < phOp e then 1 else 0) + (if s.memLow then 2 else 0)
    + (if s.resOff then 4 else 0)
    + (if x.deferred.isSome && isDatapath (fld j.desc 0 8) then 8 else 0) + (if j.holdSeen then 32 else 0)

/-- Every descriptor whose interval has begun notes the conditions that hold (R172). -/
def State.causes (s : State) (c : Nat) : State :=
  let f := fun (j : Job) =>
    if j.met.isSome then { j with cause := j.cause ||| BitVec.ofNat 7 (s.causeNow c j) } else j
  s.onClus c fun x => { x with flight := x.flight.map f, queue := x.queue.map fun l => l.map f }

/-- The same in every cluster. -/
def State.causesAll (s : State) : State := (s.cl.map (·.1)).foldl (fun s c => s.causes c) s

/-- The slip of a descriptor that completes now (R172): counted, recorded, its event once for each tag in a step, and
cause bit 4 for the later ones. The event is one raised for the descriptor (R12). -/
def State.slip (s : State) (c : Nat) (j : Job) : State :=
  let h := whdrOf j.desc
  match j.met with
  | none => s
  | some t0 =>
    let el := (s.ticks - t0) * 10
    if h.bound = 0 || el ≤ h.bound then s
    else
      let cause := Nat.lor j.cause.toNat (s.causeNow c j)
      let cause := if cause = 0 then 64 else cause
      let img := h.tag + h.phase * 2 ^ 16 + cause * 2 ^ 24 + 2 ^ 31 + min (el - h.bound) 0xFFFFFFFF * 2 ^ 32
      let s := (s.flag (R.seqStat c) 0 (R.seqSlipcnt c) 1).wr (R.seqLastslip c) img
      let f := fun (k : Job) => if k.n > j.n && k.met.isSome then { k with cause := k.cause ||| 16 } else k
      let s := s.onClus c fun x => { x with flight := x.flight.map f, queue := x.queue.map fun l => l.map f }
      if (s.clus c).slipSeen.contains h.phase then s
      else
        let s := s.onClus c fun x => { x with slipSeen := h.phase :: x.slipSeen }
        (s.onJob c j.n fun k => { k with ev := true }).raise 0x1302 (srcCl c 4 0) h.tag img 0

/-- The learned controller's update at the completion of a datapath descriptor with an undeclared tag (R372): `busy` is
in core cycles. -/
def State.learnDemand (s : State) (c : Nat) (j : Job) (busy : Nat) : State :=
  let t := fld j.desc 16 8
  if !isDatapath (fld j.desc 0 8) || phDecl (s.phase t) then s
  else
    let d := dieOf c
    let den := (s.ticks - j.disp) * 10 * opMhz (s.diePoint d)
    let u := if den = 0 then 65535 else min (65536 * busy * 1000 / den) 65535
    let o : Int := s.demand d t
    let n := o + ((u : Int) - o).fdiv 16
    { s with learn := SMap.put (256 * d + t) (BitVec.ofNat 16 n.toNat) s.learn }

end Sys2Proof.Machine
end

