-- ==== Sys2Proof/Machine/Seq.lean ====
section
/-!
DEFINITION. The sequencer: dispatch and its checks (R158, R161, R187, R196, R447), completion (R163), synchronisation
descriptors (R166) and codebook loads (R35, R36).
-/

namespace Sys2Proof.Machine

/-! ### Conditions of R161 -/

/-- Descriptors of a cluster that have not completed. -/
def Cl.allJobs (x : Cl) : List Job := x.flight ++ x.queue.toList.flatMap id

/-- A footprint hazard (R162). -/
def Cl.hazard (x : Cl) (j : Job) : Bool :=
  x.allJobs.any fun k => k.n < j.n &&
    (anyOverlap k.wset j.rset || anyOverlap k.wset j.wset || anyOverlap k.rset j.wset)

/-- The FENCE condition. -/
def Cl.fenced (x : Cl) (j : Job) : Bool := (whdrOf j.desc).fence && x.allJobs.any fun k => k.n < j.n

/-- A tile can take passes: every pass given to it has issued its last k-step, and no dispatched operation is about to give
it more. -/
def Cl.tileFree (x : Cl) (t : Nat) : Bool :=
  let y := x.tileAt t
  !x.taken t && y.waiting.isEmpty && y.bank.toList.all fun b => match b with
    | .active _ _ => false
    | _ => true

/-- Engine of a descriptor in flight: a program's, or a comparison's. -/
def jobVe (j : Job) : Option Nat :=
  let opc := fld j.desc 0 8
  if opc = 0x03 then some (fld j.desc 256 2) else if opc = 0x02 then some (fld j.desc 290 2) else none

/-- Whether an engine holds no program and no comparison (R135, R159). -/
def Cl.veFree (x : Cl) (v : Nat) : Bool :=
  (x.veAt v).run.isNone && (x.veAt v).cmp.isNone && x.flight.all fun k => jobVe k != some v

/-- The units a descriptor names are free. -/
def Cl.unitsFree (x : Cl) (j : Job) : Bool :=
  let opc := fld j.desc 0 8
  if isTileOp opc then
    (maskTiles (fld j.desc 256 32)).all x.tileFree && (opc = 1 || x.veFree (fld j.desc 290 2))
  else if opc = 0x03 then x.veFree (fld j.desc 256 2)
  else if opc = 0x10 then
    x.flight.all fun k => !(fld k.desc 0 8 = 0x10 && fld k.desc 256 3 = fld j.desc 256 3)
  else if opc = 0x11 then (x.flight.filter fun k => fld k.desc 0 8 = 0x11).length < 32
  else true

/-- A collective engine holds up to 64 collectives in flight (R321). -/
def State.engFree (s : State) (d : Nat) : Bool := (s.eng d).jobs.length < 64

/-- A completion-queue entry can be reserved, and fewer than 256 descriptors are in flight. -/
def Cl.entryFree (x : Cl) (j : Job) : Bool :=
  x.flight.length < 256 &&
    (j.ring.isSome || x.cqUsed + (x.flight.filter fun k => k.ring.isNone).length < 256)

/-- Whether slot ranges meet. -/
def slotsMeet (a b : Ranges) : Bool := anyOverlap a b

/-- A codebook load accepted before place `ord` whose instant has not come names some of the slots (R36). -/
def State.loadPending (s : State) (ord : Nat) (rs : Ranges) : Bool :=
  s.cl.any fun p => p.2.allJobs.any fun k =>
    fld k.desc 0 8 = 0x30 && k.ord < ord && (k.ph = .queued || k.ph = .run) && slotsMeet k.cbs rs

/-- An operation accepted before place `ord` that names some of the slots has not completed (R36). -/
def State.namedBefore (s : State) (ord : Nat) (rs : Ranges) : Bool :=
  (s.cl.any fun p => p.2.allJobs.any fun k => k.ord < ord && slotsMeet k.cbs rs)
  || (s.lnk.eng.any fun p => p.2.jobs.any fun k => k.seq.isNone && k.ord < ord && slotsMeet k.cbs rs)
  || s.stw.jobs.any fun k => k.ord < ord && slotsMeet k.cbs rs

/-- Largest declaration that gives cover (R175). -/
def Cl.cover (x : Cl) : Nat := (x.decls.filter (·.mature)).foldl (fun m d => max m d.tiles) 0

/-- Forecast cover for a tile operation. -/
def Cl.covered (x : Cl) (j : Job) : Bool := x.needTiles (fld j.desc 256 32) ≤ x.cover

/-- The notice a tile operation needs when every tile is idle (R173). -/
def Cl.noticed (x : Cl) : Bool :=
  !x.busyTiles.isEmpty || (match x.notice with | some v => v.leadDone | none => false)

/-- The conditions of R161 but for the point and the cover, and those of R157, R224 and R368 on the device, the map and
the region. -/
def State.canDispatch (s : State) (c : Nat) (j : Job) : Bool :=
  let x := s.clus c
  let opc := fld j.desc 0 8
  let h := whdrOf j.desc
  s.admits opc && !s.dev.restartDue && !x.halted && x.clk.stopAt.isNone && (x.region = .active || (x.region = .twilight && !isDatapath opc))
  && (!h.wen || s.waitMet h.wobj h.wgen h.wthr) && !x.hazard j && !x.fenced j && x.unitsFree j && x.entryFree j
  && (!isColl opc || s.engFree (dieOf c))
  && !s.loadPending j.ord j.cbs && !s.heldBack j.ord

/-! ### Checks at dispatch -/

/-- A header's checks by R33 and R37, against die d's codebooks: status. -/
def State.hdrCheck (s : State) (d a : Nat) : Nat :=
  if !s.dataOk a 64 then 0x10
  else
    let h := s.hdrAt a
    if !s.hdrOk h then 0x10 else s.hdrCb d h

/-- The worst of some check results in the order of R13. -/
def worst (l : List Nat) : Nat :=
  if l.contains 0x10 then 0x10 else if l.contains 0x11 then 0x11 else if l.contains 0x21 then 0x21
  else if l.contains 0x51 then 0x51 else 0

/-- Checks of a control block and its output header (R63). -/
def State.rqCheck (s : State) (d q : Nat) : Nat :=
  let b := rqcbOf (s.peek64 q)
  if !b.ok || !s.dataOk b.outhdr 64 then 0x10
  else
    let h := s.hdrAt b.outhdr
    if h.k % b.rotN != 0 && b.rot != 0 then 0x10 else s.hdrCheck d b.outhdr

/-- Whole units (R64) for columns [c0, c1) and rows [r0, r1). -/
def unitsOk (b : Rqcb) (h : Hdr) (c0 c1 r0 r1 : Nat) : Bool :=
  let w := unitWidth b (h.outl != 0)
  c0 % w = 0 && (c1 % w = 0 || c1 = h.k) && (h.outl = 0 || (r0 % 32 = 0 && (r1 % 32 = 0 || r1 = h.rows)))

/-- Longest reduction of R50. -/
def kLimit (fa fb : Nat) : Nat := if pairI16 fa fb then 2 ^ 17 else if fa = 0 && fb = 0 then 2 ^ 24 else 2 ^ 25

/-- One pair of a tile operation against its headers (R33, R37, R39, R40, R50, R84, R158). A wide pair of Table 1.5 that
does not run in I16 mode (R57) is MALFORMED. DESIGN CHOICE (log 64): R57 names no status. -/
def State.pairCheck (s : State) (d : Nat) (a : TArgs) (wide : Bool) : Nat :=
  let ca := s.hdrCheck d a.ahdr
  let cb := s.hdrCheck d a.bhdr
  let x := s.hdrAt a.ahdr
  let y := s.hdrAt a.bhdr
  if ca = 0x10 || cb = 0x10 then 0x10
  else if a.arow0 + a.m > x.rows || a.brow0 + a.n > y.rows || a.k0 ≥ x.k || a.k0 ≥ y.k then 0x10
  else if a.k0 % 256 != 0 && (x.outl != 0 || y.outl != 0) then 0x10
  else if pairOk x.fmt y.fmt && a.k > kLimit x.fmt y.fmt then 0x10
  else if !pairOk x.fmt y.fmt then 0x11
  else if wide && !pairI16 x.fmt y.fmt then 0x10
  else worst [ca, cb]

/-- Checks of a tile operation at dispatch. -/
def State.tileCheck (s : State) (d : Nat) (b : Block64) : Nat :=
  let t := tbodyOf b
  let a := targsOf (s.peek64 t.args)
  let out :=
    if t.dest then (if a.orow0 != 0 || a.ocol0 != 0 then 0x10 else 0)
    else
      let q := rqcbOf (s.peek64 a.rqcb)
      let r := s.rqCheck d a.rqcb
      let h := s.hdrAt q.outhdr
      if r = 0x10 then 0x10
      else if a.orow0 + a.m > h.rows || a.ocol0 + a.n > h.k then 0x10
      else if !unitsOk q h a.ocol0 (a.ocol0 + a.n) a.orow0 (a.orow0 + a.m) then 0x10 else r
  let wide := if fld b 0 8 = 2 then s.pairCheck d (targsOf (s.peek64 t.wargs)) true else 0
  worst [s.pairCheck d a false, out, wide]

/-- Checks of a vector program's handles and control blocks (R132). -/
def State.vecCheck (s : State) (d : Nat) (b : Block64) : Nat :=
  let v := s.vargs b
  let hs := v.h.map fun a => if a = 0 then 0 else s.hdrCheck d a
  let qs := v.q.map fun q => if q = 0 then 0 else if !s.dataOk q 64 then 0x10 else s.rqCheck d q
  worst (hs ++ qs)

/-- Whether an owner (R193) may name a reservation number. -/
def State.resOk (s : State) (owner i : Nat) : Bool :=
  i = 0 || (match SMap.find i s.resTab with | some e => fld e 48 7 = owner | none => false)

/-- Reservation checks of R193. -/
def State.resPairOk (s : State) (owner a b : Nat) : Bool := s.resOk owner a && s.resOk owner b && (a = 0 || a != b)

/-- Fields of the argument block that a mode does not use are zero (Table 6.3). -/
def SArgs.usedOk (a : SArgs) (mode : Nat) : Bool :=
  a.resOk &&
  (if mode = 0 then a.idx = 0 && a.row0 = 0 && a.k0 = 0 && a.klen = 0
   else if mode = 1 then a.dst = 0 && a.idx = 0 && a.rbytes = 0 && a.sstride = 0 && a.dstride = 0
   else if mode = 4 then a.dst = 0 && a.idx = 0 && a.row0 = 0 && a.k0 = 0 && a.klen = 0 && a.rbytes = 0
     && a.sstride = 0 && a.dstride = 0
   else a.rbytes = 0 && a.sstride = 0 && a.dstride = 0)

/-- Rules on a panel's range of a tensor (R187). -/
def rangeOk (h : Hdr) (a : SArgs) : Bool :=
  a.k0 % 32 = 0 && (h.outl = 0 || (a.k0 % 256 = 0 && a.row0 % 32 = 0)) && a.k0 < h.k && a.klen != 0

/-- Same formats and codebooks of source and destination (R189). -/
def sameForm (x y : Hdr) : Bool :=
  x.fmt = y.fmt && (!x.isQ || (x.ncb = 0 && y.ncb = 0 && x.cbslot = y.cbslot && x.cbgen = y.cbgen && x.et = y.et
    && x.outl = 0 && y.outl = 0))

/-- Checks of a stream at dispatch (R187). -/
def State.streamCheck (s : State) (c : Nat) (b : Block64) : Nat :=
  let y := sbodyOf b
  let a := sargsOf (s.peek64 y.args)
  let x := s.clus c
  let pair := y.mode = 0 || (y.mode = 1 && (y.dkind = 1 || y.dkind = 2)) || (y.mode = 2 && y.dkind != 1)
    || (y.mode = 3 && y.dkind = 0) || (y.mode = 4 && y.dkind = 0)
  let n := slotsOf (s.destSize y a)
  let lim := if y.dkind = 1 then 32 else 736
  let hs := s.hdrAt a.src
  let hd := s.hdrAt a.dst
  let two := y.mode = 2 || y.mode = 3
  let cs := if y.mode = 1 || two then s.hdrCheck (dieOf c) a.src else 0
  let cd := if two then s.hdrCheck (dieOf c) a.dst else 0
  if !pair || !a.usedOk y.mode
      || (y.dkind != 1 && y.tmask != 0) || (y.dkind = 0 && y.dslot != 0)
      || (y.dkind = 1 && Nat.lor y.tmask (s.availMask c) != s.availMask c)
      || (y.srcb && y.mode != 1) || !s.resPairOk c y.resid y.resid2
      || (y.dkind != 0 && y.dslot + n > lim) || cs = 0x10 || cd = 0x10 then 0x10
  else if y.mode = 0 then
    let last := if a.nrows = 0 then 0 else (a.nrows - 1) * a.sstride + a.rbytes
    let dlast := if a.nrows = 0 then 0 else (a.nrows - 1) * a.dstride + a.rbytes
    if a.rbytes = 0 || !s.dataOk a.src last || (y.dkind = 0 && !s.dataOk a.dst dlast)
      || (y.dkind != 0 && a.dst != 0) || (a.nrows > 1 && a.dstride < a.rbytes) then 0x10 else 0
  else if y.mode = 4 then
    if a.src % 4096 != 0 || !s.inHbm a.src (4096 * a.nrows) then 0x10 else 0
  else
    let src := y.srcb && !(x.live 32).any fun z => z.covers a.src a.row0 a.nrows a.k0 (min (a.k0 + a.klen) hs.k)
    let coming := (x.flight.filter fun k => fld k.desc 0 8 = 0x10 &&
      (sbodyOf k.desc).dkind = 2 && ((sbodyOf k.desc).binding (sargsOf (s.peek64 (sbodyOf k.desc).args))).isSome).length
    let full := y.dkind = 2 && (y.binding a).isSome && (s.evict y.dslot n (x.live 32)).length + coming ≥ 64
    if !rangeOk hs a || src || full || (y.dkind = 1 && a.nrows > 32) then 0x10
    else if y.mode = 1 then (if a.row0 + a.nrows > hs.rows then 0x10 else cs)
    else
      let rows := if y.mode = 2 then hd.rows else hs.rows
      if !sameForm hs hd || a.k0 ≥ hd.k || a.idx % 4 != 0 || !s.dataOk a.idx (4 * a.nrows)
        || a.row0 + a.nrows > rows then 0x10 else worst [cs, cd]

/-- One end of a Comet transfer lies in memory within one block (R196). -/
def State.cometEnd (s : State) (a len : Nat) : Bool := s.dataOk a len && a / 4096 = (a + len - 1) / 4096

/-- Checks of a COMET at dispatch: status and offset. -/
def State.cometCheck (s : State) (b : Block64) : Nat × Nat :=
  let len := fld b 288 13
  if fld b 256 1 = 0 && !s.cometEnd (fld b 320 48) len then (0x10, 40)
  else if !s.cometEnd (fld b 384 48) len then (0x10, 48) else (0, 0)

/-- Blocks of some ranges all hold a class. -/
def State.allClass (s : State) (rs : Ranges) (k : Nat) : Bool :=
  rs.all fun r => (pieces 4096 r.1 r.2).all fun p => s.classOf p.1 = k

/-- Source ranges of a descriptor whose class it may claim (Table 15.11). -/
def State.srcRanges (s : State) (b : Block64) : Ranges :=
  if fld b 0 8 = 0x11 then [(fld b 320 48, fld b 288 13)]
  else
    let y := sbodyOf b
    let a := sargsOf (s.peek64 y.args)
    if y.mode = 0 then (if a.nrows = 0 then [] else [(a.src, (a.nrows - 1) * a.sstride + a.rbytes)])
    else if y.srcb then [] else s.tensorRanges a.src

/-- The release check (R447): a claim that Table 15.11 does not allow. -/
def State.claimBad (s : State) (b : Block64) : Bool :=
  let opc := fld b 0 8
  let k := fld b 24 4
  if !s.sec.sealMem || k = 0 then false
  else if opc = 0x03 then k != 2
  else if opc = 0x10 then (sbodyOf b).mode = 4 || !s.allClass (s.srcRanges b) k
  else if opc = 0x11 then fld b 256 1 = 1 || !s.allClass (s.srcRanges b) k
  else isTileOp opc

/-- Structures a descriptor names, read for its checks (R201). -/
def State.checkReads (s : State) (b : Block64) : Ranges :=
  let opc := fld b 0 8
  let rq := fun (q : Nat) => if q = 0 then [] else (s.rqRanges q).1
  let hd := fun (a : Nat) => if a = 0 then [] else s.hdrRanges a
  if isTileOp opc then
    let t := tbodyOf b
    let a := targsOf (s.peek64 t.args)
    let w := targsOf (s.peek64 t.wargs)
    hd a.ahdr ++ hd a.bhdr ++ rq a.rqcb ++ (if opc = 2 then hd w.ahdr ++ hd w.bhdr else [])
  else if opc = 0x03 then
    let v := s.vargs b
    (v.args, 192) :: (v.h.flatMap hd ++ v.q.flatMap rq)
  else if opc = 0x10 then
    let y := sbodyOf b
    let a := sargsOf (s.peek64 y.args)
    (y.args, 64) :: (if y.mode = 0 || y.mode = 4 then [] else hd a.src ++ (if y.mode = 1 then [] else hd a.dst))
  else []

/-- The checks at dispatch in the order of R13, in the map of the descriptor's acceptance (R9): status and offset. -/
def State.dispatchCheck (s : State) (c : Nat) (j : Job) (errs : Errs) : (Nat × Nat) × State :=
  let b := j.desc
  let opc := fld b 0 8
  let (st, s) := s.fetch (.sequencer (Fin.ofNat 96 c)) (fld b 32 16) (s.checkReads b) errs
  if st != 0 then ((st, 0), s)
  else
    let m := s.mapOf j.ord
    let (r, o) :=
      if isTileOp opc then (m.tileCheck (dieOf c) b, 0xFF)
      else if opc = 0x03 then (m.vecCheck (dieOf c) b, 0xFF)
      else if opc = 0x10 then (m.streamCheck c b, 0xFF)
      else if opc = 0x11 then m.cometCheck b
      else if opc = 0x30 then ((if m.dataOk (fld b 256 48) (512 * fld b 336 8) then 0 else 0x10), 32)
      else (0, 0)
    if r != 0 then ((r, if r = 0x10 || r = 0x11 then o else 0), s)
    else if s.claimBad b then ((0x51, 0), s) else ((0, 0), s)

/-! ### Completion -/

/-- What a stream that completes leaves in the binding tables (R181): with OK its binding joins the live table; one that
ends in error adds none, and what its issue added to the shadow table goes. -/
def State.bindEnd (s : State) (c : Nat) (j : Job) (status : Nat) : State :=
  let y := sbodyOf j.desc
  match (if fld j.desc 0 8 = 0x10 then y.binding (sargsOf (s.peek64 y.args)) else none) with
  | some z => s.onClus c fun x => y.dests.foldl (fun x t =>
      if status ≤ 1 then x.setLive t (x.live t ++ [z]) else x.setShadow t ((x.shadow t).erase z)) x
  | none => s

/-- A descriptor that completes with a status: its slip, whose event makes an OK one OK_WITH_EVENTS (R12), its binding, its
end, and what then stands at the heads of its queues. -/
def State.fin (s : State) (c : Nat) (j : Job) (status off : Nat) : State :=
  let s := s.slip c j
  let j := ((s.clus c).allJobs.find? fun k => k.n = j.n).getD j
  let status := if status = 0 && j.ev then 1 else status
  ((s.bindEnd c j status).endJob c j status off).heads c

/-- The work of a descriptor is done with a status. -/
def State.worked (s : State) (c n status off : Nat) : State :=
  s.onJob c n fun j => { j with ph := .worked, status := BitVec.ofNat 8 status, off := BitVec.ofNat 8 off }

/-- A tile operation as read at its start (R56). For a TILE_OP the wide pair repeats the narrow one. -/
def State.tileOpOf (s : State) (b : Block64) : TileOp :=
  let t := tbodyOf b
  let a := targsOf (s.peek64 t.args)
  let w := if fld b 0 8 = 2 then targsOf (s.peek64 t.wargs) else a
  let q := rqcbOf (s.peek64 a.rqcb)
  ⟨a, s.tensAt a.ahdr, s.tensAt a.bhdr, w, s.tensAt w.ahdr, s.tensAt w.bhdr, q, s.tensAt q.outhdr⟩

/-- A vector operation as read at its dispatch, with the base exponents of its acceptance (R126). DEDUCED (log 76): when the
rest is read. -/
def State.vecOpOf (s : State) (j : Job) : VecOp :=
  let a := s.vargs j.desc
  let ts := (List.zip a.h j.ets).map fun p =>
    let t := s.tensAt p.1
    { t with h := { t.h with et := p.2 } }
  ⟨a, ts, a.q.map fun q => rqcbOf (s.peek64 q)⟩

/-- DISPATCH (R161): the head of a queue goes to its units when every condition holds. A hold for forecast cover is
counted once (R175); a raise of the requested point comes first (R371). -/
def execDispatch (c : Cluster) (q : Fin 8) (errs : Errs) (s : State) : Host.Outcome State Fault Refusal :=
  let x := s.clus c.val
  match (x.qAt q).head? with
  | none => .next s
  | some j =>
    let opc := fld j.desc 0 8
    if !s.canDispatch c.val j then .next s
    else if isTileOp opc && !x.covered j then
      if j.holdSeen then .next s
      else .next (((s.onJob c.val j.n fun k => { k with holdSeen := true, cause := k.cause ||| 32 }).flag
        (R.seqStat c.val) 2 (R.seqHoldcnt c.val) 1).heads c.val)
    else if isTileOp opc && !x.noticed then .next s
    else
      let want := if isDatapath opc then
        (let p := s.tagPoint (dieOf c.val) (fld j.desc 16 8)
         match s.wanted c.val with | some k => max k p | none => p) else x.clk.want.val
      let s := s.onClus c.val fun x => { x with clk := { x.clk with want := Fin.ofNat 8 want } }
      if isDatapath opc && s.cluPoint c.val want > x.clk.op.val then .next s
      else
        let s := s.causes c.val
        let ((st, off), s) := s.dispatchCheck c.val j errs
        let j := ((s.clus c.val).allJobs.find? fun k => k.n = j.n).getD j
        if st != 0 then .next (s.fin c.val j st off)
        else
          let y := sbodyOf j.desc
          let a := sargsOf (s.peek64 y.args)
          let n := slotsOf (s.destSize y a)
          let s := (s.onClus c.val fun x =>
            let x := x.setQ q ((x.qAt q).drop 1)
            let top := if isTileOp opc then some (s.tileOpOf j.desc) else none
            let vop := if opc = 0x03 then some (s.vecOpOf j) else none
            let x := { x with flight := x.flight ++ [{ j with ph := .run, disp := s.ticks, top, vop }] }
            if opc = 0x10 then y.dests.foldl (fun x t => x.setLive t (s.evict y.dslot n (x.live t))) x else x)
          let s := if isColl opc then s.collAdd (dieOf c.val) j.desc none (some (c.val, j.n)) j.ord j.cbs else s
          .next (s.heads c.val)

/-- DESCRIPTOR_COMPLETE (R163): the work is done; the signal is sent, and without one the descriptor ends. `busy` is the
time in core cycles that R372 measures. -/
def execDescriptorComplete (c : Cluster) (n busy : Nat) (s : State) : Host.Outcome State Fault Refusal :=
  match (s.clus c.val).inFlight n with
  | none => .next s
  | some j =>
    if j.ph != .worked then .next s
    else
      let s := s.learnDemand c.val j busy
      let h := whdrOf j.desc
      if j.status != 0 then .next (s.fin c.val j j.status.toNat j.off.toNat)
      else if h.sen then
        .next ((s.onJob c.val n fun k => { k with ph := .signalled }).send h.sobj (BitVec.ofNat 16 h.sgen) h.sinc
          (.seq c.val n))
      else .next (s.fin c.val j (if j.ev then 1 else 0) 0)

/-- SIGNAL_APPLY (R164 to R167): signal i of those on the control network reaches its object, and the descriptor that
sent it ends with the outcome. -/
def execSignalApply (i : Nat) (s : State) : Host.Outcome State Fault Refusal :=
  match s.sync.flying[i]? with
  | none => .next s
  | some g =>
    let s := { s with sync := { s.sync with flying := s.sync.flying.eraseIdx i } }
    let (o, s) := s.arrive g.obj g.gen g.inc g.sent
    match g.origin with
    | .seq c n =>
      match (s.clus c).inFlight n with
      | some j => .next (s.fin c j (if o = .stale then 0x21 else if j.ev then 1 else 0) 0)
      | none => .next s
    | g => .next (s.signalled g o)

/-- A descriptor in flight whose work has not been done, with the opcode of its row. -/
def State.runJob (s : State) (c n opc : Nat) : Option Job :=
  match (s.clus c).inFlight n with
  | some j => if j.ph = .run && fld j.desc 0 8 = opc then some j else none
  | none => none

/-- SYNC (Table 5.5): no work. -/
def execSync (c : Cluster) (n : Nat) (s : State) : Host.Outcome State Fault Refusal :=
  match s.runJob c.val n 0x20 with
  | some _ => .next (s.worked c.val n 0 0)
  | none => .next s

/-- SYNC_RESET (R166): every named object is reset, at once or once the spacing allows. -/
def execSyncReset (c : Cluster) (n : Nat) (s : State) : Host.Outcome State Fault Refusal :=
  match s.runJob c.val n 0x21 with
  | none => .next s
  | some j =>
    if !j.resets.isEmpty then .next s
    else
      let first := fld j.desc 256 14
      let objs := (List.range (fld j.desc 272 16)).map (first + ·)
      let (s, held) := objs.foldl (fun (a : State × List Nat) o =>
        if a.1.resetDue (a.1.obj o).resetAt then (a.1.resetObj o, a.2) else (a.1, o :: a.2)) (s, [])
      if held.isEmpty then .next (s.worked c.val n 0 0)
      else
        let more := held.reverse.map fun o => (o, some (c.val, n))
        let s := { s with sync := { s.sync with resets := s.sync.resets ++ more } }
        .next (s.onJob c.val n fun k => { k with resets := held.reverse })

/-! ### Codebook loads (R35, R36) -/

/-- Levels of a 512-byte image. -/
def imgOf (bs : List Byte) : List (BitVec 16) := (List.range 256).map fun i => BitVec.ofNat 16 (leAt bs (2 * i) 2)

def strictRise : List Int → Bool
  | [] => true
  | [_] => true
  | a :: b :: t => a < b && strictRise (b :: t)

/-- An image that R35 takes: levels strictly ascending, in range, with level 0, and unused entries zero. -/
def imgOk (fmt : Nat) (img : List (BitVec 16)) : Bool :=
  let n := if fmt = 0 then 16 else 256
  let hi : Int := if fmt = 0 then 31 else 2047
  let lv := (img.take n).map fun w => sx 16 w.toNat
  strictRise lv && lv.contains 0 && lv.all (fun v => -hi ≤ v && v ≤ hi) && (img.drop n).all (· = 0)

/-- CB_LOAD (R35): the images are read and checked, and their switch becomes due. -/
def execCbLoad (c : Cluster) (n : Nat) (errs : Errs) (s : State) : Host.Outcome State Fault Refusal :=
  match s.runJob c.val n 0x30 with
  | none => .next s
  | some j =>
    if s.cbLoads.any fun l => l.c = c.val && l.n = n then .next s
    else
      let b := j.desc
      let src := fld b 256 48
      let first := fld b 320 10
      let cnt := fld b 336 8
      let fmt := fld b 344 8
      let gen := fld b 352 16
      let ((st, bs), s) := s.memRead (.sequencer c) (fld b 32 16) src (512 * cnt) errs
      if st != 0 then .next (s.worked c.val n st 0)
      else
        let imgs := (List.range cnt).map fun i => imgOf ((bs.drop (512 * i)).take 512)
        let same := (List.range cnt).any fun i => (s.slot (dieOf c.val) (first + i)).gen.toNat = gen
        if !imgs.all (imgOk fmt) then .next (s.worked c.val n 0x10 0xFF)
        else if same then .next (s.worked c.val n 0x10 44)
        else .next { s with cbLoads := s.cbLoads ++ [⟨c.val, n, first, cbStOf fmt, BitVec.ofNat 16 gen, imgs⟩] }

/-- Residues of the levels of an image, computed as it is loaded (R54). -/
def levelResidues (img : List (BitVec 16)) : List (BitVec 3) := img.map fun w => resOf (sx 16 w.toNat)

/-- CODEBOOK_SWITCH (R36): the oldest load whose earlier operations have all completed takes effect in every slot and
on every die at once. -/
def execCodebookSwitch (s : State) : Host.Outcome State Fault Refusal :=
  let ready := s.cbLoads.find? fun l =>
    match (s.clus l.c).inFlight l.n with
    | some j => !s.namedBefore j.ord j.cbs
    | none => false
  match ready with
  | none => .next s
  | some l =>
    let cb := (List.range 4).foldl (fun m d => l.imgs.zipIdx.foldl (fun m p =>
      SMap.put (1024 * d + l.first + p.2) ⟨l.fmt, l.gen, p.1, levelResidues p.1⟩ m) m) s.cb
    .next ({ s with cb, cbLoads := s.cbLoads.erase l }.worked l.c l.n 0 0)

end Sys2Proof.Machine
end

