-- ==== Sys2Proof/Machine/Streams.lean ====
section
/-!
DEFINITION. Stream engines and the Comet path: COPY, PLACE, GATHER, SCATTER and CKBUILD (R180, R186 to R191, R198), and
COMET (R196, R197).
-/

namespace Sys2Proof.Machine

/-- A tensor's stored parts as bytes: a block of codes, an integer element, an exponent nibble, a group record, and an
escape entry by bucket, group and index. -/
structure RawT where
  blk : Nat → Nat → List Byte
  elem : Nat → Nat → List Byte
  exp : Nat → Nat → Nat
  grec : Nat → Nat → List Byte
  esc : Nat → Nat → Nat → List Byte

/-- The parts of a tensor in memory (R28 to R31, R76 to R78). -/
def State.memRaw (s : State) (h : Hdr) : RawT :=
  let o := s.outlAt h
  let gtab := match o with | some o => o.gtab | none => 0
  let pool := match o with | some o => o.pool | none => 0
  let epb := match o with | some o => o.epb | none => 0
  { blk := fun r b => s.mem.bytes (h.codes + r * h.cstride + b * blkBytes h.fmt) (blkBytes h.fmt)
    elem := fun r k => s.mem.bytes (h.codes + r * h.cstride + k * intBytes h.fmt) (intBytes h.fmt)
    exp := fun r b => nib (leNat (s.mem.bytes (h.exps + r * h.estride + b / 2) 1)) (b % 2 = 1)
    grec := fun r g => s.mem.bytes (gtab + 16 * (r * h.gpr + g)) 16
    esc := fun bk g ix => s.mem.bytes (pool + 272 * ((bk * h.gpr + g) * epb + ix)) 272 }

/-- The parts of a panel in the cluster buffer (R180). -/
def State.panelRaw (s : State) (m : Mem) (b : Binding) : RawT :=
  let h := s.hdrAt b.hdr
  let o := s.outlAt h
  let p := panelOf h o b.nrows b.klen
  let w := Mem.slice m (b.slot * 8192) p.size
  let at_ := fun (i n : Nat) => Mem.bytes w (b.slot * 8192 + i) n
  let epb := match o with | some o => o.epb | none => 0
  { blk := fun r k => at_ ((r - b.row0) * p.cb + (k - b.k0 / 32) * blkBytes h.fmt) (blkBytes h.fmt)
    elem := fun r k => at_ ((r - b.row0) * p.cb + (k - b.k0) * intBytes h.fmt) (intBytes h.fmt)
    exp := fun r k =>
      let j := k - b.k0 / 32
      nib (leNat (at_ (p.exps + (r - b.row0) * p.eb + j / 2) 1)) (j % 2 = 1)
    grec := fun r g => at_ (p.recs + 16 * ((r - b.row0) * p.ng + (g - b.k0 / 256))) 16
    esc := fun bk g ix => at_ (p.esc + 272 * (((bk - b.row0 / 32) * p.ng + (g - b.k0 / 256)) * epb + ix)) 272 }

/-- Codes of a block with the positions from `lim` on written as 0 (R31): `k` is the block's first position. -/
def padCodes (fmt : Nat) (bs : List Byte) (k lim : Nat) : List Byte :=
  if k + 32 ≤ lim then bs
  else
    let codes := (List.range 32).map fun i =>
      if k + i ≥ lim then 0
      else if fmt = 0 then nib (leAt bs (i / 2) 1) (i % 2 = 1) else leAt bs i 1
    if fmt = 0 then packNibs codes else codes.map (BitVec.ofNat 8)

/-- A source row: the row of the tensor, or none for a padded row of a GATHER (R190). -/
abbrev RowSrc := Option Nat

/-- Codes and exponent of block b of a row: a zero block, whose codes are written as 0 (R31), where the block is one, lies at
or beyond `lim`, or the row is padded. -/
def RawT.block (t : RawT) (fmt : Nat) (r : RowSrc) (b lim : Nat) : List Byte × Nat :=
  match r with
  | none => (List.replicate (blkBytes fmt) 0, 15)
  | some r => if 32 * b ≥ lim || t.exp r b = 15 then (List.replicate (blkBytes fmt) 0, 15) else (padCodes fmt (t.blk r b) (32 * b) lim, t.exp r b)

def RawT.intEl (t : RawT) (fmt : Nat) (r : RowSrc) (k lim : Nat) : List Byte :=
  match r with
  | none => List.replicate (intBytes fmt) 0
  | some r => if k ≥ lim then List.replicate (intBytes fmt) 0 else t.elem r k

/-- Bytes of a panel (R180): `rows` are its source rows, `lim` the source's K. Exponent nibbles that no block uses hold
15. -/
def panelBytes (h : Hdr) (o : Option OutlHdr) (t : RawT) (rows : List RowSrc) (row0 k0 klen : Nat) : List Byte :=
  let nb := ceilDiv klen 32
  let p := panelOf h o rows.length klen
  let ng := ceilDiv klen 256
  let codes := rows.flatMap fun r =>
    let bs := if h.isQ then (List.range nb).flatMap fun b => (t.block h.fmt r (k0 / 32 + b) h.k).1
      else (List.range klen).flatMap fun i => t.intEl h.fmt r (k0 + i) h.k
    bs ++ List.replicate (p.cb - bs.length) 0
  let exps := if h.isQ then rows.flatMap fun r =>
      packNibs ((List.range (2 * p.eb)).map fun b =>
        if b < nb then (t.block h.fmt r (k0 / 32 + b) h.k).2 else 15) else []
  match o with
  | none => codes ++ exps
  | some o =>
    let inK := fun (g : Nat) => 256 * g < h.k
    let recs := rows.flatMap fun r => (List.range ng).flatMap fun g =>
      match r with
      | some r => if inK (k0 / 256 + g) then t.grec r (k0 / 256 + g) else List.replicate 16 0
      | none => List.replicate 16 0
    let esc := (List.range (ceilDiv rows.length 32)).flatMap fun bk => (List.range ng).flatMap fun g =>
      (List.range o.epb).flatMap fun ix =>
        if inK (k0 / 256 + g) then t.esc (row0 / 32 + bk) (k0 / 256 + g) ix else List.replicate 272 0
    codes ++ exps ++ recs ++ esc

/-- Byte ranges of rows and positions of a tensor in memory: codes and exponents of one row. -/
def Hdr.rowRanges (h : Hdr) (r k0 klen : Nat) : Ranges :=
  if h.isQ then
    let b0 := k0 / 32
    let n := min (ceilDiv klen 32) (ceilDiv h.k 32 - b0)
    [(h.codes + r * h.cstride + b0 * blkBytes h.fmt, n * blkBytes h.fmt),
     (h.exps + r * h.estride + b0 / 2, (b0 + n + 1) / 2 - b0 / 2)]
  else [(h.codes + r * h.cstride + k0 * intBytes h.fmt, min klen (h.k - k0) * intBytes h.fmt)]

/-- Group records and escape entries that a panel holds. -/
def Hdr.groupRanges (h : Hdr) (o : Option OutlHdr) (row0 nrows k0 klen : Nat) : Ranges :=
  match o with
  | none => []
  | some o =>
    let g0 := k0 / 256
    let ng := min (ceilDiv klen 256) (h.gpr - g0)
    ((List.range nrows).map fun i => (o.gtab + 16 * ((row0 + i) * h.gpr + g0), 16 * ng)) ++
    (if o.epb = 0 then [] else (List.range (ceilDiv nrows 32)).map fun bk =>
      (o.pool + 272 * (((row0 / 32 + bk) * h.gpr + g0) * o.epb), 272 * ng * o.epb))

/-- A descriptor of a stream mode in flight. -/
def State.streamJob (s : State) (c n mode : Nat) : Option Job :=
  match s.runJob c n 0x10 with
  | some j => if fld j.desc 259 3 = mode then some j else none
  | none => none

def streamClient (c : Nat) (se : Nat) : Client := .stream (Fin.ofNat 96 c) (Fin.ofNat 8 se)

/-- Bytes into every named local memory, from byte `at_` of it. -/
def State.putLocal (s : State) (c : Nat) (ts : List Nat) (at_ : Nat) (bs : List Byte) : State :=
  s.onClus c fun x => ts.foldl (fun x t => x.setLocalMem t ((x.localMem t).write at_ bs)) x

/-- COPY (R186): rows of raw bytes. -/
def execCopy (c : Cluster) (n : Nat) (errs : Errs) (s : State) : Host.Outcome State Fault Refusal :=
  match s.streamJob c.val n 0 with
  | none => .next s
  | some j =>
    let y := sbodyOf j.desc
    let a := sargsOf (s.peek64 y.args)
    let who := streamClient c.val y.se
    let (st, s) := (List.range a.nrows).foldl (fun (r : Nat × State) i =>
      if r.1 != 0 then r
      else
        let ((st, bs), s) := r.2.memRead who (fld j.desc 32 16) (a.src + i * a.sstride) a.rbytes errs
        if st != 0 then (st, s)
        else if y.dkind = 0 then s.memWrite who (a.dst + i * a.dstride) bs (fld j.desc 24 4) errs
        else (0, s.putLocal c.val y.dests (y.dslot * 8192 + i * a.dstride) bs)) (0, s)
    .next (s.worked c.val n st 0)

/-- PLACE (R180, R186): a panel; its binding follows at completion (R181). -/
def execPlace (c : Cluster) (n : Nat) (errs : Errs) (s : State) : Host.Outcome State Fault Refusal :=
  match s.streamJob c.val n 1 with
  | none => .next s
  | some j =>
    let y := sbodyOf j.desc
    let a := sargsOf (s.peek64 y.args)
    let h := s.hdrAt a.src
    let o := s.outlAt h
    let rows := (List.range a.nrows).map fun i => (some (a.row0 + i) : RowSrc)
    if a.nrows = 0 then .next (s.worked c.val n 0 0)
    else if y.srcb then
      match ((s.clus c.val).live 32).find? fun z => z.covers a.src a.row0 a.nrows a.k0 (min (a.k0 + a.klen) h.k) with
      | none => .next (s.worked c.val n 0x10 0)
      | some z =>
        let t := s.panelRaw (s.clus c.val).buf z
        let bs := panelBytes h o t rows a.row0 a.k0 a.klen
        .next ((s.putLocal c.val y.dests (y.dslot * 8192) bs).worked c.val n 0 0)
    else
      let rs := (List.range a.nrows).flatMap (fun i => h.rowRanges (a.row0 + i) a.k0 a.klen)
        ++ h.groupRanges o a.row0 a.nrows a.k0 a.klen
      let (st, _, s) := s.readAll (streamClient c.val y.se) (fld j.desc 32 16) rs errs
      if st != 0 then .next (s.worked c.val n st 0)
      else
        let bs := panelBytes h o (s.memRaw h) rows a.row0 a.k0 a.klen
        .next ((s.putLocal c.val y.dests (y.dslot * 8192) bs).worked c.val n 0 0)

/-- Indices of an index array (R188). -/
def idxOf (bs : List Byte) (n : Nat) : List Nat := (List.range n).map fun i => leAt bs (4 * i) 4

/-- Out-of-range indices (R190): counted, and reported once for the descriptor. -/
def State.badIdx (s : State) (c : Nat) (j : Job) (bad : List Nat) : State :=
  match bad with
  | [] => s
  | i :: _ =>
    let s := s.flag (R.stmStat c) 1 (R.stmIdxcnt c) bad.length
    let s := s.raise 0x1401 (srcCl c 3 (fld j.desc 256 3)) (fld j.desc 32 16) i bad.length
    s.onJob c j.n fun k => { k with ev := true }

/-- Write of a row of blocks or elements into a tensor in memory (R188): positions at or beyond its K are padding. -/
def State.putRow (s : State) (who : Client) (h : Hdr) (t : RawT) (r : RowSrc) (srcK dst k0 klen k : Nat) (errs : Errs) : Nat × State :=
  if h.isQ then
    let b0 := k0 / 32
    let nb := min (ceilDiv klen 32) (ceilDiv h.k 32 - b0)
    let bl := (List.range nb).map fun b => t.block h.fmt r (b0 + b) (min srcK h.k)
    let (st, s) := s.memWrite who (h.codes + dst * h.cstride + b0 * blkBytes h.fmt) (bl.flatMap (·.1)) k errs
    if st != 0 then (st, s)
    else
      let e0 := b0 / 2
      let e1 := (b0 + nb + 1) / 2
      let at_ := h.exps + dst * h.estride + e0
      let old := s.mem.bytes at_ (e1 - e0)
      let nibs := (List.range (2 * (e1 - e0))).map fun i =>
        let b := 2 * e0 + i
        if b0 ≤ b && b < b0 + nb then (bl.getD (b - b0) ([], 15)).2 else nib (leAt old (i / 2) 1) (i % 2 = 1)
      s.memWrite who at_ (packNibs nibs) k errs
  else
    let bs := (List.range (min klen (h.k - k0))).flatMap fun i => t.intEl h.fmt r (k0 + i) srcK
    s.memWrite who (h.codes + dst * h.cstride + k0 * intBytes h.fmt) bs k errs

/-- GATHER (R188 to R191): source row IDX[i] to destination row ROW0 + i, or to row i of a panel. -/
def execGather (c : Cluster) (n : Nat) (errs : Errs) (s : State) : Host.Outcome State Fault Refusal :=
  match s.streamJob c.val n 2 with
  | none => .next s
  | some j =>
    let y := sbodyOf j.desc
    let a := sargsOf (s.peek64 y.args)
    let hs := s.hdrAt a.src
    let hd := s.hdrAt a.dst
    let who := streamClient c.val y.se
    let tag := fld j.desc 32 16
    let ((st, ib), s) := s.memRead who tag a.idx (4 * a.nrows) errs
    if st != 0 then .next (s.worked c.val n st 0)
    else
      let idx := idxOf ib a.nrows
      let bad := idx.filter fun i => i ≥ hs.rows && i != 0xFFFFFFFF
      let s := s.badIdx c.val j bad
      let rows := idx.map fun i => if i ≥ hs.rows then (none : RowSrc) else some i
      let rs := rows.flatMap fun r => match r with | some r => hs.rowRanges r a.k0 a.klen | none => []
      let (st, _, s) := s.readAll who tag rs errs
      if st != 0 then .next (s.worked c.val n st 0)
      else
        let t := s.memRaw hs
        let (st, s) :=
          if y.dkind = 2 then
            (0, s.putLocal c.val [32] (y.dslot * 8192) (panelBytes { hd with k := min hs.k hd.k } none t rows 0 a.k0 a.klen))
          else rows.zipIdx.foldl (fun (r : Nat × State) p =>
            if r.1 != 0 then r
            else r.2.putRow who hd t p.1 hs.k (a.row0 + p.2) a.k0 a.klen (fld j.desc 24 4) errs) (0, s)
        .next (s.worked c.val n st 0)

/-- SCATTER (R188 to R191): source row ROW0 + i to destination row IDX[i], in ascending i. -/
def execScatter (c : Cluster) (n : Nat) (errs : Errs) (s : State) : Host.Outcome State Fault Refusal :=
  match s.streamJob c.val n 3 with
  | none => .next s
  | some j =>
    let y := sbodyOf j.desc
    let a := sargsOf (s.peek64 y.args)
    let hs := s.hdrAt a.src
    let hd := s.hdrAt a.dst
    let who := streamClient c.val y.se
    let tag := fld j.desc 32 16
    let ((st, ib), s) := s.memRead who tag a.idx (4 * a.nrows) errs
    if st != 0 then .next (s.worked c.val n st 0)
    else
      let idx := idxOf ib a.nrows
      let bad := idx.filter fun i => i ≥ hd.rows && i != 0xFFFFFFFF
      let s := s.badIdx c.val j bad
      let (st, s) := idx.zipIdx.foldl (fun (r : Nat × State) p =>
        if r.1 != 0 || p.1 ≥ hd.rows then r
        else
          let (st, _, s) := r.2.readAll who tag (hs.rowRanges (a.row0 + p.2) a.k0 a.klen) errs
          if st != 0 then (st, s)
          else s.putRow who hd (s.memRaw hs) (some (a.row0 + p.2)) hs.k p.1 a.k0 a.klen (fld j.desc 24 4) errs) (0, s)
      .next (s.worked c.val n st 0)

/-- Whether block b has an entry in the checksum table (R198). -/
def State.ckHas (s : State) (b : Nat) : Bool :=
  let base := s.rd R.stmCkbase
  let top := s.rd R.stmCktop
  b * 4096 < top && !(base < b * 4096 + 4096 && b * 4096 < base + top / 1024)

/-- CKBUILD (R186, R198): the entries of NROWS blocks from their data as read after array correction. -/
def execCkbuild (c : Cluster) (n : Nat) (errs : Errs) (s : State) : Host.Outcome State Fault Refusal :=
  match s.streamJob c.val n 4 with
  | none => .next s
  | some j =>
    let y := sbodyOf j.desc
    let a := sargsOf (s.peek64 y.args)
    let (st, s) := (List.range a.nrows).foldl (fun (r : Nat × State) i =>
      if r.1 != 0 then r
      else
        let b := a.src / 4096 + i
        let left := r.2.errsAfter (b * 4096) 4096 errs
        let s := (r.2.request (streamClient c.val y.se) (b * 4096)).closeRange (b * 4096) 4096 errs
        let (e, s) := s.eccHbm (b * 4096) 4096 left
        if e.ue then (0x32, s)
        else
          let (bs, s) := s.deliver (b * 4096) 4096 0 e.wrong
          if s.ckHas b then
            let s := { s with mem := s.mem.write (s.ckAt b) (natLe 4 (crc32c bs).toNat) }
            (0, { s.setClass (s.ckAt b) 4 0 with
                  shc := { s.shc with verified := s.shc.verified.filter (· != b) } })
          else (0, s)) (0, s)
    .next (s.worked c.val n st 0)

/-! ### The Comet path (R196, R197) -/

/-- Dies whose fabric a Comet transfer uses: its cluster's and those of the home slices at its ends. -/
def State.cometDies (s : State) (c : Nat) (b : Block64) : List Nat :=
  let ends := (if fld b 256 1 = 1 then [] else [fld b 320 48]) ++ [fld b 384 48]
  dieOf c :: (ends.filter (· < s.hbmEnd)).map fun a => s.homeSlice a / 32

/-- Ticks of a region's stop in force that lie after tick t. -/
def State.stopSince (s : State) (k : ClkSt) (t : Nat) : Nat :=
  match k.stopAt with
  | some u => s.ticks - max u t
  | none => 0

/-- A region's stop ends: its length adds to the bounds of the Comet transfers on whose path the region lies. -/
def State.stretchComets (s : State) (k : ClkSt) (onPath : Nat → Block64 → Bool) : State :=
  let f := fun (c : Nat) (j : Job) =>
    if fld j.desc 0 8 = 0x11 && onPath c j.desc then { j with stretch := j.stretch + s.stopSince k j.disp } else j
  { s with cl := s.cl.map fun p => (p.1, { p.2 with flight := p.2.flight.map (f p.1) }) }

/-- Nanoseconds by which a Comet transfer that ends now misses its bound: 4 µs from dispatch, 8 µs with an end in the host
window, and the stops on its path more. -/
def State.cometLate (s : State) (c : Nat) (j : Job) : Nat :=
  let b := j.desc
  let host := (fld b 256 1 = 0 && fld b 320 48 ≥ hostBase) || fld b 384 48 ≥ hostBase
  let now := s.stopSince (s.clus c).clk j.disp
    + (s.cometDies c b).eraseDups.foldl (fun n d => n + s.stopSince s.pw.dieClk[dieIx d] j.disp) 0
  (s.ticks - j.disp) * 10 - ((if host then 8000 else 4000) + (j.stretch + now) * 10)

/-- COMET (R196, R197): a small transfer; one that misses its bound still completes. -/
def execComet (c : Cluster) (n : Nat) (errs : Errs) (s : State) : Host.Outcome State Fault Refusal :=
  match s.runJob c.val n 0x11 with
  | none => .next s
  | some j =>
    let b := j.desc
    let tag := fld b 32 16
    let len := fld b 288 13
    let late := s.cometLate c.val j
    let ((st, bs), s) := if fld b 256 1 = 1 then ((0, natLe 8 (fld b 320 64)), s)
      else s.memRead (.comet c) tag (fld b 320 48) len errs
    let (st, s) := if st != 0 then (st, s) else s.memWrite (.comet c) (fld b 384 48) bs (fld b 24 4) errs
    let s := if late = 0 then s
      else
        let s := (s.flag (R.stmStat c.val) 2 (R.stmLatecnt c.val) 1).raise 0x1402 (srcCl c.val 4 0) tag late 0
        s.onJob c.val n fun k => { k with ev := true }
    .next (s.worked c.val n st 0)

end Sys2Proof.Machine
end

