-- ==== Sys2Proof/Machine/Tiles.lean ====
section
/-!
DEFINITION. Matrix tiles and the cluster's requantiser: passes (R94, R95, R102 to R108), table loads (R98), preloads
(R103), drains (R104, R48, R112), comparisons (R57 to R59), residue failures (R55, R111) and requantised units (R64, R65).
-/

namespace Sys2Proof.Machine

/-! ### Splitting an operation into passes -/

/-- The tile of its operation's mask that runs a pass. -/
def jobMask (j : Job) : Nat := fld j.desc 256 32

/-- A tile operation as read at its start (R56): at its dispatch, or now for one that still waits at the head of a queue. -/
def State.opOf (s : State) (j : Job) : TileOp := j.top.getD (s.tileOpOf j.desc)

/-- Argument block and operands of a pass: the wide pair's for the wide pass of a comparison. -/
def TileOp.args (o : TileOp) (wide : Bool) : TArgs := if wide then o.w else o.a
def TileOp.left (o : TileOp) (wide : Bool) : Tens := if wide then o.wa else o.ta
def TileOp.right (o : TileOp) (wide : Bool) : Tens := if wide then o.wb else o.tb

/-- Exponent of what a pass drains (R48). -/
def TileOp.ex (o : TileOp) (wide : Bool) : Int := (o.left wide).h.et + (o.right wide).h.et

/-- Passes that the idle tiles of a mask are given, where TIL_CTL.PREFILL is 1: their rising ramps begin with filler
(R109), and with them the cluster's activity (R173). -/
def State.prefill (s : State) (c : Nat) (j : Job) (ts : List Nat) : State :=
  let go := if fld j.ctl 2 1 = 1 then ts.filter fun t => ((s.clus c).tileAt t).act = .gated else []
  if go.isEmpty then s
  else
    (s.onClus c fun x =>
      { (go.foldl (fun x t => x.setTile t { x.tileAt t with act := .filling }) x) with
        notice := x.notice.map fun v => { v with active := true } }).tally (R.tilRamps c) go.length

/-- Passes join their tiles in ascending order (R94); in a comparison each narrow pass is followed by its wide one. -/
def State.splitOp (s : State) (c : Nat) (j : Job) (cmp : Bool) : State :=
  let a := (s.opOf j).a
  let cnt := a.passes
  let s := s.prefill c j ((maskTiles (jobMask j)).take cnt)
  let s := s.onClus c fun x => (List.range cnt).foldl (fun x q =>
    let t := passTile (jobMask j) q
    let y := x.tileAt t
    let p : Pass := ⟨j.n, q, a.bi q, a.bj q, false⟩
    x.setTile t { y with waiting := y.waiting ++ (if cmp then [p, { p with wide := true }] else [p]) }) x
  s.onJob c j.n fun k => { k with ph := .given, passes := if cmp then 2 * cnt else cnt }

/-- TILE_OP (R94): the operation in flight is split into passes over the tiles of its mask. -/
def execTileOp (c : Cluster) (n : Nat) (s : State) : Host.Outcome State Fault Refusal :=
  match s.runJob c.val n 0x01 with
  | some j => .next ((s.splitOp c.val j false).heads c.val)
  | none => .next s

/-- TILE_CMP (R57): as TILE_OP, with a narrow and a wide pass for each block, and a comparison begun at its engine. -/
def execTileCmp (c : Cluster) (n : Nat) (s : State) : Host.Outcome State Fault Refusal :=
  match s.runJob c.val n 0x02 with
  | some j =>
    let s := s.splitOp c.val j true
    .next ((s.onVe c.val (tbodyOf j.desc).ve fun v => { v with cmp := some ⟨n, 0, 0, 0, 0, 0, 0⟩ }).heads c.val)
  | none => .next s

/-! ### Tables, preloads and the start of a pass -/

/-- Whether a pass's operands are both integers, which bypass the decoders (R98). -/
def State.noTables (s : State) (j : Job) (wide : Bool) : Bool :=
  let o := s.opOf j
  !(o.left wide).h.isQ && !(o.right wide).h.isQ

/-- The first pass that a tile operation at the head of a queue will give a tile (R98). -/
def State.headPass (s : State) (c t : Nat) : Option (Pass × Job) :=
  let x := s.clus c
  ((List.finRange 8).filterMap fun q => (x.qAt q).head?).findSome? fun j =>
    let m := jobMask j
    if isTileOp (fld j.desc 0 8) && m.testBit t then
      let a := (s.opOf j).a
      let q := ((maskTiles m).idxOf? t).getD 0
      if q < a.passes then some (⟨j.n, q, a.bi q, a.bj q, false⟩, j) else none
    else none

/-- What the decoders of a tile load for a pass (R98, R38): the table of each lane's row, and the escape tables. -/
def State.decTabs (s : State) (c : Nat) (j : Job) (p : Pass) : DecTabs :=
  let o := s.opOf j
  let a := o.args p.wide
  let d := dieOf c
  let lanes := fun (t : Tens) (r0 : Nat) =>
    if t.h.isQ then (List.range 32).map fun i => s.levelsOf d t.h (r0 + i) else []
  let x := o.left p.wide
  let y := o.right p.wide
  ⟨p, lanes x (a.arow0 + 32 * p.bi), lanes y (a.brow0 + 32 * p.bj), s.escLevelsOf d x.o, s.escLevelsOf d y.o⟩

/-- DECODER_TABLE_LOAD (R98): the tables of the tile's next pass are loaded: the next pass given to it, or, with none,
the first pass of the operation at the head of a queue. DEDUCED (log 75): while a codebook load that such an operation waits
for has not come (R36), its tables do not load. -/
def execDecoderTableLoad (c : Cluster) (t : Tile) (s : State) : Host.Outcome State Fault Refusal :=
  let x := s.clus c.val
  let y := x.tileAt t.val
  if x.region != .active || x.clk.stopAt.isSome then .next s
  else
    let p := match y.waiting with
      | p :: _ => (x.inFlight p.n).map fun j => (p, j)
      | [] => s.headPass c.val t.val
    match p with
    | some (p, j) =>
      if s.loadPending j.ord j.cbs then .next s
      else .next (s.onTile c.val t.val fun y => { y with tables := some (s.decTabs c.val j p) })
    | none => .next s

/-- A preload image: 32 rows of 32 I64 values (R103), each with its residue (R54). -/
def preImage (store : Mem) (at_ : Nat) : List Accum :=
  let bs := store.bytes at_ 8192
  (List.range 1024).map fun i => accOf (sx 64 (leAt bs (8 * i) 8))

/-- PRELOAD (R102, R103): the image of the next pass is read into its bank once the bank is free. -/
def execPreload (c : Cluster) (t : Tile) (s : State) : Host.Outcome State Fault Refusal :=
  let x := s.clus c.val
  let y := x.tileAt t.val
  match y.waiting.head? with
  | none => .next s
  | some p =>
    match x.inFlight p.n with
    | none => .next s
    | some j =>
      let b := tbodyOf j.desc
      if !b.pre || p.wide || y.bank[y.next] != .free || x.clk.stopAt.isSome then .next s
      else
        let a := (s.opOf j).a
        let m := p.q / (maskTiles b.tmask).length
        let img := preImage y.store (a.preofs + 8192 * m)
        .next (s.onTile c.val t.val fun y => { y with bank := y.bank.set y.next (.pre p img) })

/-- Operand views of a pass through the bindings resolved at issue (R182) and the tables of its lanes (R98). -/
def State.passViews (s : State) (c t : Nat) (j : Job) (p : Pass) : Option (View × View) :=
  let k := if p.wide then 2 else 0
  let look := fun (k : Nat) => (j.binds.find? fun b => b.1 = k && b.2.1 = p.q).map (·.2.2.2)
  match look k, look (k + 1) with
  | some za, some zb =>
    let o := s.opOf j
    let a := o.args p.wide
    let y := (s.clus c).tileAt t
    let va := s.panelView (dieOf c) y.store za (o.left p.wide)
    let vb := s.panelView (dieOf c) y.store zb (o.right p.wide)
    match y.tables with
    | some d => some (va.withTabs (a.arow0 + 32 * p.bi) d.rows d.rowEsc, vb.withTabs (a.brow0 + 32 * p.bj) d.cols d.colEsc)
    | none => some (va, vb)
  | _, _ => none

/-- Issues and time-skipped intervals of a pass (R96, R99, R100, R117). A distinct slot position of a group is one
k-step. -/
def passSteps (a b : View) (ra rb : List Nat) (k0 k : Nat) (zskip : Bool) : Nat × Nat :=
  let i16 := pairI16 a.fmt b.fmt
  let q4 := a.fmt = 0 && b.fmt = 0
  let step := if i16 then 16 else 32
  let per := if q4 then 8 else if i16 then 16 else 32
  let e := k0 + k
  (stepRange k0 e 256).foldl (fun (acc : Nat × Nat) g0 =>
    let ge := min (g0 + 256) e
    let esc := q4 && (ra.any (fun r => a.escaped r g0) || rb.any fun r => b.escaped r g0)
    let acc := if esc then (acc.1 + 256, acc.2)
      else (stepRange g0 ge step).foldl (fun (acc : Nat × Nat) b0 =>
        if zskip && (ra.all (fun r => a.bzero r b0) || rb.all fun r => b.bzero r b0) then (acc.1, acc.2 + 1)
        else (acc.1 + per, acc.2)) acc
    let slots := (stepRange g0 ge 1).filter fun k =>
      ra.any (fun r => (a.slot r k).isSome) || rb.any fun r => (b.slot r k).isSome
    (acc.1 + slots.length, acc.2)) (0, 0)

/-- A pass's valid rows of one operand. -/
def rowsFrom (row0 total b : Nat) : List Nat :=
  let (r, n) := blockRows row0 total b
  (List.range n).map (r + ·)

/-- A pass's 1,024 cells in row order (R95). -/
def passCells (a b : View) (ra rb : List Nat) (k0 k : Nat) (pre : List Accum) : List Cell :=
  (List.range 1024).map fun i =>
    match ra[i / 32]?, rb[i % 32]? with
    | some r, some q => tileElement a b r q k0 k (pre.getD i (accOf 0))
    | _, _ => ⟨accOf 0, false⟩

/-- The cell of the lowest row, then the lowest column, whose partial disagreed with its residue (R111). -/
def firstBadCell (cells : List Cell) (ks sk : Nat) : Option CellFault :=
  (cells.findIdx? (·.bad)).map fun i => ⟨Fin.ofNat 32 (i / 32), Fin.ofNat 32 (i % 32), ks, sk⟩

/-- What a pass that is ready to start holds (R98, R102): its descriptor. -/
def State.passReady (s : State) (c t : Nat) : Option (Pass × Job) :=
  let x := s.clus c
  let y := x.tileAt t
  match y.waiting.head? with
  | none => none
  | some p =>
    match x.inFlight p.n with
    | none => none
    | some j =>
      let pre := (tbodyOf j.desc).pre && !p.wide
      let bank := match y.bank[y.next] with
        | .free => !pre
        | .pre p' _ => p' = p
        | _ => false
      let run := x.region = .active && x.clk.stopAt.isNone
      let lead := !(x.tile.all fun z => z.2.act = .gated) || (match x.notice with | some v => v.leadDone | none => false)
      let tabs := match y.tables with | some d => d.p = p | none => false
      if run && lead && bank && (tabs || s.noTables j p.wide) then some (p, j) else none

/-- The active bank of a tile closes: its pass has issued its last k-step. -/
def TileSt.close (y : TileSt) : TileSt :=
  { y with bank := y.bank.map fun b => match b with
      | .active p v => .closed p v
      | b => b }

/-- Saturation events of an operation at its end, raised once (R48, R89, R147). A program's come from its engine. -/
def State.opEvents (s : State) (c n : Nat) : State :=
  match (s.clus c).inFlight n with
  | none => s
  | some j =>
    let tag := fld j.desc 32 16
    let v := fld j.desc 256 2
    let prog := fld j.desc 0 8 = 0x03
    let rqSrc := if prog then srcCl c 2 v else srcCl c 5 0
    let sat := match ((s.clus c).veAt v).run with
      | some r => if prog && r.n = n then r.sat else 0
      | none => 0
    let s := if sat = 0 then s
      else (s.flag (R.vecStat c v) 0 (R.vecSatcnt c v) 1).raise 0x1202 (srcCl c 2 v) tag sat 0
    let s := if j.flagged = 0 then s else s.raise 0x1002 (srcCl c 1 0) tag j.flagged 0
    let s := s.satEvents rqSrc j.satur
    let any := sat != 0 || j.flagged != 0 || satAny j.satur
    s.onJob c n fun k => { k with ev := k.ev || any, flagged := 0, satur := [] }

/-- An operation stops (R111, R498): both banks, its passes and the units not yet complete are discarded, and its tiles
run their falling ramps. -/
def State.stopOp (s : State) (c : Nat) (j : Job) (status off : Nat) : State :=
  let s := s.opEvents c j.n
  let s := s.onClus c fun x =>
    let x := x.dropWork j.n
    (if isTileOp (fld j.desc 0 8) then maskTiles (jobMask j) else []).foldl (fun x t =>
      let y := x.tileAt t
      if (y.act = .busy || y.act = .filling) && y.waiting.isEmpty then x.setTile t { y with act := .falling } else x) x
  let s := s.onJob c j.n fun k => { k with stop := true, passes := 0 }
  s.worked c j.n status off

/-- A pass begins on a tile: a rising ramp unless the tile is already active or its PREFILL ramp has run (R106, R109). -/
def State.beginPass (s : State) (c t : Nat) : State :=
  let y := (s.clus c).tileAt t
  let s := s.onClus c fun x =>
    { (x.setTile t { y with act := .busy }) with notice := x.notice.map fun v => { v with active := true } }
  s.tally (R.tilRamps c) (if y.act = .busy || y.act = .filling then 0 else 1)

/-- PASS_START (R99, R102, R106): the next pass of a tile issues its k-steps. `fault` is a cell whose residue check fails
(R55, R111); a partial that disagrees with its residue fails it as well. -/
def execPassStart (c : Cluster) (t : Tile) (fault : Option CellFault) (s : State) :
    Host.Outcome State Fault Refusal :=
  match s.passReady c.val t.val with
  | none => .next s
  | some (p, j) =>
    match s.passViews c.val t.val j p with
    | none => .next (s.stopOp c.val j 0x10 0xFF)
    | some (va, vb) =>
      let o := s.opOf j
      let a := o.args p.wide
      let ra := rowsFrom a.arow0 a.m p.bi
      let rb := rowsFrom a.brow0 a.n p.bj
      let ok := fun (v : View) (o : Option OutlHdr) (rs : List Nat) =>
        match o with
        | some o => rs.all fun r => v.recsOk o r a.k0 (a.k0 + a.k)
        | none => true
      let pre := match ((s.clus c.val).tileAt t.val).bank[((s.clus c.val).tileAt t.val).next] with
        | .pre _ im => im
        | _ => []
      let s := s.beginPass c.val t.val
      if !ok va (o.left p.wide).o ra || !ok vb (o.right p.wide).o rb then .next (s.stopOp c.val j 0x10 0xFF)
      else
        let (ks, sk) := passSteps va vb ra rb a.k0 a.k (fld j.ctl 0 1 = 1)
        let cells := passCells va vb ra rb a.k0 a.k pre
        match fault.or (firstBadCell cells ks sk) with
        | some f =>
          let s := (s.tally (R.tilKsteps c.val) (min f.ksteps ks)).tally (R.tilSkips c.val) (min f.skips sk)
          let loc := t.val + f.row.val * 32 + f.col.val * 1024 + 2 ^ 15
          let s := ((s.flag (R.tilStat c.val) 1 (R.tilRescnt c.val) 1).wr (R.tilResloc c.val) loc).raise 0x1001
            (srcCl c.val 1 t.val) (fld j.desc 32 16) loc 0
          .next (s.stopOp c.val j 0x31 0)
        | none =>
          let s := (s.tally (R.tilKsteps c.val) ks).tally (R.tilSkips c.val) sk
          .next ((s.onTile c.val t.val fun y =>
            let y := y.close
            { y with bank := y.bank.set y.next (.active p (cells.map (·.acc))), next := 1 - y.next,
                     waiting := y.waiting.drop 1 }).causes c.val)

/-- PASS_END (R107): the pass has issued its last k-step and none is ready: its bank closes and the falling ramp
begins. A tile on its PREFILL ramp whose passes are gone falls likewise. -/
def execPassEnd (c : Cluster) (t : Tile) (s : State) : Host.Outcome State Fault Refusal :=
  let y := (s.clus c.val).tileAt t.val
  let busy := y.act = .busy || (y.act = .filling && y.waiting.isEmpty)
  if !busy || (s.passReady c.val t.val).isSome || (s.clus c.val).clk.stopAt.isSome then .next s
  else .next ((s.onTile c.val t.val fun y => { y.close with act := .falling }).heads c.val)

/-- TILE_CLOCK_GATE (R107): the falling ramp has run out and the clock is gated. With every tile idle the end notice goes
out (R173); a notice already sent for the operation at the head of a queue stands. -/
def execTileClockGate (c : Cluster) (t : Tile) (s : State) : Host.Outcome State Fault Refusal :=
  let x := s.clus c.val
  if (x.tileAt t.val).act != .falling || x.clk.stopAt.isSome then .next s
  else
    let x := x.setTile t.val { x.tileAt t.val with act := .gated }
    let idle := x.tile.all fun p => p.2.act = .gated
    let kept := (List.finRange 8).any fun q => match (x.qAt q).head? with
      | some j => isTileOp (fld j.desc 0 8) && j.noticed
      | none => false
    let notice := if !idle then x.notice else if kept then x.notice.map fun v => { v with active := false } else none
    .next ((s.setClus c.val { x with notice }).heads c.val)

/-! ### Drains -/

/-- Key of an element of a unit. -/
def elKey (row col : Nat) : Nat := row * 2 ^ 32 + col

/-- Valid cells of a pass as elements of the output tensor: key, accumulator, exponent. -/
def drainElems (o : TileOp) (p : Pass) (v : List Accum) : List (Nat × Drained) :=
  let a := o.a
  let nr := min 32 (a.m - 32 * p.bi)
  let nc := min 32 (a.n - 32 * p.bj)
  (v.zipIdx.filter fun e => e.2 / 32 < nr && e.2 % 32 < nc).map fun e =>
    (elKey (a.orow0 + 32 * p.bi + e.2 / 32) (a.ocol0 + 32 * p.bj + e.2 % 32), (e.1, o.ex false))

/-- Elements waiting for their units in the cluster's requantiser (R104). -/
def Cl.rqFill (x : Cl) : Nat := (x.rq.filter fun r => r.ve.isNone).foldl (fun n r => n + r.elems.length) 0

/-- Elements join those of an operation and control block. -/
def Cl.rqAdd (x : Cl) (n rqcb : Nat) (q : Rqcb) (out : Tens) (ve : Option (Nat × Nat)) (es : List (Nat × Drained)) : Cl :=
  let put := fun (m : SMap Drained) => es.foldl (fun m e => SMap.put e.1 e.2 m) m
  if x.rq.any fun r => r.n = n && r.rqcb = rqcb && r.ve = ve then
    { x with rq := x.rq.map fun r => if r.n = n && r.rqcb = rqcb && r.ve = ve then { r with elems := put r.elems } else r }
  else { x with rq := x.rq ++ [⟨n, rqcb, q, out, ve, put []⟩] }

/-- The end of a tile operation's work once every pass has drained, every group is taken and every unit is written: its
saturation events (R48, R89), and for a comparison its record (R59). -/
def State.tileDone (s : State) (c n : Nat) : State :=
  match (s.clus c).inFlight n with
  | none => s
  | some j =>
    if j.ph != .given || !isTileOp (fld j.desc 0 8) || j.passes != 0
        || ((s.clus c).rq.any fun r => r.n = n && !r.elems.isEmpty)
        || ((s.clus c).ve.any fun p => p.2.drain.any fun g => g.1 = n) then s
    else
      let b := tbodyOf j.desc
      let s := s.opEvents c n
      match ((s.clus c).veAt b.ve).cmp with
      | some m =>
        if m.n = n then
          let bs := natLe 8 m.count ++ natLe 8 m.maxd ++ natLe 16 m.ssd ++ natLe 2 (trunc 16 m.exp)
            ++ natLe 2 m.flags.toNat ++ natLe 4 m.satd ++ natLe 8 0
          let (st, s) := s.memWrite (.vector (Fin.ofNat 96 c) (Fin.ofNat 4 b.ve)) b.cmprec bs 0 []
          (s.onVe c b.ve fun v => { v with cmp := none }).worked c n st 0
        else s.worked c n 0 0
      | none => s.worked c n 0 0

/-- One compared element (R58). -/
def Cmp.add (m : Cmp) (a b : Accum) (ea eb : Int) : Cmp :=
  let (x, y, _) := alignTo a.v ea b.v eb
  let (d, sat) := clampTo 64 (x - y)
  let ssd := m.ssd + d.natAbs * d.natAbs
  let ovf := ssd > 2 ^ 128 - 1 || fld m.flags 0 1 = 1
  let f := Nat.lor m.flags.toNat ((if ovf then 1 else 0) + (if sat then 2 else 0) + (if a.sat then 4 else 0)
    + (if b.sat then 8 else 0))
  { m with count := m.count + 1, maxd := max m.maxd d.natAbs, ssd := if ovf then 2 ^ 128 - 1 else ssd,
           exp := min ea eb, flags := BitVec.ofNat 4 f, satd := m.satd + (if sat then 1 else 0) }

/-- The oldest closed bank of a tile: the one before `next`, or the next one when only it is closed. -/
def TileSt.closedBank (y : TileSt) : Option (Fin 2 × Pass × List Accum) :=
  let at_ := fun (i : Fin 2) => match y.bank[i] with
    | .closed p v => some (i, p, v)
    | _ => none
  match at_ y.next with
  | some r => some r
  | none => at_ (1 - y.next)

/-- Whether the program an engine runs executes VDRN (R159). -/
def VeSt.drains (v : VeSt) : Bool :=
  v.run.isSome &&
    (match v.prog.findIdx? fun w => fld w 0 8 = 0x7F with
      | some k => (v.prog.take k).any fun w => fld w 0 8 = 0x03
      | none => false)

/-- A pass has drained: its bank is free and its descriptor has one pass less; flagged elements set TIL_STAT.SAT. -/
def State.drained (s : State) (c t : Nat) (i : Fin 2) (p : Pass) (flagged : Nat) (told : Bool) : State :=
  let s := s.onTile c t fun y => { y with bank := y.bank.set i .free }
  let s := if flagged = 0 then s else s.flag (R.tilStat c) 0 (R.tilSatcnt c) 1
  let s := s.onJob c p.n fun k =>
    { k with passes := k.passes - 1, flagged := if told then k.flagged + flagged else k.flagged }
  s.tileDone c p.n

/-- PASS_DRAIN (R104): a closed bank drains to the requantiser when there is space, to the engine of a raw operation when
its program takes it, or, for the wide pass of a comparison, to the compare unit (R58, R105). -/
def execPassDrain (c : Cluster) (t : Tile) (s : State) : Host.Outcome State Fault Refusal :=
  let x := s.clus c.val
  let y := x.tileAt t.val
  match y.closedBank with
  | none => .next s
  | some (i, p, v) =>
    match x.inFlight p.n with
    | none => .next (s.onTile c.val t.val fun y => { y with bank := y.bank.set i .free })
    | some j =>
      let b := tbodyOf j.desc
      let o := s.opOf j
      let a := o.a
      let es := drainElems o p v
      let fl := (es.filter fun e => e.2.1.sat).length
      if x.clk.stopAt.isSome then .next s
      else if p.wide then
        let nv := match y.narrow with
          | some (_, v) => v
          | none => []
        let nr := min 32 (a.m - 32 * p.bi)
        let nc := min 32 (a.n - 32 * p.bj)
        let pairs := ((List.zip nv v).zipIdx.filter fun e => e.2 / 32 < nr && e.2 % 32 < nc).map (·.1)
        let wf := (pairs.filter fun e => e.2.sat).length
        let s := s.onVe c.val b.ve fun z =>
          { z with cmp := z.cmp.map fun m => pairs.foldl (fun m e => m.add e.1 e.2 (o.ex false) (o.ex true)) m }
        let s := s.onTile c.val t.val fun y => { y with narrow := none }
        .next (s.drained c.val t.val i p wf true)
      else if b.dest then
        let z := x.veAt b.ve
        if !z.drains || !z.drain.isEmpty then .next s
        else
          let gs := (List.range 4).map fun g => (p.n, o.ex false, ((v.drop (256 * g)).take 256).map fun x => (x.v, x.sat))
          let s := s.onVe c.val b.ve fun z => { z with drain := gs }
          .next (s.drained c.val t.val i p fl true)
      else if x.rqFill + es.length > 32768 then .next s
      else
        let s := s.onClus c.val fun x => x.rqAdd p.n a.rqcb o.rq o.out none es
        let s := if fld j.desc 0 8 = 2 then s.onTile c.val t.val fun y => { y with narrow := some (p, v) } else s
        .next (s.drained c.val t.val i p fl true)

/-! ### Requantised units -/

/-- Keys of the unit that an element belongs to (R64, R134): a bucket for an output with outlier structures, else a run of
one row. -/
def unitKeys (q : Rqcb) (h : Hdr) (key : Nat) : List Nat :=
  let row := key / 2 ^ 32
  let col := key % 2 ^ 32
  let w := unitWidth q (h.outl != 0)
  let cols := (List.range (min w (h.k - col / w * w))).map (col / w * w + ·)
  if h.outl = 0 then cols.map (elKey row)
  else
    let rows := (List.range (min 32 (h.rows - row / 32 * 32))).map (row / 32 * 32 + ·)
    rows.flatMap fun r => cols.map (elKey r)

/-- The first complete unit of an operation: its keys. -/
def findUnit (q : Rqcb) (h : Hdr) (es : SMap Drained) : Option (List Nat) :=
  (es.map (·.1)).findSome? fun k =>
    let u := unitKeys q h k
    if u.head? = some k && u.all (fun i => (SMap.find i es).isSome) then some u else none

/-- Elements of a unit as the requantiser takes them. -/
def unitElts (es : SMap Drained) (u : List Nat) : List Elt :=
  u.filterMap fun k => (SMap.find k es).map fun d => ⟨k / 2 ^ 32, k % 2 ^ 32, d.1.v, d.2, d.1.sat⟩

/-- Whether a drained value of a unit disagrees with its residue (R54). -/
def unitBad (es : SMap Drained) (u : List Nat) : Bool :=
  u.any fun k => (SMap.find k es).any fun d => d.1.res != resOf d.1.v

/-- A unit of an operation is requantised and written. -/
def State.runUnit (s : State) (c : Nat) (j : Job) (r : RqOp) (u : List Nat) (errs : Errs) : State :=
  let ctx := s.rqCtx (dieOf c) r.q r.out (phKind (s.phase (fld j.desc 16 8)) = 6)
  let out := ctx.run (unitElts r.elems u)
  let (st, s) := s.rqWrite (.requant (Fin.ofNat 96 c)) ctx out (fld j.desc 24 4) errs
  let s := s.onClus c fun x => { x with rq := x.rq.map fun z =>
    if z.n = r.n && z.rqcb = r.rqcb && z.ve = r.ve then { z with elems := z.elems.filter fun e => !u.contains e.1 } else z }
  if st != 0 then s.stopOp c j st 0
  else
    let s := s.onJob c j.n fun k => { k with satur := satNote k.satur ctx.h.tid out.cnt }
    s.tileDone c j.n

/-- REQUANTISE_UNIT (R65): the first complete unit of operation n passes through the stages. `fault` is a residue mismatch
at its entry (R54, R55); a drained value that disagrees with its residue is one as well. -/
def execRequantiseUnit (c : Cluster) (n : Nat) (fault : Bool) (errs : Errs) (s : State) :
    Host.Outcome State Fault Refusal :=
  match (s.clus c.val).inFlight n with
  | none => .next s
  | some j =>
    let ready := ((s.clus c.val).rq.filter fun r => r.n = n).findSome? fun r =>
      (findUnit r.q r.out.h r.elems).map fun u => (r, u)
    match ready with
    | none => .next s
    | some (r, u) =>
      let h := r.out.h
      if fault || unitBad r.elems u then
        let src := match r.ve with
          | some (v, _) => srcCl c.val 2 v
          | none => srcCl c.val 5 0
        .next ((s.raise 0x1101 src h.tid (fld j.desc 32 16) 0).stopOp c.val j 0x31 0)
      else .next (s.runUnit c.val j r u errs)

end Sys2Proof.Machine
end

