-- ==== Sys2Proof/Machine/Vec.lean ====
section
/-!
DEFINITION. Vector engines (chapter 4): registers at their widths (R119), the check of a program (R122, R123, R131), its
start (R121), one meaning for each instruction of Table 4.2, its end, and the summary port (R142 to R144).
-/

namespace Sys2Proof.Machine

/-! ### The instruction word (Table 4.1) -/

def iOpc (w : Word) : Nat := fld w 0 8
def iWid (w : Word) : Nat := fld w 8 2
def iVd (w : Word) : Nat := fld w 10 5
def iVa (w : Word) : Nat := fld w 15 5
def iVb (w : Word) : Nat := fld w 20 5
def iMsk (w : Word) : Nat := fld w 25 2
def iMen (w : Word) : Bool := fld w 27 1 = 1
def iSc (w : Word) : Nat := fld w 28 4
def iRaw (w : Word) : Nat := fld w 32 32
def iImm (w : Word) : Int := sx 32 (iRaw w)

/-- What an operand field names: nothing, a vector register of the instruction's width, a pair, a single register, a
scalar, an even scalar, a mask, a handle. -/
inductive VKind where
  | no | v | p | w | s | s2 | m | h
  deriving DecidableEq, Repr

/-- A row of Table 4.2: opcode, widths, kinds of VD, VA and VB, and whether the instruction uses the mask fields, SC and
IMM. No width is WID 0. -/
structure VOp where
  opc : Nat
  wids : List Nat
  d : VKind
  a : VKind
  b : VKind
  msk : Bool
  sc : Bool
  imm : Bool
  deriving DecidableEq, Repr

def vecMem : List VOp :=
  [⟨0x01, [0, 1, 2], .v, .no, .h, true, true, true⟩, ⟨0x02, [1], .v, .no, .h, true, true, true⟩,
   ⟨0x03, [2], .v, .no, .no, true, false, false⟩, ⟨0x04, [1, 2], .no, .v, .h, true, true, true⟩,
   ⟨0x05, [1, 2], .v, .no, .no, true, true, true⟩, ⟨0x06, [1, 2], .no, .v, .no, true, true, true⟩]

def vecLane : List VOp :=
  [⟨0x07, [0, 1, 2], .v, .v, .no, true, false, false⟩, ⟨0x08, [1, 2], .v, .no, .no, true, true, false⟩,
   ⟨0x09, [1, 2], .v, .no, .no, true, true, true⟩, ⟨0x0A, [1], .v, .no, .no, true, false, false⟩,
   ⟨0x0B, [0, 1, 2], .v, .v, .no, true, false, true⟩, ⟨0x10, [0, 1, 2], .v, .v, .v, true, false, false⟩,
   ⟨0x11, [0, 1, 2], .v, .v, .v, true, false, false⟩, ⟨0x12, [0, 1], .v, .v, .v, true, false, false⟩,
   ⟨0x13, [1], .p, .v, .v, true, false, false⟩, ⟨0x14, [1], .p, .v, .v, true, false, false⟩,
   ⟨0x15, [0, 1, 2], .v, .v, .v, true, false, false⟩, ⟨0x16, [0, 1, 2], .v, .v, .v, true, false, false⟩,
   ⟨0x17, [0, 1, 2], .v, .v, .no, true, false, false⟩, ⟨0x18, [0, 1, 2], .v, .v, .no, true, false, false⟩,
   ⟨0x19, [0, 1, 2], .v, .v, .no, true, false, true⟩, ⟨0x1A, [2], .w, .v, .no, true, false, true⟩,
   ⟨0x1B, [1], .p, .v, .no, true, false, false⟩, ⟨0x1C, [0], .v, .v, .no, true, false, true⟩,
   ⟨0x20, [1, 2], .m, .v, .v, true, false, true⟩, ⟨0x21, [1, 2], .v, .v, .v, true, false, false⟩,
   ⟨0x22, [0], .m, .no, .no, false, true, true⟩, ⟨0x23, [0], .m, .m, .m, false, false, true⟩,
   ⟨0x30, [1], .v, .v, .no, true, false, false⟩, ⟨0x31, [2], .w, .v, .no, true, false, true⟩,
   ⟨0x32, [2], .w, .v, .no, true, false, true⟩, ⟨0x33, [2], .v, .v, .no, true, false, false⟩]

def vecScal : List VOp :=
  [⟨0x40, [0, 1, 2], .s, .v, .no, true, false, true⟩, ⟨0x41, [0, 1], .s, .v, .no, true, false, true⟩,
   ⟨0x42, [0, 1], .s2, .v, .no, true, false, true⟩, ⟨0x43, [0, 1, 2], .s, .v, .no, true, false, true⟩,
   ⟨0x44, [0, 1, 2], .s, .v, .no, true, false, true⟩, ⟨0x45, [0, 1, 2], .s, .v, .no, true, false, true⟩,
   ⟨0x46, [0], .s, .m, .no, false, false, false⟩, ⟨0x50, [0], .s, .no, .no, false, false, true⟩,
   ⟨0x51, [0], .s, .s, .no, false, false, true⟩, ⟨0x52, [0], .s, .s, .s, false, false, false⟩,
   ⟨0x53, [0], .s, .s, .s, false, false, false⟩, ⟨0x54, [0], .s, .s, .s, false, false, false⟩,
   ⟨0x55, [0], .s, .s, .s, false, false, false⟩, ⟨0x56, [0], .s, .s, .s, false, false, false⟩,
   ⟨0x57, [0], .s, .no, .no, false, false, true⟩, ⟨0x58, [0], .s2, .s2, .s, false, false, true⟩,
   ⟨0x59, [0], .s, .s, .no, false, false, true⟩, ⟨0x5A, [0], .s, .s, .no, false, false, true⟩,
   ⟨0x5B, [0], .s, .s, .no, false, false, false⟩, ⟨0x5C, [0], .no, .s, .no, false, false, true⟩,
   ⟨0x60, [0], .no, .no, .no, false, false, true⟩, ⟨0x7F, [0], .no, .no, .no, false, false, false⟩]

/-- Table 4.2. DEDUCED (log 71): every lane-wise instruction, load, store and reduction takes the mask fields (R127); VMSET,
VMOP and VRCNT, which act on masks, and the scalar instructions do not. -/
def vecTab : List VOp := vecMem ++ vecLane ++ vecScal

/-- Whether an operand field is well formed. -/
def VKind.ok (k : VKind) (wid x : Nat) : Bool :=
  match k with
  | .no => x = 0
  | .v => wid != 2 || x % 2 = 0
  | .p => x % 2 = 0
  | .w => true
  | .s => x < 16
  | .s2 => x < 16 && x % 2 = 0
  | .m => x < 4
  | .h => x < 8

/-- Limits of the immediate (Table 4.2, R123, R139, R141, R142). DESIGN CHOICE (log 70): R123 names no check for a lane of
VINS, a half of VUNPK, a condition of VCMP, an operation of VMOP or an F of SMV that its row does not give; such a program
fails the check. -/
def immOk (opc : Nat) (i : Int) : Bool :=
  if opc = 0x09 then 0 ≤ i && i ≤ 255
  else if opc = 0x1C then 0 ≤ i && i ≤ 1
  else if opc = 0x20 then 0 ≤ i && i ≤ 5
  else if opc = 0x22 then -1 ≤ i && i ≤ 256
  else if opc = 0x23 then 0 ≤ i && i ≤ 3
  else if opc = 0x31 || opc = 0x32 || opc = 0x59 || opc = 0x5A then 0 ≤ i && i ≤ 127
  else if 0x40 ≤ opc && opc ≤ 0x45 then 0 ≤ i && i ≤ 1
  else if opc = 0x58 then 0 ≤ i && i ≤ 62
  else if opc = 0x5C then 0 ≤ i && i ≤ 0xFFFF
  else true

/-- Rules on a handle (R123). -/
def handleOk (v : VecOp) (w : Word) : Bool :=
  let a := v.a.h.getD (iVb w) 0
  let h := (v.tens (iVb w)).h
  let opc := iOpc w
  let k := iImm w
  let pos := 0 ≤ k && k % (if h.outl = 0 then 32 else 256) = 0
  a != 0 &&
  (if opc = 0x01 then pos && 2 ≤ h.fmt && h.fmt ≤ iWid w + 2
   else if opc = 0x02 then pos && h.isQ
   else
     v.a.q.getD (iVb w) 0 != 0 && (v.rqcb (iVb w)).outhdr = a)

/-- One instruction by the rules of R123. -/
def insOk (v : VecOp) (w : Word) : Bool :=
  match vecTab.find? fun o => o.opc = iOpc w with
  | none => false
  | some o =>
    let opc := iOpc w
    o.wids.contains (iWid w) && o.d.ok (iWid w) (iVd w) && o.a.ok (iWid w) (iVa w) && o.b.ok (iWid w) (iVb w)
    && (o.msk || (iMsk w = 0 && !iMen w)) && (o.sc || iSc w = 0) && (o.imm || iRaw w = 0)
    && (opc != 0x22 || iImm w = -1 || iSc w = 0) && immOk opc (iImm w)
    && (o.b != .h || handleOk v w)

/-- N and C of a VLOOP (R131). -/
def loopN (w : Word) : Nat := fld w 48 11
def loopC (w : Word) : Nat := fld w 32 16 + 1

/-- The loop rules of R131 on the instructions from index `i`: `ends` holds the last index of the open loops. -/
def loopsOk (vend : Nat) : Nat → List Nat → List Word → Bool
  | _, _, [] => true
  | i, ends, w :: t =>
    let ends := ends.filter (i ≤ ·)
    if iOpc w != 0x60 then loopsOk vend (i + 1) ends t
    else
      let e := i + loopN w
      fld w 59 5 = 0 && loopN w != 0 && e < vend && ends.length < 2 && ends.all (e ≤ ·)
        && loopsOk vend (i + 1) (e :: ends) t

/-- The check of a program before its first instruction runs (R123). -/
def progOk (v : VecOp) (prog : List Word) : Bool :=
  match prog.findIdx? fun w => iOpc w = 0x7F with
  | none => false
  | some e => ((prog.take (e + 1)).all fun w => insOk v w) && loopsOk e 0 [] (prog.take (e + 1))

/-! ### Registers at their widths (R119) -/

/-- An element with its flag, and a result with its flag and whether it saturated. -/
abbrev VEl := Int × Bool
abbrev VResEl := Int × Bool × Bool

def packBits (l : List Bool) : Nat := l.foldr (fun b n => 2 * n + (if b then 1 else 0)) 0

def VeSt.vr (e : VeSt) (n : Nat) : VReg := SMap.val VReg.reset e.v n
def VeSt.sr (e : VeSt) (n : Nat) : SReg := SMap.val SReg.reset e.sc n
def VeSt.mask (e : VeSt) (n : Nat) : BitVec 256 := SMap.val (BitVec.allOnes 256) e.m n

/-- Lanes of an element count: 512 at H width, 256 otherwise. -/
def widBits (wid : Nat) : Nat := if wid = 0 then 16 else if wid = 1 then 32 else 64

def VReg.halves (r : VReg) : List VEl :=
  ((r.lanes.toList.map fun x => sx 16 (fld x 0 16)) ++ (r.lanes.toList.map fun x => sx 16 (fld x 16 16))).zipIdx.map fun p =>
    (p.1, r.flags.getLsbD p.2)

def VReg.words (r : VReg) : List VEl :=
  r.lanes.toList.zipIdx.map fun p => (sx 32 p.1.toNat, r.flags.getLsbD p.2 || r.flags.getLsbD (256 + p.2))

def pairWords (a b : VReg) : List VEl :=
  (List.zip a.lanes.toList b.lanes.toList).zipIdx.map fun p =>
    (sx 64 (p.1.1.toNat + 2 ^ 32 * p.1.2.toNat), a.flags.getLsbD p.2 || a.flags.getLsbD (256 + p.2))

/-- Elements of a register at a width. -/
def VeSt.els (e : VeSt) (wid n : Nat) : List VEl :=
  if wid = 0 then (e.vr n).halves else if wid = 1 then (e.vr n).words else pairWords (e.vr n) (e.vr (n + 1))

def VeSt.rx (e : VeSt) (n : Nat) : Int := sx 16 (e.vr n).rx.toNat

/-- Flags after a write of one flag for each half, in the lanes `on`. -/
def newFlags (old : BitVec 512) (on : Nat → Bool) (fs : List Bool) : BitVec 512 :=
  BitVec.ofNat 512 (packBits (fs.zipIdx.map fun p => if on (p.2 % 256) then p.1 else old.getLsbD p.2))

/-- New lanes in the lanes `on`. -/
def newLanes (old : Vector (BitVec 32) 256) (on : Nat → Bool) (xs : List (BitVec 32)) : Vector (BitVec 32) 256 :=
  Vector.ofFn fun l => if on l.val then xs.getD l.val 0 else old[l]

/-- Write of the elements of a register at a width, in the lanes `on` (R119, R127). -/
def VeSt.put (e : VeSt) (wid n : Nat) (rx : Int) (on : Nat → Bool) (xs : List VEl) : VeSt :=
  let fs := xs.map (·.2)
  let r := e.vr n
  let x := BitVec.ofNat 16 (trunc 16 rx)
  let ff := if wid = 0 then fs else fs ++ fs
  let lo : List (BitVec 32) :=
    if wid = 0 then
      List.zipWith (fun a b => BitVec.ofNat 32 (trunc 16 a.1 + 2 ^ 16 * trunc 16 b.1)) (xs.take 256) (xs.drop 256)
    else xs.map fun a => BitVec.ofNat 32 (trunc 32 a.1)
  let e1 := { e with v := SMap.put n ⟨newLanes r.lanes on lo, x, newFlags r.flags on ff⟩ e.v }
  if wid != 2 then e1
  else
    let q := e.vr (n + 1)
    let hi := xs.map fun a => BitVec.ofNat 32 (trunc 64 a.1 / 2 ^ 32)
    { e1 with v := SMap.put (n + 1) ⟨newLanes q.lanes on hi, x, newFlags q.flags on ff⟩ e1.v }

/-! ### One instruction -/

/-- What an instruction sees: cluster, engine, descriptor, its operands as read at dispatch, engine state, run, word. -/
structure VCtx where
  c : Nat
  v : Nat
  j : Job
  o : VecOp
  e : VeSt
  r : VRun
  w : Word

/-- Outcome of an instruction: it waits, stops the program with a status, or retires with the engine's new state and the
results that saturated. -/
inductive VRes where
  | wait
  | stop (status : Nat)
  | ok (s : State) (e : VeSt) (r : VRun) (sat : Nat)

/-- Lanes the instruction acts on (R120, R127). -/
def VCtx.on (x : VCtx) (l : Nat) : Bool := !iMen x.w || (x.e.mask (iMsk x.w)).getLsbD (l % 256)

def rxOk (r : Int) : Bool := -32768 ≤ r && r ≤ 32767

/-- A lane-wise result at a width and exponent (R126, R127). -/
def VCtx.lanes (x : VCtx) (s : State) (wid : Nat) (rx : Int) (els : List VResEl) : VRes :=
  if !rxOk rx then .stop 0x10
  else
    let sat := (els.zipIdx.filter fun p => p.1.2.2 && x.on p.2).length
    .ok s (x.e.put wid (iVd x.w) rx x.on (els.map fun r => (r.1, r.2.1))) x.r sat

/-- A scalar result (R120, R126). -/
def VCtx.scal (x : VCtx) (s : State) (n : Nat) (rx : Int) (r : VResEl) : VRes :=
  if !rxOk rx then .stop 0x10
  else
    let y : SReg := ⟨BitVec.ofNat 64 (trunc 64 r.1), BitVec.ofNat 16 (trunc 16 rx), r.2.1⟩
    .ok s { x.e with sc := SMap.put n y x.e.sc } x.r (if r.2.2 then 1 else 0)

/-- Value, exponent and flag of a scalar register. -/
def VCtx.sc (x : VCtx) (n : Nat) : Int × Int × Bool :=
  let r := x.e.sr n
  (sx 64 r.v.toNat, sx 16 r.rx.toNat, r.flag)

/-- A value shifted to a smaller exponent within n bits (R124): value and saturation. -/
def toRx (n : Nat) (a rx r : Int) : Int × Bool := clampTo n (a * (2 ^ (rx - r).toNat : Nat))

/-- Aligned operation of two elements in n bits (R124, R125). -/
def vop2 (n : Nat) (f : Int → Int → Int) (a : VEl) (ra : Int) (b : VEl) (rb : Int) : VResEl :=
  let r := min ra rb
  let p := toRx n a.1 ra r
  let q := toRx n b.1 rb r
  let z := clampTo n (f p.1 q.1)
  let sat := p.2 || q.2 || z.2
  (z.1, sat || a.2 || b.2, sat)

/-- A result of one element, clamped to n bits. -/
def vop1 (n : Nat) (v : Int) (fl : Bool) : VResEl :=
  let z := clampTo n v
  (z.1, z.2 || fl, z.2)

def VCtx.elA (x : VCtx) : List VEl := x.e.els (iWid x.w) (iVa x.w)
def VCtx.elB (x : VCtx) : List VEl := x.e.els (iWid x.w) (iVb x.w)
def VCtx.rxA (x : VCtx) : Int := x.e.rx (iVa x.w)
def VCtx.rxB (x : VCtx) : Int := x.e.rx (iVb x.w)

/-- A lane-wise instruction of two sources. -/
def VCtx.two (x : VCtx) (s : State) (f : Int → Int → Int) : VRes :=
  x.lanes s (iWid x.w) (min x.rxA x.rxB)
    (List.zipWith (fun a b => vop2 (widBits (iWid x.w)) f a x.rxA b x.rxB) x.elA x.elB)

/-- A lane-wise instruction of one source that gives an element of width `wid`. -/
def VCtx.one (x : VCtx) (s : State) (wid : Nat) (rx : Int) (f : VEl → VResEl) : VRes := x.lanes s wid rx (x.elA.map f)

/-- A scalar instruction of two sources (Table 4.2). -/
def VCtx.scal2 (x : VCtx) (s : State) (f : Int → Int → Int) : VRes :=
  let a := x.sc (iVa x.w)
  let b := x.sc (iVb x.w)
  x.scal s (iVd x.w) (min a.2.1 b.2.1) (vop2 64 f (a.1, a.2.2) a.2.1 (b.1, b.2.2) b.2.1)

/-! ### The end of a program -/

/-- Whether a program runs in aggregate mode (R448). -/
def State.aggregate (s : State) (j : Job) : Bool := s.sec.sealMem && fld j.desc 24 4 = 2

/-- Units of a descriptor that are complete are written, up to `f` of them. -/
def State.flushUnits (c n : Nat) : Nat → State → State
  | 0, s => s
  | f + 1, s =>
    match (s.clus c).inFlight n with
    | none => s
    | some j =>
      if j.stop then s
      else
        let ready := ((s.clus c).rq.filter fun r => r.n = n).findSome? fun r =>
          (findUnit r.q r.out.h r.elems).map fun u => (r, u)
        match ready with
        | none => s
        | some (r, u) => State.flushUnits c n f (s.runUnit c j r u [])

/-- A program stops (R126, R146): stores already complete remain unless the residue failed, and the descriptor completes
with the status. -/
def State.stopProg (s : State) (c : Nat) (j : Job) (status : Nat) : State :=
  let s := if status = 0x31 then s else State.flushUnits c j.n 8192 s
  match (s.clus c).inFlight j.n with
  | none => s
  | some k => if k.stop then s else s.stopOp c k status (if status = 0x10 then 0xFF else 0)

/-- The loop stack and program counter after the instruction at `pc` (R131). -/
def advance (pc : Nat) : List (Nat × Nat × Nat) → Nat × List (Nat × Nat × Nat)
  | [] => (pc + 1, [])
  | (a, b, k) :: t =>
    if b != pc then (pc + 1, (a, b, k) :: t)
    else if k = 0 then advance pc t
    else (a, (a, b, k - 1) :: t)

/-- Whether an instruction reads, at a residue check, what `bad` names (R146): the scalar functions and SMV their scalar, an
accumulating reduction also its destination (R139, R140), and every other its lanes. -/
def checksEl (w : Word) : BadEl → Bool
  | .lane _ => iOpc w < 0x58
  | .scalar => 0x58 ≤ iOpc w || (0x40 ≤ iOpc w && iImm w % 2 = 1)

/-- VEC_RESLOC of a mismatch at instruction `pc` (Table 4.6). -/
def resLoc (pc : Nat) : BadEl → Nat
  | .lane l => pc + l.val * 2 ^ 11 + 2 ^ 20
  | .scalar => pc + 2 ^ 19 + 2 ^ 20

/-- The engine issues the instruction at its program counter, if it is one of opcode `opc` (R130). `bad` is a lane or the
scalar source whose residue check fails (R146). -/
def State.vec (s : State) (c : Cluster) (v : Engine) (opc : Nat) (bad : Option BadEl)
    (f : VCtx → State → VRes) : Host.Outcome State Fault Refusal :=
  let x := s.clus c.val
  let e := x.veAt v.val
  match e.run with
  | none => .next s
  | some r =>
    match x.inFlight r.n, e.prog[r.pc]? with
    | some j, some w =>
      if iOpc w != opc || j.ph != .given || j.stop || x.region != .active || x.clk.stopAt.isSome then .next s
      else match bad.filter (checksEl w) with
      | some l =>
        let loc := resLoc r.pc l
        .next ((((s.flag (R.vecStat c.val v.val) 1 (R.vecRescnt c.val v.val) 1).wr (R.vecResloc c.val v.val) loc).raise
          0x1201 (srcCl c.val 2 v.val) (fld j.desc 32 16) loc 0).stopProg c.val j 0x31)
      | none =>
        match f ⟨c.val, v.val, j, j.vop.getD (s.vecOpOf j), e, r, w⟩ s with
        | .wait => .next s
        | .stop st => .next (s.stopProg c.val j st)
        | .ok s e r sat =>
          let (pc, loops) := advance r.pc r.loops
          let s := s.onVe c.val v.val fun _ => { e with run := some { r with pc, loops, sat := r.sat + sat } }
          .next (s.tally (R.vecRetired c.val v.val) 1)
    | _, _ => .next s

/-! ### Programs -/

/-- VEC_PROG (R121, R123, R448): the image is loaded unless the engine holds it, the program is checked, and the
engine's registers are cleared. -/
def execVecProg (c : Cluster) (n : Nat) (errs : Errs) (s : State) : Host.Outcome State Fault Refusal :=
  match s.runJob c.val n 0x03 with
  | none => .next s
  | some j =>
    let o := j.vop.getD (s.vecOpOf j)
    let a := o.a
    let e := (s.clus c.val).veAt a.ve
    let ((st, bs), s) := if e.progDpa = some a.prog then ((0, []), s)
      else s.memRead (.vector c (Fin.ofNat 4 a.ve)) (fld j.desc 32 16) a.prog 16384 errs
    if st != 0 then .next (s.worked c.val n st 0)
    else
      let prog := if e.progDpa = some a.prog then e.prog
        else (List.range 2048).map fun i => BitVec.ofNat 64 (leAt bs (8 * i) 8)
      let s := s.onVe c.val a.ve fun e => { e with prog, progDpa := some a.prog }
      let listed := match s.sec.session with
        | some k => k.manifest.contains (b256 (sha256 (prog.flatMap fun w => natLe 8 w.toNat)))
        | none => false
      if !progOk o prog then .next (s.worked c.val n 0x10 0xFF)
      else if s.aggregate j && !listed then .next (s.worked c.val n 0x51 0)
      else
        let sc := a.p.zipIdx.foldl (fun m p => SMap.put (8 + p.2) ⟨p.1, 0, false⟩ m) []
        let s := s.onVe c.val a.ve fun e =>
          { e with v := [], sc, m := [], run := some ⟨n, 0, [], 0, [], []⟩ }
        .next (s.onJob c.val n fun k => { k with ph := .given })

/-! ### Loads, drains and stores -/

/-- A load of `n` positions of a row through a handle's placement (R132, R448). -/
def VCtx.load (x : VCtx) (s : State) (n : Nat) : VRes :=
  let h := iVb x.w
  let a := x.o.a.h.getD h 0
  let t := x.o.tens h
  let hd := t.h
  let row := (x.sc (iSc x.w)).1
  let k := (iImm x.w).toNat
  let r := row.toNat
  let bind := x.j.binds.find? fun b => b.1 = h && b.2.2.1 = 32 && b.2.2.2.covers a r 1 k (min (k + n) hd.k)
  let (top, cnt) := SMap.val (0, 0) x.r.rows h
  if row < 0 then .stop 0x10
  else if s.aggregate x.j && r < top && cnt != 0 then .stop 0x51
  else match bind with
  | none => .stop 0x10
  | some b =>
    let view := s.panelView (dieOf x.c) (s.clus x.c).buf b.2.2.2 t
    let bad := match t.o with
      | some o => !view.recsOk o r k (k + n)
      | none => false
    if bad then .stop 0x10
    else
      let els : List VResEl := (List.range n).map fun i => (if k + i ≥ hd.k then 0 else view.value r (k + i), false, false)
      let rows := if cnt != 0 && r = top then x.r.rows else SMap.put h (r, cnt + 1) x.r.rows
      match x.lanes s (iWid x.w) hd.et els with
      | .ok s e q sat => .ok s e { q with rows } sat
      | o => o

/-- VLD (R132). -/
def execVld (c : Cluster) (v : Engine) (s : State) : Host.Outcome State Fault Refusal :=
  s.vec c v 0x01 none fun x s => x.load s (if iWid x.w = 0 then 512 else 256)

/-- VLDQ (R132). -/
def execVldq (c : Cluster) (v : Engine) (s : State) : Host.Outcome State Fault Refusal :=
  s.vec c v 0x02 none fun x s => x.load s 256

/-- VDRN (R133): the next group of 256 drained elements; it waits until one is there. -/
def execVdrn (c : Cluster) (v : Engine) (s : State) : Host.Outcome State Fault Refusal :=
  s.vec c v 0x03 none fun x s =>
    match x.e.drain with
    | [] => .wait
    | (n, ex, g) :: t =>
      match x.lanes s 2 ex (g.map fun a => (a.1, a.2, false)) with
      | .ok s e r sat =>
        let s := (s.onVe x.c x.v fun y => { y with drain := t }).tileDone x.c n
        .ok s { e with drain := t } r sat
      | o => o

/-- Elements of incomplete units that an engine's requantiser holds for a descriptor (R134). -/
def State.incomplete (s : State) (c n : Nat) : Nat :=
  ((s.clus c).rq.filter fun r => r.n = n).foldl (fun a r =>
    a + (r.elems.filter fun e => !(unitKeys r.q r.out.h e.1).all fun k => (SMap.find k r.elems).isSome).length) 0

/-- Whether an aggregate program may store (R448). -/
def State.mayStore (s : State) (r : VRun) : Bool :=
  match s.sec.session with
  | some k => k.kmin ≤ r.rows.foldl (fun m p => max m (p.2.2 / k.rpe)) 0
  | none => false

/-- VSTQ (R127, R134, R448). Positions at or beyond K are not stored. DESIGN CHOICE (log 72): a row outside the tensor or a
negative position stops the program as MALFORMED; R134 names no check. -/
def execVstq (c : Cluster) (v : Engine) (bad : Option BadEl) (s : State) : Host.Outcome State Fault Refusal :=
  s.vec c v 0x04 bad fun x s =>
    let h := iVb x.w
    let t := x.o.tens h
    let hd := t.h
    let rq := x.o.a.q.getD h 0
    let row := (x.sc (iSc x.w)).1
    let imm := iImm x.w
    let r := row.toNat
    let k := imm.toNat
    let past := SMap.val [] x.r.stored h
    let twice := past.any fun p => p.1 = r && max p.2 k < min (min p.2 k + 256) hd.k
    if s.aggregate x.j && !s.mayStore x.r then .stop 0x51
    else if row < 0 || imm < 0 || r ≥ hd.rows || twice then .stop 0x10
    else
      let es : List (Nat × Drained) := ((x.elA.zipIdx).filter fun p => k + p.2 < hd.k).map fun p =>
        (elKey r (k + p.2), (if x.on p.2 then ⟨p.1.1, p.1.2, resOf p.1.1⟩ else accOf 0, x.rxA))
      let s := s.onClus x.c fun y => y.rqAdd x.j.n rq (x.o.rqcb h) t (some (x.v, h)) es
      if s.incomplete x.c x.j.n > 8192 then .stop 0x10
      else .ok s x.e { x.r with stored := SMap.put h ((r, k) :: past) x.r.stored } 0

/-- Address of an image in the scratch of engine v, at the top of the cluster buffer. -/
def scratchAt (v n : Nat) : Nat := 736 * 8192 + 65536 * v + 1152 * n

/-- Image number of a scratch access, none when it lies outside the area. -/
def VCtx.image (x : VCtx) : Option Nat :=
  let n := (x.sc (iSc x.w)).1 + iImm x.w
  if n < 0 || n > (if iWid x.w = 2 then 54 else 55) then none else some n.toNat

/-- A register from its image. -/
def regOfImage (bs : List Byte) : VReg :=
  ⟨Vector.ofFn fun l => BitVec.ofNat 32 (leAt bs (4 * l.val) 4), BitVec.ofNat 16 (leAt bs 1088 2),
   BitVec.ofNat 512 (leAt bs 1024 64)⟩

/-- The image of a register. -/
def imageOfReg (r : VReg) : List Byte :=
  (r.lanes.toList.flatMap fun l => natLe 4 l.toNat) ++ natLe 64 r.flags.toNat ++ natLe 2 r.rx.toNat ++ natLe 62 0

/-- A register after the load of an image in the lanes `on` (R127). -/
def VReg.merge (old new : VReg) (on : Nat → Bool) : VReg :=
  ⟨newLanes old.lanes on new.lanes.toList, new.rx,
   newFlags old.flags on ((List.range 512).map fun i => new.flags.getLsbD i)⟩

/-- VLDX (Table 4.2, R127). -/
def execVldx (c : Cluster) (v : Engine) (s : State) : Host.Outcome State Fault Refusal :=
  s.vec c v 0x05 none fun x s =>
    match x.image with
    | none => .stop 0x10
    | some n =>
      let load := fun (e : VeSt) (i : Nat) =>
        let new := regOfImage ((s.clus x.c).buf.bytes (scratchAt x.v (n + i)) 1152)
        { e with v := SMap.put (iVd x.w + i) ((e.vr (iVd x.w + i)).merge new x.on) e.v }
      let e := load x.e 0
      .ok s (if iWid x.w = 2 then load e 1 else e) x.r 0

/-- VSTX (Table 4.2): the lanes that the mask excludes are stored as 0 with clear flags (R127). -/
def execVstx (c : Cluster) (v : Engine) (bad : Option BadEl) (s : State) : Host.Outcome State Fault Refusal :=
  s.vec c v 0x06 bad fun x s =>
    match x.image with
    | none => .stop 0x10
    | some n =>
      let put := fun (y : Cl) (i : Nat) =>
        let r := x.e.vr (iVa x.w + i)
        { y with buf := y.buf.write (scratchAt x.v (n + i)) (imageOfReg ({ VReg.reset with rx := r.rx }.merge r x.on)) }
      let s := s.onClus x.c fun y => if iWid x.w = 2 then put (put y 0) 1 else put y 0
      .ok s x.e x.r 0

/-! ### Lane-wise instructions -/

/-- VMOV. -/
def execVmov (c : Cluster) (v : Engine) (s : State) : Host.Outcome State Fault Refusal :=
  s.vec c v 0x07 none fun x s => x.one s (iWid x.w) x.rxA fun a => (a.1, a.2, false)

/-- VBCAST. -/
def execVbcast (c : Cluster) (v : Engine) (s : State) : Host.Outcome State Fault Refusal :=
  s.vec c v 0x08 none fun x s =>
    let (a, rx, f) := x.sc (iSc x.w)
    x.lanes s (iWid x.w) rx (List.replicate 256 (vop1 (widBits (iWid x.w)) a f))

/-- VINS: one lane, unless the mask excludes it (R127); the register's exponent becomes the scalar's. -/
def execVins (c : Cluster) (v : Engine) (s : State) : Host.Outcome State Fault Refusal :=
  s.vec c v 0x09 none fun x s =>
    let (a, rx, f) := x.sc (iSc x.w)
    let r := vop1 (widBits (iWid x.w)) a f
    let l := (iImm x.w).toNat
    .ok s (x.e.put (iWid x.w) (iVd x.w) rx (fun i => i = l && x.on i) (List.replicate 256 (r.1, r.2.1))) x.r
      (if r.2.2 && x.on l then 1 else 0)

/-- VIOTA. -/
def execViota (c : Cluster) (v : Engine) (s : State) : Host.Outcome State Fault Refusal :=
  s.vec c v 0x0A none fun x s => x.lanes s 1 0 ((List.range 256).map fun (l : Nat) => ((l : Int), false, false))

/-- VSCALE. -/
def execVscale (c : Cluster) (v : Engine) (s : State) : Host.Outcome State Fault Refusal :=
  s.vec c v 0x0B none fun x s => x.one s (iWid x.w) (x.rxA + iImm x.w) fun a => (a.1, a.2, false)

/-- VADD. -/
def execVadd (c : Cluster) (v : Engine) (s : State) : Host.Outcome State Fault Refusal :=
  s.vec c v 0x10 none fun x s => x.two s (· + ·)

/-- VSUB. -/
def execVsub (c : Cluster) (v : Engine) (s : State) : Host.Outcome State Fault Refusal :=
  s.vec c v 0x11 none fun x s => x.two s (· - ·)

/-- VMUL. -/
def execVmul (c : Cluster) (v : Engine) (s : State) : Host.Outcome State Fault Refusal :=
  s.vec c v 0x12 none fun x s =>
    x.lanes s (iWid x.w) (x.rxA + x.rxB)
      (List.zipWith (fun a b => vop1 (widBits (iWid x.w)) (a.1 * b.1) (a.2 || b.2)) x.elA x.elB)

/-- VMULL: the exact product of two I32. -/
def execVmull (c : Cluster) (v : Engine) (s : State) : Host.Outcome State Fault Refusal :=
  s.vec c v 0x13 none fun x s =>
    x.lanes s 2 (x.rxA + x.rxB) (List.zipWith (fun a b => vop1 64 (a.1 * b.1) (a.2 || b.2)) x.elA x.elB)

/-- VMAD: vd + va * vb, aligned by R124. -/
def execVmad (c : Cluster) (v : Engine) (s : State) : Host.Outcome State Fault Refusal :=
  s.vec c v 0x14 none fun x s =>
    let rp := x.rxA + x.rxB
    let rd := x.e.rx (iVd x.w)
    let prods := List.zipWith (fun a b => (a.1 * b.1, a.2 || b.2)) x.elA x.elB
    x.lanes s 2 (min rd rp) (List.zipWith (fun d p => vop2 64 (· + ·) d rd p rp) (x.e.els 2 (iVd x.w)) prods)

/-- VMAX. -/
def execVmax (c : Cluster) (v : Engine) (s : State) : Host.Outcome State Fault Refusal :=
  s.vec c v 0x15 none fun x s => x.two s max

/-- VMIN. -/
def execVmin (c : Cluster) (v : Engine) (s : State) : Host.Outcome State Fault Refusal :=
  s.vec c v 0x16 none fun x s => x.two s min

/-- VABS. -/
def execVabs (c : Cluster) (v : Engine) (s : State) : Host.Outcome State Fault Refusal :=
  s.vec c v 0x17 none fun x s =>
    x.one s (iWid x.w) x.rxA fun a => vop1 (widBits (iWid x.w)) (a.1.natAbs : Nat) a.2

/-- VNEG. -/
def execVneg (c : Cluster) (v : Engine) (s : State) : Host.Outcome State Fault Refusal :=
  s.vec c v 0x18 none fun x s => x.one s (iWid x.w) x.rxA fun a => vop1 (widBits (iWid x.w)) (-a.1) a.2

/-- VALIGN (R128). -/
def execValign (c : Cluster) (v : Engine) (bad : Option BadEl) (s : State) : Host.Outcome State Fault Refusal :=
  s.vec c v 0x19 bad fun x s =>
    x.one s (iWid x.w) (iImm x.w) fun a => vop1 (widBits (iWid x.w)) (alignRx a.1 x.rxA (iImm x.w)) a.2

/-- VNARW (R128). -/
def execVnarw (c : Cluster) (v : Engine) (bad : Option BadEl) (s : State) : Host.Outcome State Fault Refusal :=
  s.vec c v 0x1A bad fun x s =>
    x.one s 1 (iImm x.w) fun a => vop1 32 (alignRx a.1 x.rxA (iImm x.w)) a.2

/-- VWIDE. -/
def execVwide (c : Cluster) (v : Engine) (s : State) : Host.Outcome State Fault Refusal :=
  s.vec c v 0x1B none fun x s => x.one s 2 x.rxA fun a => (a.1, a.2, false)

/-- VUNPK: the low or the high halves. -/
def execVunpk (c : Cluster) (v : Engine) (s : State) : Host.Outcome State Fault Refusal :=
  s.vec c v 0x1C none fun x s =>
    let hs := if iImm x.w = 1 then x.elA.drop 256 else x.elA.take 256
    x.lanes s 1 x.rxA (hs.map fun a => (a.1, a.2, false))

/-- The conditions of VCMP. -/
def cmpHolds (cond : Int) (a b : Int) : Bool :=
  if cond = 0 then a = b else if cond = 1 then a != b else if cond = 2 then a < b else if cond = 3 then a ≤ b
  else if cond = 4 then a > b else a ≥ b

/-- A mask written in the lanes the instruction acts on. -/
def VCtx.putMask (x : VCtx) (s : State) (bits : List Bool) : VRes :=
  let n := iVd x.w
  let old := x.e.mask n
  let m := BitVec.ofNat 256 (packBits (bits.zipIdx.map fun p => if x.on p.2 then p.1 else old.getLsbD p.2))
  .ok s { x.e with m := SMap.put n m x.e.m } x.r 0

/-- VCMP. -/
def execVcmp (c : Cluster) (v : Engine) (s : State) : Host.Outcome State Fault Refusal :=
  s.vec c v 0x20 none fun x s =>
    let n := widBits (iWid x.w)
    let r := min x.rxA x.rxB
    x.putMask s (List.zipWith (fun a b => cmpHolds (iImm x.w) (toRx n a.1 x.rxA r).1 (toRx n b.1 x.rxB r).1) x.elA x.elB)

/-- VSEL: only the selected element is used (R125). -/
def execVsel (c : Cluster) (v : Engine) (s : State) : Host.Outcome State Fault Refusal :=
  s.vec c v 0x21 none fun x s =>
    let n := widBits (iWid x.w)
    let r := min x.rxA x.rxB
    let m := x.e.mask (iMsk x.w)
    let pick := fun (a : VEl) (rx : Int) =>
      let z := toRx n a.1 rx r
      ((z.1, z.2 || a.2, z.2) : VResEl)
    x.lanes s (iWid x.w) r ((List.zip x.elA x.elB).zipIdx.map fun p =>
      if m.getLsbD p.2 then pick p.1.1 x.rxA else pick p.1.2 x.rxB)

/-- VMSET: n from the immediate, or from SC when it is -1. -/
def execVmset (c : Cluster) (v : Engine) (s : State) : Host.Outcome State Fault Refusal :=
  s.vec c v 0x22 none fun x s =>
    let n := if iImm x.w = -1 then (x.sc (iSc x.w)).1 else iImm x.w
    if n < 0 || n > 256 then .stop 0x10
    else x.putMask s ((List.range 256).map fun (l : Nat) => decide ((l : Int) < n))

/-- VMOP. -/
def execVmop (c : Cluster) (v : Engine) (s : State) : Host.Outcome State Fault Refusal :=
  s.vec c v 0x23 none fun x s =>
    let a := x.e.mask (iVa x.w)
    let b := x.e.mask (iVb x.w)
    let op := iImm x.w
    let m := if op = 0 then a &&& b else if op = 1 then a ||| b else if op = 2 then a &&& ~~~b else ~~~a
    .ok s { x.e with m := SMap.put (iVd x.w) m x.e.m } x.r 0

/-- VEXP2 (R136). -/
def execVexp2 (c : Cluster) (v : Engine) (bad : Option BadEl) (s : State) : Host.Outcome State Fault Refusal :=
  s.vec c v 0x30 bad fun x s =>
    x.one s 1 (-30) fun a =>
      let p := vop1 32 (alignRx a.1 x.rxA (-16)) a.2
      let y := exp2neg p.1
      (y.1, y.2 || p.2.1, y.2 || p.2.2)

/-- VRCP (R137). -/
def execVrcp (c : Cluster) (v : Engine) (bad : Option BadEl) (s : State) : Host.Outcome State Fault Refusal :=
  s.vec c v 0x31 bad fun x s =>
    x.one s 1 (-x.rxA - iImm x.w) fun a =>
      let y := rcpFn a.1 (iImm x.w).toNat
      (y.1, y.2 || a.2, y.2)

/-- Result of rsq on an element (R138). -/
def rsqEl (a : VEl) (rx : Int) (f : Nat) : VResEl :=
  let z := evenRx a.1 rx
  let y := rsqFn z.1 f
  (y.1, y.2 || z.2.2 || a.2, y.2 || z.2.2)

/-- Result of the square root on an element (R138). -/
def sqrtEl (a : VEl) (rx : Int) : VResEl :=
  let z := evenRx a.1 rx
  let y := sqrtFn z.1
  (y.1, y.2 || z.2.2 || a.2, y.2 || z.2.2)

/-- Half of an exponent made even (R138). -/
def halfRx (rx : Int) : Int := (rx - rx % 2) / 2

/-- VRSQ (R138). -/
def execVrsq (c : Cluster) (v : Engine) (bad : Option BadEl) (s : State) : Host.Outcome State Fault Refusal :=
  s.vec c v 0x32 bad fun x s =>
    x.one s 1 (-halfRx x.rxA - iImm x.w) fun a => rsqEl a x.rxA (iImm x.w).toNat

/-- VSQRT (R138). -/
def execVsqrt (c : Cluster) (v : Engine) (bad : Option BadEl) (s : State) : Host.Outcome State Fault Refusal :=
  s.vec c v 0x33 bad fun x s => x.one s 2 (halfRx x.rxA) fun a => sqrtEl a x.rxA

/-! ### Reductions -/

/-- Included elements. -/
def VCtx.included (x : VCtx) : List VEl := (x.elA.zipIdx.filter fun p => x.on p.2).map (·.1)

/-- A total or extreme in its destination (R139, R140): with IMM bit 0 it is combined with the destination, aligned. -/
def VCtx.reduce (x : VCtx) (s : State) (n : Nat) (total rx : Int) (f : Int → Int → Int) : VRes :=
  let fl := x.included.any (·.2)
  let z := vop1 64 total fl
  if iImm x.w % 2 = 0 then x.scal s n rx z
  else
    let d := x.sc n
    let y := vop2 64 f (z.1, z.2.1) rx (d.1, d.2.2) d.2.1
    x.scal s n (min rx d.2.1) (y.1, y.2.1, y.2.2 || z.2.2)

def VCtx.sum (x : VCtx) : Int := x.included.foldl (fun a e => a + e.1) 0
def VCtx.sumSq (x : VCtx) : Int := x.included.foldl (fun a e => a + e.1 * e.1) 0

/-- VRSUM (R139). -/
def execVrsum (c : Cluster) (v : Engine) (bad : Option BadEl) (s : State) : Host.Outcome State Fault Refusal :=
  s.vec c v 0x40 bad fun x s => x.reduce s (iVd x.w) x.sum x.rxA (· + ·)

/-- VRSSQ (R139). -/
def execVrssq (c : Cluster) (v : Engine) (bad : Option BadEl) (s : State) : Host.Outcome State Fault Refusal :=
  s.vec c v 0x41 bad fun x s => x.reduce s (iVd x.w) x.sumSq (2 * x.rxA) (· + ·)

/-- VRMV (R139): both sums of one pass. -/
def execVrmv (c : Cluster) (v : Engine) (bad : Option BadEl) (s : State) : Host.Outcome State Fault Refusal :=
  s.vec c v 0x42 bad fun x s =>
    match x.reduce s (iVd x.w) x.sum x.rxA (· + ·) with
    | .ok s e _ k =>
      (match VCtx.reduce { x with e } s (iVd x.w + 1) x.sumSq (2 * x.rxA) (· + ·) with
        | .ok s e r m => .ok s e r (k + m)
        | o => o)
    | o => o

/-- The extreme of some integers, or `d` of none. -/
def extreme (f : Int → Int → Int) (d : Int) : List Int → Int
  | [] => d
  | a :: t => t.foldl f a

/-- VRMAX (R140). -/
def execVrmax (c : Cluster) (v : Engine) (bad : Option BadEl) (s : State) : Host.Outcome State Fault Refusal :=
  s.vec c v 0x43 bad fun x s =>
    x.reduce s (iVd x.w) (extreme max (-(2 ^ 63)) (x.included.map (·.1))) x.rxA max

/-- VRMIN (R140). -/
def execVrmin (c : Cluster) (v : Engine) (bad : Option BadEl) (s : State) : Host.Outcome State Fault Refusal :=
  s.vec c v 0x44 bad fun x s =>
    x.reduce s (iVd x.w) (extreme min (2 ^ 63 - 1) (x.included.map (·.1))) x.rxA min

/-- VRAMAX (R140). -/
def execVramax (c : Cluster) (v : Engine) (bad : Option BadEl) (s : State) : Host.Outcome State Fault Refusal :=
  s.vec c v 0x45 bad fun x s =>
    x.reduce s (iVd x.w) (extreme max 0 (x.included.map fun e => ((e.1.natAbs : Nat) : Int))) x.rxA max

/-- VRCNT. -/
def execVrcnt (c : Cluster) (v : Engine) (s : State) : Host.Outcome State Fault Refusal :=
  s.vec c v 0x46 none fun x s =>
    x.scal s (iVd x.w) 0 ((popcount 256 (x.e.mask (iVa x.w)).toNat : Nat), false, false)

/-! ### Scalar instructions -/

/-- SMOVI. -/
def execSmovi (c : Cluster) (v : Engine) (s : State) : Host.Outcome State Fault Refusal :=
  s.vec c v 0x50 none fun x s => x.scal s (iVd x.w) 0 (iImm x.w, false, false)

/-- SSCALE. -/
def execSscale (c : Cluster) (v : Engine) (s : State) : Host.Outcome State Fault Refusal :=
  s.vec c v 0x51 none fun x s =>
    let a := x.sc (iVa x.w)
    x.scal s (iVd x.w) (a.2.1 + iImm x.w) (a.1, a.2.2, false)

/-- SADD. -/
def execSadd (c : Cluster) (v : Engine) (s : State) : Host.Outcome State Fault Refusal :=
  s.vec c v 0x52 none fun x s => x.scal2 s (· + ·)

/-- SSUB. -/
def execSsub (c : Cluster) (v : Engine) (s : State) : Host.Outcome State Fault Refusal :=
  s.vec c v 0x53 none fun x s => x.scal2 s (· - ·)

/-- SMUL: the product, at the sum of the exponents. -/
def execSmul (c : Cluster) (v : Engine) (s : State) : Host.Outcome State Fault Refusal :=
  s.vec c v 0x54 none fun x s =>
    let a := x.sc (iVa x.w)
    let b := x.sc (iVb x.w)
    x.scal s (iVd x.w) (a.2.1 + b.2.1) (vop1 64 (a.1 * b.1) (a.2.2 || b.2.2))

/-- SMAX. -/
def execSmax (c : Cluster) (v : Engine) (s : State) : Host.Outcome State Fault Refusal :=
  s.vec c v 0x55 none fun x s => x.scal2 s max

/-- SMIN. -/
def execSmin (c : Cluster) (v : Engine) (s : State) : Host.Outcome State Fault Refusal :=
  s.vec c v 0x56 none fun x s => x.scal2 s min

/-- SADDI: sd + IMM on the integer. -/
def execSaddi (c : Cluster) (v : Engine) (s : State) : Host.Outcome State Fault Refusal :=
  s.vec c v 0x57 none fun x s =>
    let a := x.sc (iVd x.w)
    x.scal s (iVd x.w) a.2.1 (vop1 64 (a.1 + iImm x.w) a.2.2)

/-- SMV (R141). -/
def execSmv (c : Cluster) (v : Engine) (bad : Option BadEl) (s : State) : Host.Outcome State Fault Refusal :=
  s.vec c v 0x58 bad fun x s =>
    let a := x.sc (iVa x.w)
    let b := x.sc (iVa x.w + 1)
    let n := x.sc (iVb x.w)
    let fl := a.2.2 || b.2.2 || n.2.2
    let f := (iImm x.w).toNat
    let (mean, var, r2) := meanVar a.1 a.2.1 b.1 b.2.1 n.1 f
    match x.scal s (iVd x.w) (a.2.1 - f) (mean.1, mean.2 || fl, mean.2) with
    | .ok s e _ k =>
      (match VCtx.scal { x with e } s (iVd x.w + 1) (r2 - f) (var.1, var.2 || fl, var.2) with
        | .ok s e r m => .ok s e r (k + m)
        | o => o)
    | o => o

/-- SRCP (R137). -/
def execSrcp (c : Cluster) (v : Engine) (bad : Option BadEl) (s : State) : Host.Outcome State Fault Refusal :=
  s.vec c v 0x59 bad fun x s =>
    let a := x.sc (iVa x.w)
    let y := rcpFn a.1 (iImm x.w).toNat
    x.scal s (iVd x.w) (-a.2.1 - iImm x.w) (y.1, y.2 || a.2.2, y.2)

/-- SRSQ (R138). -/
def execSrsq (c : Cluster) (v : Engine) (bad : Option BadEl) (s : State) : Host.Outcome State Fault Refusal :=
  s.vec c v 0x5A bad fun x s =>
    let a := x.sc (iVa x.w)
    x.scal s (iVd x.w) (-halfRx a.2.1 - iImm x.w) (rsqEl (a.1, a.2.2) a.2.1 (iImm x.w).toNat)

/-- SSQRT (R138). -/
def execSsqrt (c : Cluster) (v : Engine) (bad : Option BadEl) (s : State) : Host.Outcome State Fault Refusal :=
  s.vec c v 0x5B bad fun x s =>
    let a := x.sc (iVa x.w)
    x.scal s (iVd x.w) (halfRx a.2.1) (sqrtEl (a.1, a.2.2) a.2.1)

/-- SPUT (R142): an entry on the summary queue; it waits while the queue holds 8. -/
def execSput (c : Cluster) (v : Engine) (s : State) : Host.Outcome State Fault Refusal :=
  s.vec c v 0x5C none fun x s =>
    if x.e.sumq.length ≥ 8 then .wait
    else
      let a := x.e.sr (iVa x.w)
      let en : SumEntry := ⟨BitVec.ofNat 16 (iRaw x.w), a.v, a.rx, a.flag, BitVec.ofNat 16 (fld x.j.desc 48 16)⟩
      .ok s { x.e with sumq := x.e.sumq ++ [en] } x.r 0

/-- VLOOP (R131). -/
def execVloop (c : Cluster) (v : Engine) (s : State) : Host.Outcome State Fault Refusal :=
  s.vec c v 0x60 none fun x s =>
    .ok s x.e { x.r with loops := (x.r.pc + 1, x.r.pc + loopN x.w, loopC x.w - 1) :: x.r.loops } 0

/-- VEND (R134, R147): the program ends once every complete unit is written; an incomplete one makes it MALFORMED. -/
def execVend (c : Cluster) (v : Engine) (s : State) : Host.Outcome State Fault Refusal :=
  s.vec c v 0x7F none fun x s =>
    let rs := (s.clus x.c).rq.filter fun r => r.n = x.j.n && !r.elems.isEmpty
    if rs.isEmpty then
      let s := (s.opEvents x.c x.j.n).worked x.c x.j.n 0 0
      .ok s x.e x.r 0
    else if s.incomplete x.c x.j.n = rs.foldl (fun a r => a + r.elems.length) 0 then .stop 0x10
    else .wait

/-! ### The summary port -/

/-- POP removes the head entry of an engine's queue (Table 4.3). -/
def State.popSummary (s : State) (c v : Nat) : State := s.onVe c v fun e => { e with sumq := e.sumq.drop 1 }

/-- SUMMARY_POP (R143, R144): the control core removes the head entry. -/
def execSummaryPop (c : Cluster) (v : Engine) (s : State) : Host.Outcome State Fault Refusal :=
  .next (s.popSummary c.val v.val)

end Sys2Proof.Machine
end

