-- ==== Sys2Proof/Machine/Links.lean ====
section
/-!
DEFINITION. Ports and the link layer (chapter 10): training and failure (R304 to R307, R313), light (R301), lane words
(R308), flits, retry and credits (R309 to R314), keys (R315 to R317), routes and messages (R318 to R320, R332).
-/

namespace Sys2Proof.Machine

def State.port (s : State) (p : Nat) : PortS := SMap.val PortS.reset s.lnk.port p
def State.setPort (s : State) (p : Nat) (x : PortS) : State :=
  { s with lnk := { s.lnk with port := SMap.put p x s.lnk.port } }
def State.onPort (s : State) (p : Nat) (f : PortS → PortS) : State := s.setPort p (f (s.port p))

def PortSt.code : PortSt → Nat
  | .off => 0 | .dark => 1 | .training => 2 | .pairing => 3 | .keying => 4 | .up => 5 | .retrain => 6 | .failed => 7

/-- Wavelengths active in the transmit direction (Table 10.19). -/
def PortS.active (x : PortS) : BitVec 8 :=
  if x.st = .up then x.light &&& ~~~x.failed &&& ~~~x.peerFailed &&& ~~~x.parked &&& ~~~x.unpark else 0

/-- The LNK_PSTAT image (Table 10.19). -/
def PortS.image (x : PortS) : Nat :=
  x.st.code + (if x.qual && (x.st = .up || x.st = .retrain) then 8 else 0) + x.active.toNat * 2 ^ 4 + x.failed.toNat * 2 ^ 12 + x.parked.toNat * 2 ^ 20
    + x.cause.toNat * 2 ^ 28 + x.loopNs.toNat * 2 ^ 32

/-- Own rank. -/
def State.rank (s : State) : Nat := s.rf R.lnkCtl 0 12

/-- The port is enabled (LNK_PCTL.EN). -/
def State.portOn (s : State) (p : Nat) : Bool := s.rf (R.lnkPctl p) 0 1 = 1

/-! ### Routes (R318) -/

def State.route (s : State) (n : Nat) : Nat := leNat (s.mem.bytes (s.rd R.lnkRtbase + 8 * n) 8)
def routeValid (e : Nat) : Bool := bitsOf e 32 1 = 1
def routeInJob (e : Nat) : Bool := bitsOf e 34 1 = 1

/-- Ports toward a rank that are UP, ascending. -/
def State.upPorts (s : State) (n : Nat) : List Nat :=
  (List.range 32).filter fun p => (s.route n).testBit p && (s.port p).st = .up

/-- The port a message leaves on: for a collective, the (CSEQ + CHUNK)-th UP port; otherwise the lowest. -/
def State.pickPort (s : State) (n : Nat) (coll : Bool) (cseq chunk : Nat) : Option Nat :=
  let ps := s.upPorts n
  if ps.isEmpty then none else ps[if coll then (cseq + chunk) % ps.length else 0]?

/-! ### Messages (R320) -/

/-- Message types of collectives, whose port follows CSEQ and CHUNK. -/
def isCollMsg (t : Nat) : Bool := 1 ≤ t && t ≤ 6

/-- The bytes of a message: header (Table 10.8), then data. -/
def msgBytes (mtype : Nat) (m : Msg) : List Byte :=
  natLe 1 mtype ++ natLe 1 m.group.toNat ++ natLe 2 m.cgen.toNat ++ natLe 4 m.cseq.toNat ++ natLe 4 m.chunk.toNat
    ++ natLe 4 0 ++ natLe 8 m.offset ++ natLe 4 m.data.length ++ natLe 4 0
    ++ natLe 1 ((if m.last then 1 else 0) + (if m.digValid then 2 else 0)) ++ natLe 7 0 ++ natLe 8 m.dig.toNat ++ m.data

/-- A message from its bytes. -/
def msgOf (src : BitVec 12) (bs : List Byte) : Nat × Msg :=
  let f := leAt bs 32 1
  let m : Msg :=
    { src := src, group := BitVec.ofNat 8 (leAt bs 1 1), cgen := BitVec.ofNat 16 (leAt bs 2 2),
      cseq := BitVec.ofNat 32 (leAt bs 4 4), chunk := BitVec.ofNat 32 (leAt bs 8 4), offset := leAt bs 16 8,
      last := f % 2 = 1, digValid := f / 2 % 2 = 1, dig := BitVec.ofNat 64 (leAt bs 40 8),
      data := (bs.drop 48).take (leAt bs 24 4) }
  (leAt bs 0 1, m)

/-- The payloads of a message's flits: 224 bytes each (R320). -/
def payloads (bs : List Byte) : List (BitVec 1792) :=
  (List.range (ceilDiv bs.length 224)).map fun i => BitVec.ofNat 1792 (leNat ((bs.drop (224 * i)).take 224))

/-- The flits of a message as far as it has come. -/
def OutMsg.flits (m : OutMsg) : List TxFlit :=
  m.pay.zipIdx.map fun p =>
    ({ run := m.id, vc := m.vc, first := p.2 = 0, last := m.closed && p.2 + 1 = m.pay.length, dst := m.dst, src := m.src,
       payload := p.1, res := m.res, back := none } : TxFlit)

/-- A message joins the queue of its VC at a port, whole or as far as it has come. -/
def State.place (s : State) (p : Nat) (m : OutMsg) : State :=
  let m := { m with port := p, left := m.pay.length }
  let s := { s with lnk := { s.lnk with out := s.lnk.out ++ [m] } }
  s.onPort p fun x => { x with txq := x.txq.set m.vc (x.txq[m.vc] ++ m.flits) }

/-- A message of this device's is given to a port. `org` is the collective that waits on it. -/
def State.putMsg (s : State) (p : Nat) (dst : BitVec 12) (vc : Fin 4) (bs : List Byte) (org : Option (Nat × Nat))
    (res : List Nat) : State :=
  let id := s.lnk.nextMsg
  let s := { s with lnk := { s.lnk with nextMsg := id + 1 } }
  s.place p ⟨id, p, dst, BitVec.ofNat 12 s.rank, vc, res, payloads bs, true, 0, org, none⟩

/-- A message leaves for a rank (R318): whether it has left. One for a rank without VALID is discarded and counted. -/
def State.sendMsg (s : State) (dst : Nat) (vc : Fin 4) (mtype : Nat) (m : Msg) (org : Option (Nat × Nat))
    (res : List Nat) : Bool × State :=
  if !routeValid (s.route dst) then (true, s.flag R.lnkStat 0 R.lnkStalecnt 1)
  else match s.pickPort dst (isCollMsg mtype) m.cseq.toNat m.chunk.toNat with
    | some p => (true, s.putMsg p (BitVec.ofNat 12 dst) vc (msgBytes mtype m) org res)
    | none => (false, s)

/-- A collective ends with a status (R163): its signal goes out when it succeeds, else its record is written. -/
def State.collEnd (s : State) (d k status off : Nat) : State :=
  match s.coll d k with
  | none => s
  | some j =>
    let h := whdrOf j.cmd
    let status := if status = 0 && j.ev then 1 else status
    let j := { j with status := BitVec.ofNat 8 status, off := BitVec.ofNat 8 off }
    let s := s.onColl d k fun _ => j
    if status ≤ 1 && h.sen && j.seq.isNone then
      (s.onColl d k fun j => { j with ph := .signalled }).send h.sobj (BitVec.ofNat 16 h.sgen) h.sinc (.coll d k)
    else (s.collDrop d j status).collRecord d j status

/-- A receive slot is freed. -/
def PortS.free (x : PortS) (i : Fin 5) : PortS := { x with freed := x.freed.set i (x.freed[i] + 1) }

/-- The slots of forwarded flits are freed. -/
def State.freeBack (s : State) (fs : List TxFlit) : State :=
  fs.foldl (fun s f => match f.back with | some (p, i) => s.onPort p fun x => x.free i | none => s) s

/-- A message that will not be sent on: what has not left yet leaves its queue, and the VC it had begun to use is free. -/
def State.dropRun (s : State) (m : OutMsg) : State :=
  let s := { s with lnk := { s.lnk with out := s.lnk.out.filter fun o => o.id != m.id } }
  let s := s.freeBack ((s.port m.port).txq[m.vc].filter fun f => f.run = m.id)
  s.onPort m.port fun x =>
    { x with txq := x.txq.set m.vc (x.txq[m.vc].filter fun f => f.run != m.id),
             cur := if x.cur[m.vc] = some m.id then x.cur.set m.vc none else x.cur }

/-- The port on which a message leaves by R318, from the header in its first payload. -/
def State.portOf (s : State) (m : OutMsg) : Option Nat :=
  let bs := natLe 48 (m.pay.headD 0).toNat
  s.pickPort m.dst.toNat (isCollMsg (leAt bs 0 1)) (leAt bs 4 4) (leAt bs 8 4)

/-- A port has gone out of service. Messages not wholly acknowledged on it are sent again whole on another UP port of their
routes; with none left, the collectives that wait on them complete with LINK_LOST (R332), and a forwarded message is dropped
(log 79). A message that was still arriving on the port is dropped, and its slots end with its link. -/
def State.rerouteAll (s : State) (p : Nat) : State :=
  let inbox := s.lnk.inbox.map fun (i : InMsg) => if i.port = p then { i with slots := [] } else i
  let loose := fun (f : TxFlit) => match f.back with | some (q, _) => if q = p then { f with back := none } else f | none => f
  let port := s.lnk.port.map fun (e : Nat × PortS) => (e.1, { e.2 with txq := e.2.txq.map fun l => l.map loose })
  let s := { s with lnk := { s.lnk with inbox, port } }
  let s := (s.lnk.out.filter fun m => m.via = some p && !m.closed).foldl (fun s m => s.dropRun m) s
  let ms := s.lnk.out.filter fun m => m.port = p
  let s := s.freeBack ((s.port p).txq.toList.flatMap id)
  let s := { s with lnk := { s.lnk with out := s.lnk.out.filter fun m => m.port != p } }
  let s := s.onPort p fun x =>
    { x with txq := #v[[], [], [], []], unacked := [], resend := none, cur := #v[none, none, none, none],
             fwd := #v[none, none, none, none] }
  ms.foldl (fun s m =>
    match s.portOf m with
    | some q => if m.via = some q then s.flag R.lnkStat 0 R.lnkStalecnt 1 else s.place q m
    | none => match m.org with
      | some (d, k) => s.collEnd d k 0x40 0
      | none => s) s

/-! ### Flits on the fibre (R309, R316) -/

/-- The key of one direction of a port's link (R315): `own` for the direction this device sends, with the sending port and
the key generation. -/
def PortS.dirKey (x : PortS) (p : Nat) (own : Bool) (kgen : Nat) : List Byte :=
  let (pr, pp) := x.peer.getD (0, 0)
  let me := x.rank.toNat
  let lo := min me pr.toNat
  let hi := max me pr.toNat
  let sender := if own then me else pr.toNat
  let ctx := natLe 2 lo ++ natLe 2 hi ++ natLe 2 (if sender = lo then 0 else 1)
    ++ natLe 2 (if own then p else pp.toNat) ++ natLe 4 kgen
  kdf (bytes256 (x.kdk.getD 0)) (("ETNX-LINK".toList).map fun c => BitVec.ofNat 8 c.toNat) ctx

/-- IV of a flit (R316). -/
def flitIv (fcnt : Nat) : List Byte := natBe 4 0 ++ natBe 8 fcnt

/-- CRC-32 of R309. -/
def crc32 (bs : List Byte) : Nat := crcRefl 0xEDB88320 0xFFFFFFFF 0xFFFFFFFF bs

/-- A flit as it stands on the fibre (Table 10.4): `b0` holds KIND, VC, FIRST and LAST. -/
def PortS.seal (x : PortS) (p b0 : Nat) (shr : Bool) (seq dst src fcnt : Nat) (payload : List Byte) : Flit :=
  let hdr := natLe 1 b0 ++ natLe 1 ((if x.kphTx then 1 else 0) + (if shr then 2 else 0)) ++ natLe 2 seq
    ++ natLe 2 (x.expSeq.toNat + 2 ^ 15) ++ natLe 2 (x.csel.val + (x.freed[x.csel]).toNat * 8)
    ++ natLe 2 dst ++ natLe 2 src ++ natLe 4 (fcnt % 2 ^ 32)
  let (ct, tag) := gcm (x.dirKey p true x.kgenTx.toNat) (flitIv fcnt) hdr payload
  let body := hdr ++ ct ++ tag.take 12
  BitVec.ofNat 2048 (leNat (body ++ natLe 4 (crc32 body)))

/-! ### Control flits sent (R311) -/

/-- The payload of a control flit: its subtype in byte 0 (Table 10.6), then its content. DESIGN CHOICE (log 78): the places of
the content. -/
def Ctl.payload : Ctl → List Byte
  | .nak q => natLe 1 1 ++ natLe 2 q.toNat ++ natLe 221 0
  | .credits c => natLe 1 2 ++ (c.toList.flatMap fun n => natLe 2 n.toNat) ++ natLe 213 0
  | .time .request => natLe 1 3 ++ natLe 223 0
  | .time (.reply t2 t3 depth up) =>
    natLe 1 3 ++ natLe 1 1 ++ natLe 8 t2.toNat ++ natLe 8 t3.toNat ++ natLe 1 depth.toNat
      ++ natLe 1 (if up then 1 else 0) ++ natLe 204 0
  | .lane lock failed parked =>
    natLe 1 4 ++ natLe 1 lock.toNat ++ natLe 1 failed.toNat ++ natLe 1 parked.toNat ++ natLe 220 0
  | .rekey g => natLe 1 5 ++ natLe 4 g.toNat ++ natLe 219 0

/-- The content of a control flit's payload, none for a subtype that Table 10.6 does not list. -/
def ctlOf (pt : List Byte) : Option Ctl :=
  let at_ := leAt pt
  let t := at_ 0 1
  if t = 1 then some (.nak (BitVec.ofNat 12 (at_ 1 2)))
  else if t = 2 then some (.credits (Vector.ofFn fun i => BitVec.ofNat 13 (at_ (1 + 2 * i.val) 2)))
  else if t = 3 then
    (if at_ 1 1 = 0 then some (.time .request)
     else some (.time (.reply (BitVec.ofNat 64 (at_ 2 8)) (BitVec.ofNat 64 (at_ 10 8)) (BitVec.ofNat 8 (at_ 18 1))
       (at_ 19 1 = 1))))
  else if t = 4 then
    some (.lane (BitVec.ofNat 8 (at_ 1 1)) (BitVec.ofNat 8 (at_ 2 1)) (BitVec.ofNat 8 (at_ 3 1)))
  else if t = 5 then some (.rekey (BitVec.ofNat 32 (at_ 1 4)))
  else none

/-- A control flit goes out at port p: it takes a new FCNT, and carries the cumulative ACK and a credit counter. -/
def PortS.ctlOut (x : PortS) (p : Nat) (c : Ctl) (now : Nat) : PortS :=
  let fcnt := x.fcntTx + 1
  { x with outCtl := x.seal p 2 false 0 0 0 fcnt.toNat c.payload, fcntTx := fcnt, keyFlits := x.keyFlits + 1,
           csel := x.csel + 1, lastCtl := now }

/-- A rekey of a port's transmitter (R316): the REKEY flit goes out and KPH toggles. -/
def PortS.rekeyed (x : PortS) (p now : Nat) : PortS :=
  { x.ctlOut p (.rekey (x.kgenTx + 1)) now with kgenTx := x.kgenTx + 1, kphTx := !x.kphTx, keyFlits := 0 }

/-- A transmitter that has sent 2^40 flits under its key rekeys (R316). -/
def PortS.keyAged (x : PortS) (p now : Nat) : PortS := if x.keyFlits ≥ 2 ^ 40 then x.rekeyed p now else x

/-- A control flit of a port goes out. -/
def State.sendCtl (s : State) (p : Nat) (c : Ctl) : State := s.onPort p fun x => (x.ctlOut p c s.ticks).keyAged p s.ticks

/-- A LANE flit: wavelengths in lock, failed and parked (R307, R308). -/
def State.sendLane (s : State) (p : Nat) : State :=
  let x := s.port p
  s.sendCtl p (.lane (~~~x.failed &&& ~~~x.rxDown) x.failed x.parked)

/-! ### Failure and training -/

/-- A port goes to FAILED with a cause (R304, R313, R332). -/
def State.portFail (s : State) (p cause : Nat) : State :=
  let s := s.onPort p fun x => { x with st := .failed, qual := false, cause := BitVec.ofNat 4 cause, since := s.ticks }
  let s := s.raise 0x4005 (srcPort p) 0 (s.port p).image 0
  s.rerouteAll p

/-- Newly failed wavelengths (R307): dropped from striping, counted and reported. -/
def State.lambdaFail (s : State) (p : Nat) (w : BitVec 8) : State :=
  let x := s.port p
  let new := w &&& ~~~x.failed
  if new = 0 then s
  else
    let s := s.setPort p { x with failed := x.failed ||| new }
    (s.flag (R.lnkPerr p) 2 (R.lnkLamcnt p) 1).raise 0x4003 (srcPort p) 0 (x.failed ||| new).toNat 0

/-- Ends of a port's link layer after full training: sequence numbers, credits and keys start afresh. -/
def PortS.fresh (x : PortS) (now : Nat) : PortS :=
  { x with txq := #v[[], [], [], []], unacked := [], nextSeq := 0, resend := none, kgenTx := 0, kphTx := false,
           keyFlits := 0, freedIn := #v[0, 0, 0, 0, 0], used := #v[0, 0, 0, 0, 0], sinceMgmt := 15,
           cur := #v[none, none, none, none], turn := 1, lastData := now, lastCtl := now, lastCred := now, ackAt := now, expSeq := 0, fcntRx := 0, kgenRx := 0, kphRx := false, announced := none,
           oldKey := none, freed := #v[0, 0, 0, 0, 0], nakAt := none, lastRx := now,
           asm := #v[([], []), ([], []), ([], []), ([], [])], fwd := #v[none, none, none, none] }

/-- The job link key, or the installation's when no session is open (R306, R315). -/
def State.linkKdk (s : State) : Option (BitVec 256 × Bool) :=
  match s.sec.session with
  | some k => some (k.linkKey, false)
  | none => (SMap.find 8 s.sec.keys).map fun k => (k, true)

/-- Bound in ms from signal detect on the next step of an attempt (Table 10.3): step 2 and step 3 in TRAINING, then the
state that each later row names. DEDUCED (log 80): a port is in PAIRING once it is deskewed. -/
def PortS.bound (x : PortS) : Nat :=
  if x.st = .training then (if x.locked.isNone then 20 else 21) else if x.st = .pairing then 25 else 30

/-- The port is in an attempt that has missed a bound. -/
def PortS.late (x : PortS) (now : Nat) : Bool :=
  (x.st = .training || x.st = .pairing || x.st = .keying) && now - x.since > x.bound * tMs

/-- A port in RETRAIN that has lock and deskew again (R307, R313): it comes back with its replay state; a failed wavelength
has been tried again. Where its key was erased meanwhile it goes to PAIRING (R315). -/
def State.resumePort (s : State) (p : Nat) (lit : BitVec 8) : State :=
  let s := s.lambdaFail p (~~~lit)
  let x := s.port p
  let x := { x with failed := ~~~lit, peerFailed := 0, since := s.ticks, lastRx := s.ticks, ackAt := s.ticks }
  if x.kdk.isNone then (s.setPort p { x with st := .pairing, locked := some lit }).rerouteAll p
  else s.setPort p { x with st := .up, resend := x.unacked.head?.map (·.seq),
                            unacked := x.unacked.map fun u => { u with tries := 0 } }

/-- LINK_TRAINING (R305, R306, R313): the step of Table 10.3 that the attempt has come to. -/
def execLinkTraining (p : Port) (obs : TrainObs) (s : State) : Host.Outcome State Fault Refusal :=
  let s := s.causesAll
  let x := s.port p.val
  if !s.portOn p.val || x.light = 0 then .next s
  else if x.late s.ticks then .next (s.portFail p.val 6)
  else match obs with
  | .signal =>
    if x.st = .dark || (x.st = .off && s.dev.start.isSome) then
      .next (s.setPort p.val { x with st := .training, since := s.ticks, locked := none, peerFailed := 0, unpark := 0 })
    else .next s
  | .locked w =>
    if x.st != .training then .next s
    else if w &&& x.light = 0 then .next (s.portFail p.val 6)
    else .next (s.setPort p.val { x with locked := some (w &&& x.light) })
  | .deskewed w =>
    if x.st = .retrain then
      if w &&& x.light = 0 || s.ticks - x.since > s.rf R.lnkCtl 24 8 * tMs then .next s
      else .next (s.resumePort p.val (w &&& x.light))
    else match x.st, x.locked with
      | .training, some l =>
        if w &&& l = 0 then .next (s.portFail p.val 6)
        else .next (s.setPort p.val { x with st := .pairing, failed := ~~~(w &&& l) })
      | _, _ => .next s
  | .paired peerRank peerPort loopNs =>
    if x.st != .pairing then .next s
    else
      let s := s.setPort p.val { x with peer := some (peerRank, peerPort), loopNs }
      let want := s.rd (R.lnkPeer p.val)
      if bitsOf want 0 12 != peerRank.toNat || bitsOf want 12 5 != peerPort.toNat then
        .next ((s.raise 0x4002 (srcPort p.val) 0 (peerRank.toNat + peerPort.toNat * 2 ^ 16) 0).portFail p.val 2)
      else if loopNs.toNat > 1600 then .next (s.portFail p.val 1)
      else .next (s.onPort p.val fun x => { x with st := .keying })
  | .proven ok =>
    if x.st != .keying then .next s
    else match s.linkKdk, ok with
      | some (kdk, qual), true =>
        let cred := BitVec.ofNat 32 (s.rd (R.lnkCredit p.val))
        let rank := BitVec.ofNat 12 s.rank
        let s := s.setPort p.val { x.fresh s.ticks with st := .up, qual, kdk := some kdk, cause := 0, cred, rank,
                                                        since := s.ticks, clean := true, ue := [], cwc := [] }
        .next (s.raise 0x4001 (srcPort p.val) 0 (s.port p.val).image 0)
      | _, _ => .next (s.portFail p.val 6)

/-- TRAINING_TIMEOUT (R305): an attempt that misses a bound of Table 10.3 fails. -/
def execTrainingTimeout (p : Port) (s : State) : Host.Outcome State Fault Refusal :=
  if (s.port p.val).late s.ticks then .next (s.portFail p.val 6) else .next s

/-- TRAINING_RETRY (R305): a new attempt 100 ms after a failed one. -/
def execTrainingRetry (p : Port) (s : State) : Host.Outcome State Fault Refusal :=
  let x := s.port p.val
  if x.st = .failed && x.cause = 6 && !x.qual && s.portOn p.val && x.light != 0 && s.ticks - x.since ≥ 100 * tMs then
    .next (s.setPort p.val { x with st := .training, since := s.ticks, locked := none, peerFailed := 0, unpark := 0 })
  else .next s

/-- FAILED_PORT_RETRY (R313): a FAILED port tries full training once each second. -/
def execFailedPortRetry (p : Port) (s : State) : Host.Outcome State Fault Refusal :=
  let x := s.port p.val
  if x.st = .failed && !x.qual && s.portOn p.val && x.light != 0 && s.ticks - x.since ≥ tSec then
    .next (s.setPort p.val { x with st := .training, since := s.ticks, locked := none, peerFailed := 0, unpark := 0 })
  else .next s

/-- LIGHT_LOSS (R301): wavelengths of a laser input below their minimum fail on the engine's four ports; without any light
the ports go to DARK. -/
def execLightLoss (oe : Fin 8) (below : BitVec 8) (s : State) : Host.Outcome State Fault Refusal :=
  .next ((List.range 4).foldl (fun s i =>
    let p := 4 * oe.val + i
    let s := s.onPort p fun x => { x with light := ~~~below }
    let s := if (s.port p).st = .off then s else s.lambdaFail p below
    if below = 255 && (s.port p).st != .off then
      (s.onPort p fun x => { x with st := .dark, cause := 5, since := s.ticks }).rerouteAll p
    else s) s)

/-- WAVELENGTH_FAILURE (R307): the wavelength has lost lock, or has given more than 16 uncorrectable codewords within 1 ms.
The peer is told in a LANE flit. -/
def execWavelengthFailure (p : Port) (w : Fin 8) (lost : Bool) (s : State) : Host.Outcome State Fault Refusal :=
  let x := s.port p.val
  let ue := (SMap.val [] x.ue w.val).filter fun t => s.ticks - t < tMs
  if x.st != .up || x.failed.getLsbD w.val || !(lost || ue.length > 16) then .next s
  else .next ((s.lambdaFail p.val (1#8 <<< w.val)).sendLane p.val)

/-- The wavelengths that carry frames are more than 8 codewords apart (R303). -/
def PortS.skewed (x : PortS) : Bool :=
  let cs := (x.cwc.filter fun e => x.active.getLsbD e.1).map (·.2)
  cs.any fun a => cs.any fun b => 8 < (a - b).toNat && (a - b).toNat < 128

/-- RETRAIN (R313): a port whose cause holds retrains with its state kept; the fourth retrain within 1 s fails it. -/
def execRetrain (p : Port) (why : RetrainCause) (s : State) : Host.Outcome State Fault Refusal :=
  let x := s.port p.val
  let holds := match why with
    | .retransmissions => x.unacked.any fun u => u.tries ≥ 8
    | .ackStalled => !x.unacked.isEmpty && s.ticks - x.ackAt ≥ 100 * tUs
    | .noWavelength => x.active = 0
    | .deskewLost => x.skewed
    | .silence => s.ticks - x.lastRx ≥ 100 * tUs
  if x.st != .up || !holds then .next s
  else
    let rs := s.ticks :: (x.retrains.filter fun t => s.ticks - t < tSec)
    let s := s.setPort p.val { x with st := .retrain, since := s.ticks, retrains := rs, clean := false, cwc := [] }
    let s := s.flag (R.lnkPerr p.val) 0 (R.lnkRtrcnt p.val) 1
    .next (if rs.length ≥ 4 then s.portFail p.val 4 else s)

/-- RETRAIN_TIMEOUT (R313): not UP within LNK_CTL.RTMO. -/
def execRetrainTimeout (p : Port) (s : State) : Host.Outcome State Fault Refusal :=
  let x := s.port p.val
  if x.st = .retrain && s.ticks - x.since ≥ s.rf R.lnkCtl 24 8 * tMs then .next (s.portFail p.val 4) else .next s

/-- A codeword of a wavelength has been decoded (R302, R307): the port's counters of Table 10.13. -/
def State.codeword (s : State) (p w : Nat) (fec : Fec) : State :=
  match fec with
  | .clean => s
  | .corrected => s.tally (R.lnkFecce p) 1
  | .uncorrectable => (s.tally (R.lnkFecue p) 1).onPort p fun x =>
      { x with ue := SMap.put w ((s.ticks :: SMap.val [] x.ue w).take 17) x.ue, clean := false }

/-- LANE_WORD (R303, R308): the lane word of a codeword that decodes. 16 consecutive PARK words power the wavelength down, 16
UNPARK words bring it back, and its lock is reported in a LANE flit. -/
def execLaneWord (p : Port) (w : Fin 8) (word : BitVec 20) (fec : Fec) (s : State) : Host.Outcome State Fault Refusal :=
  if (s.port p.val).st != .up then .next s
  else
    let s := s.codeword p.val w.val fec
    let x := s.port p.val
    if fec = .uncorrectable then .next (s.setPort p.val { x with runs := SMap.del w.val x.runs })
    else if fld word 8 3 != w.val then .next s
    else
      let x := { x with cwc := SMap.put w.val (BitVec.ofNat 8 (fld word 0 8)) x.cwc }
      let park := fld word 11 1 = 1
      let un := fld word 12 1 = 1
      if park = un then .next (s.setPort p.val { x with runs := SMap.del w.val x.runs })
      else
        let n := match SMap.find w.val x.runs with
          | some (k, n) => if k = park then n + 1 else 1
          | none => 1
        let x := { x with runs := SMap.put w.val (decide park, min n 16) x.runs }
        let m := 1#8 <<< w.val
        if n < 16 then .next (s.setPort p.val x)
        else if park then .next (s.setPort p.val { x with rxDown := x.rxDown ||| m })
        else if x.rxDown &&& m = 0 then .next (s.setPort p.val x)
        else .next ((s.setPort p.val { x with rxDown := x.rxDown &&& ~~~m }).sendLane p.val)

/-! ### Sending (R312, R314) -/

/-- D_v of LNK_CREDIT, as the port trained with it (R463). -/
def State.dedicated (s : State) (p v : Nat) : Nat := fld (s.port p).cred (8 * v) 8

/-- Credits a transmitter holds of counter i. -/
def State.credit (s : State) (p : Nat) (i : Fin 5) : Nat :=
  let x := s.port p
  let cap := if i.val < 4 then s.dedicated p i.val
    else 1536 - (s.dedicated p 0 + s.dedicated p 1 + s.dedicated p 2 + s.dedicated p 3)
  cap - (x.used[i] - x.freedIn[i]).toNat

/-- The credit a flit of a VC takes: its own first, then the pool's. -/
def State.creditFor (s : State) (p : Nat) (v : Fin 4) : Option (Fin 5) :=
  let i : Fin 5 := ⟨v.val, by omega⟩
  if s.credit p i > 0 then some i else if s.credit p 4 > 0 then some 4 else none

/-- The next flit of a VC: of the message it has begun (R320), else the first that waits. -/
def PortS.next (x : PortS) (v : Fin 4) : Option TxFlit :=
  match x.cur[v] with
  | some r => x.txq[v].find? fun f => f.run = r
  | none => x.txq[v].head?

/-- What a port would send on a VC: a retransmission first, else the next flit of the VC. -/
def PortS.head (x : PortS) (v : Fin 4) : Option (BitVec 12 × TxFlit × Bool) :=
  match x.resend with
  | some q => match x.unacked.find? fun u => u.seq = q with
    | some u => if u.flit.vc = v then some (q, u.flit, true) else none
    | none => none
  | none =>
    if x.unacked.length ≥ 1536 then none else (x.next v).map fun f => (x.nextSeq, f, false)

/-- Whether a VC has a flit that could go. A QUAL link carries only management traffic (R306). -/
def State.canSend (s : State) (p : Nat) (v : Fin 4) : Bool :=
  ((s.port p).head v).isSome && (s.creditFor p v).isSome && (v = 3 || !(s.port p).qual)

/-- Credit of a reservation's bucket in hundredths of a byte (R194). -/
def State.bucket (s : State) (i : Nat) : Nat :=
  match SMap.find i s.resTab with
  | none => 0
  | some e =>
    let (v, t) := SMap.val (0, 0) s.buckets i
    min (200 * fld e 0 32) (v + fld e 0 32 * (s.ticks - t))

/-- The reservation that pays for a flit of 256 bytes out of port p (R194, R309), where one is in force (R171, R308). -/
def State.payer (s : State) (p : Nat) (f : TxFlit) : Option Nat :=
  if s.resSuspended || s.portShort p then none
  else f.res.find? fun i => match SMap.find i s.resTab with
    | some e => fld e 32 2 = 3 && fld e 40 7 = p && fld e 47 1 = 0 && s.bucket i ≥ 25600
    | none => false

/-- Class of what a VC would send (R194, R310): 0 reserved, 1 Comet, 2 best-effort. -/
def State.vcClass (s : State) (p : Nat) (v : Fin 4) : Nat :=
  match (s.port p).head v with
  | some (_, f, _) => if (s.payer p f).isSome then 0 else if v = 2 then 1 else 2
  | none => 2

/-- Whether a VC's turn has come (R310): management flits take precedence but use one flit in 16 while other traffic waits;
the others go by class, and VCs 0 and 1 in turn where their classes are equal. -/
def State.vcTurn (s : State) (p : Nat) (v : Fin 4) : Bool :=
  let x := s.port p
  let others := s.canSend p 0 || s.canSend p 1 || s.canSend p 2
  if v = 3 then !others || x.sinceMgmt ≥ 15
  else (!s.canSend p 3 || x.sinceMgmt < 15) &&
    ([0, 1, 2] : List (Fin 4)).all fun w => w = v || !s.canSend p w ||
      s.vcClass p v < s.vcClass p w ||
        (s.vcClass p v = s.vcClass p w && (v = 2 || w = 2 || x.turn.val != v.val))

/-- The flit as it stands on the fibre. -/
def State.wire (s : State) (p : Nat) (q : BitVec 12) (f : TxFlit) (shr : Bool) (fcnt : Nat) : Flit :=
  (s.port p).seal p (1 + f.vc.val * 16 + (if f.first then 64 else 0) + (if f.last then 128 else 0)) shr q.toNat
    f.dst.toNat f.src.toNat fcnt (natLe 224 f.payload.toNat)

/-- DATA_FLIT_TRANSMIT (R310, R312, R314): a flit of a VC goes out under a credit and stays in the replay buffer; a
forwarded one frees its receive slot, and a reserved one is charged to its bucket. -/
def execDataFlitTransmit (p : Port) (vc : Fin 4) (s : State) : Host.Outcome State Fault Refusal :=
  let x := s.port p.val
  match x.head vc, s.creditFor p.val vc with
  | some (q, f, again), some i =>
    if x.st != .up || x.active = 0 || !s.canSend p.val vc || !s.vcTurn p.val vc then .next s
    else
      let fcnt := x.fcntTx.toNat + 1
      let out := s.wire p.val q f (i = 4) fcnt
      let next := x.unacked.find? fun u => u.seq = q + 1
      let unacked := if again then x.unacked.map fun u => if u.seq = q then { u with tries := u.tries + 1 } else u
        else x.unacked ++ [⟨q, { f with back := none }, 0⟩]
      let csel : Fin 5 := x.csel + 1
      let x : PortS :=
        { x with out, unacked, csel, fcntTx := BitVec.ofNat 64 fcnt, used := x.used.set i (x.used[i] + 1),
                 resend := if again then next.map (·.seq) else none,
                 nextSeq := if again then x.nextSeq else x.nextSeq + 1,
                 txq := if again then x.txq else x.txq.set vc (x.txq[vc].erase f),
                 cur := if again then x.cur else x.cur.set vc (if f.last then none else some f.run),
                 turn := if vc.val < 2 then Fin.ofNat 2 vc.val else x.turn,
                 ackAt := if x.unacked.isEmpty then s.ticks else x.ackAt,
                 sinceMgmt := if vc = 3 then 0 else x.sinceMgmt + 1, lastData := s.ticks,
                 keyFlits := x.keyFlits + 1 }
      let s := match s.payer p.val f with
        | some r => { s with buckets := SMap.put r (s.bucket r - 25600, s.ticks) s.buckets }
        | none => s
      let s := s.setPort p.val (x.keyAged p.val s.ticks)
      .next (if again then s.tally (R.lnkRetrycnt p.val) 1 else s.freeBack [f])
  | _, _ => .next s

/-- The ACK passes every flit before a number (R312). -/
def State.ackTo (s : State) (p : Nat) (a : BitVec 12) : State :=
  let x := s.port p
  let n := match x.unacked.head? with
    | some u => (a - u.seq).toNat
    | none => 0
  if n = 0 || n > x.unacked.length then s
  else
    let gone := x.unacked.take n
    let left := x.unacked.drop n
    let resend := match x.resend with
      | some q => if left.any fun u => u.seq = q then some q else left.head?.map (·.seq)
      | none => none
    let s := s.setPort p { x with unacked := left, resend, ackAt := s.ticks }
    let out := gone.foldl (fun (l : List OutMsg) u =>
      l.map fun m => if m.id = u.flit.run && m.port = p then { m with left := m.left - 1 } else m) s.lnk.out
    { s with lnk := { s.lnk with out := out.filter fun m => m.left != 0 || !m.closed } }

/-! ### Receiving (R312, R316, R317) -/

/-- The flit counter of a received flit (R316): the value nearest the last accepted. -/
def rebuild (last : Nat) (low : Nat) : Nat :=
  let d := (low + 2 ^ 32 - last % 2 ^ 32) % 2 ^ 32
  if d < 2 ^ 31 then last + d else last - (2 ^ 32 - d)

/-- A flit as its receiver finds it: its CRC fails, its tag fails, or its flit counter, key generation, whether it is the
first of a new key phase, and its payload. -/
inductive Opened where
  | crc
  | tag
  | ok (fcnt kgen : Nat) (new : Bool) (pt : List Byte)

/-- The CRC and the tag of a flit (R309, R316), its 256 bytes given. -/
def PortS.open_ (x : PortS) (p : Nat) (bs : List Byte) : Opened :=
  if crc32 (bs.take 252) != leAt bs 252 4 then .crc
  else
    let kph := leAt bs 1 1 % 2 = 1
    let new := kph != x.kphRx && x.oldKey.isNone
    let kgen := if kph = x.kphRx then x.kgenRx.toNat
      else match x.oldKey with
        | some (g, _) => g.toNat
        | none => (x.announced.getD (x.kgenRx + 1)).toNat
    let fcnt := rebuild x.fcntRx.toNat (leAt bs 12 4)
    let ct := (bs.drop 16).take 224
    let (pt, _) := gcm (x.dirKey p false kgen) (flitIv fcnt) (bs.take 16) ct
    let (_, tag) := gcm (x.dirKey p false kgen) (flitIv fcnt) (bs.take 16) pt
    if (tag.take 12) != ((bs.drop 240).take 12) then .tag else .ok fcnt kgen new pt

/-- A flit is accepted (R312, R316): the ACK and the credit counter of its header, its flit counter and its key phase. -/
def State.hdrIn (s : State) (p : Nat) (bs : List Byte) (fcnt kgen : Nat) (new : Bool) : State :=
  let ack := leAt bs 4 2
  let cs := leAt bs 6 2
  let s := if ack / 2 ^ 15 = 1 then s.ackTo p (BitVec.ofNat 12 ack) else s
  s.onPort p fun x =>
    let x := { x with lastRx := s.ticks, fcntRx := BitVec.ofNat 64 fcnt }
    let x := if i : cs % 8 < 5 then { x with freedIn := x.freedIn.set (cs % 8) (BitVec.ofNat 13 (cs / 8)) } else x
    if new then { x with oldKey := some (x.kgenRx, s.ticks), kgenRx := BitVec.ofNat 32 kgen, kphRx := !x.kphRx,
                         announced := none }
    else x

/-- A data flit is discarded (R312): its slot is freed, and a NAK goes out on the first discard after progress or once
1 µs has passed. -/
def State.discard (s : State) (p : Nat) (i : Fin 5) : State :=
  s.onPort p fun x =>
    let x := x.free i
    let due := match x.nakAt with
      | none => true
      | some t => s.ticks - t ≥ tUs
    if due then { (x.ctlOut p (.nak x.expSeq) s.ticks).keyAged p s.ticks with nakAt := some s.ticks } else x

/-- A flit with a good CRC and a bad tag (R317) is counted; 64 within 1 ms fail the port. -/
def State.badTag (s : State) (p : Nat) : State :=
  let s := s.flag (R.lnkPerr p) 1 (R.lnkAuthcnt p) 1
  let s := s.raiseLimited (0x4006 * 1024 + p) tMs 0x4006 (srcPort p) 0 1 fun n => (n, 0)
  let at_ := s.ticks :: ((s.port p).authAt.filter fun t => s.ticks - t < tMs)
  let s := s.onPort p fun x => { x with authAt := at_.take 64 }
  if at_.length ≥ 64 then s.portFail p 3 else s

/-- A flit for another rank (R318): its first flit chooses the port, and the later ones follow it. It keeps its receive slot
until it leaves (R314). A message that begins again takes the place of the one before it. -/
def State.forward (s : State) (p : Nat) (i : Fin 5) (f : TxFlit) : State :=
  let old := (s.port p).fwd[f.vc].bind fun id => s.lnk.out.find? fun m => m.id = id && !m.closed
  let lost := fun (s : State) =>
    (s.onPort p fun x => ({ x with fwd := x.fwd.set f.vc none } : PortS).free i).flag R.lnkStat 0 R.lnkStalecnt 1
  let add := fun (s : State) (q : Nat) (id : Nat) =>
    let s := s.onPort q fun y => { y with txq := y.txq.set f.vc (y.txq[f.vc] ++ [{ f with run := id, back := some (p, i) }]) }
    s.onPort p fun x => { x with fwd := x.fwd.set f.vc (if f.last then none else some id) }
  if f.first then
    let s := match old with | some m => s.dropRun m | none => s
    let id := s.lnk.nextMsg
    let m : OutMsg := ⟨id, 0, f.dst, f.src, f.vc, [], [f.payload], f.last, 1, none, some p⟩
    match s.portOf m with
    | some q =>
      if q = p then lost s
      else
        let s := { s with lnk := { s.lnk with nextMsg := id + 1, out := s.lnk.out ++ [{ m with port := q }] } }
        add s q id
    | none => lost s
  else match old with
    | some m =>
      let out := s.lnk.out.map fun (o : OutMsg) =>
        if o.id = m.id then { o with pay := o.pay ++ [f.payload], closed := f.last, left := o.left + 1 } else o
      add { s with lnk := { s.lnk with out } } m.port m.id
    | none => lost s

/-- A flit for this rank joins its message; a message received whole waits in its slots for its engine (R314, R320). A
message that begins again frees the slots of the one before it. -/
def State.assemble (s : State) (p : Nat) (i : Fin 5) (f : TxFlit) : State :=
  let x := s.port p
  let x := if f.first then (x.asm[f.vc]).2.foldl (fun (y : PortS) c => y.free c) x else x
  let (bs, sl) := if f.first then ([], []) else x.asm[f.vc]
  let bs := bs ++ natLe 224 f.payload.toNat
  let sl := sl ++ [i]
  if !f.last then s.setPort p { x with asm := x.asm.set f.vc (bs, sl) }
  else
    let s := s.setPort p { x with asm := x.asm.set f.vc ([], []) }
    let (t, m) := msgOf f.src bs
    { s with lnk := { s.lnk with inbox := s.lnk.inbox ++ [⟨p, t, m, sl⟩] } }

/-- DATA_FLIT_RECEIVE (R312, R314, R316 to R318, R320). An idle flit is checked and its header used as well. -/
def execDataFlitReceive (p : Port) (flit : Flit) (s : State) : Host.Outcome State Fault Refusal :=
  let x := s.port p.val
  let bs := natLe 256 flit.toNat
  let b0 := leAt bs 0 1
  let vc : Fin 4 := Fin.ofNat 4 (b0 / 16)
  let i : Fin 5 := if leAt bs 1 1 / 2 % 2 = 1 then 4 else ⟨vc.val, by omega⟩
  let data := b0 % 16 = 1
  if x.st != .up || b0 % 16 > 1 then .next s
  else match x.open_ p.val bs with
    | .crc => .next (if data then s.discard p.val i else s)
    | .tag => .next ((if data then s.discard p.val i else s).badTag p.val)
    | .ok fcnt kgen new pt =>
      if fcnt ≤ x.fcntRx.toNat then .next (if data then s.discard p.val i else s)
      else if !data then .next (s.hdrIn p.val bs fcnt kgen new)
      else if leAt bs 2 2 != x.expSeq.toNat then
        .next ((s.onPort p.val fun x => { x with lastRx := s.ticks }).discard p.val i)
      else
        let s := s.hdrIn p.val bs fcnt kgen new
        let s := s.onPort p.val fun x => { x with expSeq := x.expSeq + 1, nakAt := none }
        let f : TxFlit :=
          { run := 0, vc := vc, first := b0 / 64 % 2 = 1, last := b0 / 128 = 1, dst := BitVec.ofNat 12 (leAt bs 8 2),
            src := BitVec.ofNat 12 (leAt bs 10 2), payload := BitVec.ofNat 1792 (leNat pt), res := [], back := none }
        if f.dst = x.rank then .next (s.assemble p.val i f)
        else if !routeValid (s.route f.dst.toNat) then
          .next ((s.onPort p.val fun x => x.free i).flag R.lnkStat 0 R.lnkStalecnt 1)
        else .next (s.forward p.val i f)

/-! ### Control flits received (R311) -/

/-- A control flit arrives: its content where it is accepted, and the state after its header. DEDUCED (log 77): it is accepted
under the conditions of R312 but for the sequence number, which it has none of. -/
def State.ctlIn (s : State) (p : Nat) (flit : Flit) : Option Ctl × State :=
  let x := s.port p
  let bs := natLe 256 flit.toNat
  if x.st != .up || leAt bs 0 1 % 16 != 2 then (none, s)
  else match x.open_ p bs with
    | .crc => (none, s)
    | .tag => (none, s.badTag p)
    | .ok fcnt kgen new pt => if fcnt ≤ x.fcntRx.toNat then (none, s) else (ctlOf pt, s.hdrIn p bs fcnt kgen new)

/-- A row of a control flit: the flit has the row's subtype, or is discarded. -/
def State.ctlRow (s : State) (p : Nat) (flit : Flit) (f : Ctl → Option (State → State)) :
    Host.Outcome State Fault Refusal :=
  match s.ctlIn p flit with
  | (none, t) => .next t
  | (some c, t) => match f c with
    | some g => .next (g t)
    | none => .next s

/-- Every flit before a number has arrived, and the transmitter retransmits from it (R312). -/
def State.nakFrom (s : State) (p : Nat) (seq : BitVec 12) : State :=
  (s.ackTo p seq).onPort p fun x =>
    { x with resend := if x.unacked.any fun u => u.seq = seq then some seq else x.resend }

/-- NAK (R312). -/
def execNak (p : Port) (flit : Flit) (s : State) : Host.Outcome State Fault Refusal :=
  s.ctlRow p.val flit fun
    | .nak seq => some fun s => s.nakFrom p.val seq
    | _ => none

/-- CREDITS (R314). -/
def execCredits (p : Port) (flit : Flit) (s : State) : Host.Outcome State Fault Refusal :=
  s.ctlRow p.val flit fun
    | .credits cnt => some fun s => s.onPort p.val fun x => { x with freedIn := cnt }
    | _ => none

/-- What a LANE flit reports (R307, R308): wavelengths the peer finds failed are dropped; an unparked wavelength it reports
locked carries frames again. -/
def State.laneIn (s : State) (p : Nat) (lock failed parked : BitVec 8) : State :=
  (s.lambdaFail p failed).onPort p fun x =>
    { x with peerLock := lock, peerFailed := failed, peerParked := parked, unpark := x.unpark &&& ~~~lock }

/-- LANE (R307, R308). -/
def execLane (p : Port) (flit : Flit) (s : State) : Host.Outcome State Fault Refusal :=
  s.ctlRow p.val flit fun
    | .lane lock failed parked => some fun s => s.laneIn p.val lock failed parked
    | _ => none

/-- REKEY (R316): the peer announces its next key generation. -/
def execRekey (p : Port) (flit : Flit) (s : State) : Host.Outcome State Fault Refusal :=
  s.ctlRow p.val flit fun
    | .rekey kgen => some fun s => s.onPort p.val fun x => { x with announced := some kgen }
    | _ => none

/-- A CREDITS flit goes out; it carries the cumulative ACK. -/
def State.sendCredits (s : State) (p : Nat) : State :=
  (s.sendCtl p (.credits (s.port p).freed)).onPort p fun x => { x with lastCred := s.ticks }

/-- CREDITS_IDLE (R314): 64 ns without a data flit, counted again from each CREDITS flit. -/
def execCreditsIdle (p : Port) (s : State) : Host.Outcome State Fault Refusal :=
  let x := s.port p.val
  if x.st != .up || (s.ticks - max x.lastData x.lastCred) * 10 < 64 then .next s else .next (s.sendCredits p.val)

/-- ACK_KEEPALIVE (R312): 128 ns without a data or control flit. -/
def execAckKeepalive (p : Port) (s : State) : Host.Outcome State Fault Refusal :=
  let x := s.port p.val
  if x.st != .up || (s.ticks - max x.lastData x.lastCtl) * 10 < 128 then .next s else .next (s.sendCredits p.val)

/-- KEY_DISCARD (R316): 10 µs after the first flit of the new phase. -/
def execKeyDiscard (p : Port) (s : State) : Host.Outcome State Fault Refusal :=
  match (s.port p.val).oldKey with
  | some (_, t) =>
    if s.ticks - t < 10 * tUs then .next s else .next (s.onPort p.val fun x => { x with oldKey := none })
  | none => .next s

end Sys2Proof.Machine
end

