-- ==== Sys2Proof/Machine/Shards.lean ====
section
/-!
DEFINITION. Shards of the master weights: the shard table (R276), the bytes that digests cover (R279), noise buffers
(R258), and the step's copy of the privacy control block (R249).
-/

namespace Sys2Proof.Machine

/-- Committed epoch (R290). -/
def State.epoch (s : State) : Nat := s.rf R.updEpoch 0 32

/-- A shard table entry (Table 9.5); pairs by slot or buffer number. -/
structure Shard where
  nelem : Nat
  owned : Bool
  mirror : Bool
  pset : Nat
  ew : Int
  first : Nat
  ws : Nat → Nat
  m1h : Nat → Nat
  m2h : Nat → Nat
  grad : Nat
  ccrq : Nat → Nat
  noise : Nat
  resOk : Bool

/-- DPA of shard table entry i. -/
def State.shardDpa (s : State) (i : Nat) : Nat := s.rd R.updShtab + 128 * i

def State.shard (s : State) (i : Nat) : Shard :=
  let bs := s.mem.bytes (s.shardDpa i) 96
  let a := fun (o n : Nat) => leAt bs o n
  { nelem := a 0 4, owned := bitsOf (a 4 1) 0 1 = 1, mirror := bitsOf (a 4 1) 1 1 = 1, pset := bitsOf (a 5 1) 0 6
    ew := sx 8 (a 6 1), first := a 8 8
    ws := fun b => a (16 + 8 * (b % 2)) 8, m1h := fun b => a (32 + 8 * (b % 2)) 8, m2h := fun b => a (48 + 8 * (b % 2)) 8
    grad := a 64 8, ccrq := fun b => a (72 + 8 * (b % 2)) 8, noise := a 88 8
    resOk := a 4 1 < 4 && a 5 1 < 64 && a 7 1 = 0 && ((List.range 10).all fun i => a (16 + 8 * i) 8 < 2 ^ 48) }

/-- Number of shards. -/
def State.shardCnt (s : State) : Nat := s.rf R.updShcnt 0 24

/-- Stored digests: SDIG of a slot, CDIG of a buffer. -/
def State.sdig (s : State) (i b : Nat) : Nat := leNat (s.mem.bytes (s.shardDpa i + 96 + 8 * (b % 2)) 8)
def State.cdig (s : State) (i b : Nat) : Nat := leNat (s.mem.bytes (s.shardDpa i + 112 + 8 * (b % 2)) 8)

/-- Digest of a byte string under UPD_DKEY (R278). -/
def State.dig (s : State) (bs : List Byte) : Nat := digestBytes (s.rd R.updDkey) bs

/-- Byte runs of rows [r0, r0 + n) of a tensor in the order of CDIG (R279). -/
def State.rowRuns (s : State) (h : Hdr) (r0 n : Nat) : Ranges :=
  let rows := (List.range n).map (r0 + ·)
  (rows.map fun r => (h.codes + r * h.cstride, h.rowSize)) ++
    (if h.isQ then rows.map fun r => (h.exps + r * h.estride, h.expSize) else []) ++
    (match s.outlAt h with
     | none => []
     | some o =>
       (rows.map fun r => (o.gtab + 16 * (r * h.gpr), 16 * h.gpr)) ++
         ((List.range (ceilDiv n 32)).map fun b =>
           (o.pool + 272 * ((r0 / 32 + b) * h.gpr * o.epb), 272 * (h.gpr * o.epb))))

/-- First row and number of rows of a shard in its compute copy. -/
def Shard.rows (y : Shard) (h : Hdr) : Nat × Nat := (y.first / h.k, y.nelem / h.k)

/-- Whether a shard lies in whole rows of a compute copy, and in whole buckets where it has outlier structures (R277). -/
def Shard.fits (y : Shard) (h : Hdr) : Bool :=
  let u := if h.outl = 0 then h.k else 32 * h.k
  h.k != 0 && y.first % u = 0 && y.nelem % u = 0 && (y.first + y.nelem) / h.k ≤ h.rows

/-- Byte runs of a shard in its compute copy with header h. -/
def State.shardRuns (s : State) (h : Hdr) (y : Shard) : Ranges := s.rowRuns h (y.rows h).1 (y.rows h).2

/-- Bytes of some runs as they stand. -/
def State.runBytes (s : State) (rs : Ranges) : List Byte := rs.flatMap fun r => s.mem.bytes r.1 r.2

/-- Part [off, off + n) of the concatenation of some runs. -/
def cutRuns : Ranges → Nat → Nat → Ranges
  | [], _, _ => []
  | (a, len) :: t, off, n =>
    if n = 0 then []
    else if off ≥ len then cutRuns t (off - len) n
    else
      let k := min n (len - off)
      (a + off, k) :: cutRuns t 0 (n - k)

def runsLen (rs : Ranges) : Nat := rs.foldl (fun n r => n + r.2) 0

/-- A byte string laid over some runs. -/
def layRuns : Ranges → List Byte → List (Nat × List Byte)
  | [], _ => []
  | (a, len) :: t, bs => (a, bs.take len) :: layRuns t (bs.drop len)

/-- Byte runs of elements [e, e + n) of an integer tensor in flattened order. -/
def Hdr.flatRuns (h : Hdr) (e n : Nat) : Ranges :=
  let w := intBytes h.fmt
  let r0 := e / h.k
  (List.range (if n = 0 then 0 else (e + n - 1) / h.k - r0 + 1)).map fun i =>
    let c0 := if i = 0 then e % h.k else 0
    let c1 := min h.k (e + n - (r0 + i) * h.k)
    (h.codes + (r0 + i) * h.cstride + w * c0, w * (c1 - c0))

/-! ### Private training (R249, R250, R258) -/

/-- The step is private (R249). -/
def State.private_ (s : State) : Bool := match s.priv.pcb with | some b => fld b 0 1 = 1 | none => false

/-- Shard whose gradient header is a given DPA and that this device holds with OWNED or MIRROR. -/
def State.shardOfGrad (s : State) (h : Nat) (owned : Bool) : Option Nat :=
  (List.range s.shardCnt).find? fun i =>
    let y := s.shard i
    y.grad = h && (if owned then y.owned else y.mirror)

/-- NEPOCH and NRUN of a noise buffer, and its values as bytes (R258). -/
def State.noiseEpoch (s : State) (a : Nat) : Nat := leNat (s.mem.bytes a 8)
def State.noiseRun (s : State) (a : Nat) : Nat := leNat (s.mem.bytes (a + 8) 4)
def noiseEmpty : Nat := 0xFFFFFFFF

/-- Header of a noise buffer. -/
def noiseHdr (epoch run : Nat) : List Byte := natLe 8 epoch ++ natLe 4 run ++ natLe 52 0

end Sys2Proof.Machine
end

