-- ==== Sys2Proof/Machine/Coll.lean ====
section
/-!
DEFINITION. Collective engines (R321 to R332): checks, sending, summing and writing of collectives, and the messages that
reach an engine. A collective's row starts it and carries it as far as what it has received allows; a message's row
records the message and carries its collective on.
-/

namespace Sys2Proof.Machine

/-! ### Groups (R322) -/

structure Group where
  n : Nat
  pos : Nat
  cgen : Nat
  sfmt : Nat
  exp : Int
  mlist : Nat
  ok : Bool
  deriving DecidableEq, Repr

def State.group (s : State) (g : Nat) : Group :=
  let bs := s.mem.bytes (s.rd R.lnkGtbase + 64 * g) 64
  let m := leAt bs 8 8
  { n := leAt bs 0 2, pos := leAt bs 2 2, cgen := leAt bs 4 2, sfmt := leAt bs 6 1, exp := sx 8 (leAt bs 7 1), mlist := m
    ok := 1 ≤ leAt bs 0 2 && leAt bs 0 2 ≤ 4096 && leAt bs 6 1 ≤ 2 && m < 2 ^ 48 && m % 4 = 0 && leAt bs 16 48 = 0 }

def State.memberRank (s : State) (g : Group) (i : Nat) : Nat := leNat (s.mem.bytes (g.mlist + 4 * i) 2)
def State.memberTwin (s : State) (g : Group) (i : Nat) : Nat := leNat (s.mem.bytes (g.mlist + 4 * i + 2) 2)

/-- A collective with its parts. -/
structure CCtx where
  d : Nat
  k : Nat
  h : WHdr
  y : CBody
  a : CArgs
  g : Group
  /-- What the present row's reads find, and whether a residue check of the adder fails in it (R216, R321). -/
  errs : Errs
  fault : Bool
  deriving DecidableEq, Repr

def State.cctx (s : State) (d : Nat) (j : CollJob) (errs : Errs) (fault : Bool) : CCtx :=
  let y := cbodyOf j.cmd
  ⟨d, j.k, whdrOf j.cmd, y, cargsOf (s.peek64 y.args), s.group y.group, errs, fault⟩

def CCtx.client (x : CCtx) : Client := .coll (Fin.ofNat 4 x.d)
/-- Reservations that the collective names (R193). -/
def CCtx.res (x : CCtx) : List Nat := [x.y.resid, x.y.resid2].filter (· != 0)

/-! ### Who sends to whom -/

/-- Children of a relative position in the tree of R324, as positions. -/
def treeKids (n own rel : Nat) : List Nat := ([2 * rel + 1, 2 * rel + 2].filter (· < n)).map fun r => (r + own) % n

/-- Relative position. -/
def relPos (n own pos : Nat) : Nat := (pos + n - own) % n

/-- Positions whose partial sums a member needs (R324). -/
def CCtx.rsFrom (x : CCtx) (own : Nat) : List Nat :=
  if x.y.alg = 0 then (if x.g.pos = (own + 1) % x.g.n then [] else [(x.g.pos + x.g.n - 1) % x.g.n])
  else treeKids x.g.n own (relPos x.g.n own x.g.pos)

/-- The position a member sends its sum to, none for the owner. -/
def CCtx.rsTo (x : CCtx) (own : Nat) : Option Nat :=
  if x.g.pos = own then none
  else if x.y.alg = 0 then some ((x.g.pos + 1) % x.g.n)
  else some (((relPos x.g.n own x.g.pos - 1) / 2 + own) % x.g.n)

/-- The position a member receives a shard from, none for the owner, and the positions it forwards it to (R326). -/
def CCtx.agFrom (x : CCtx) (own : Nat) : Option Nat :=
  if x.g.pos = own then none
  else if x.y.alg = 0 then some ((x.g.pos + x.g.n - 1) % x.g.n)
  else some (((relPos x.g.n own x.g.pos - 1) / 2 + own) % x.g.n)
def CCtx.agTo (x : CCtx) (own : Nat) : List Nat :=
  if x.y.alg = 0 then (if (x.g.pos + 1) % x.g.n = own then [] else [(x.g.pos + 1) % x.g.n])
  else treeKids x.g.n own (relPos x.g.n own x.g.pos)

/-- A split table entry (R327). -/
structure Split where
  srow : Nat
  scnt : Nat
  drow : Nat
  dcnt : Nat
  deriving DecidableEq, Repr

def State.split (s : State) (tab j : Nat) : Split :=
  let bs := s.mem.bytes (tab + 16 * j) 16
  ⟨leAt bs 0 4, leAt bs 4 4, leAt bs 8 4, leAt bs 12 4⟩

/-- Positions a collective of a group sends to. -/
def State.collTo (s : State) (x : CCtx) : List Nat :=
  if x.h.opc = 0x40 then (s.chunks x.a).filterMap fun c => x.rsTo c.own
  else if x.h.opc = 0x41 then (s.chunks x.a).flatMap fun c => x.agTo c.own
  else if x.h.opc = 0x42 then (List.range x.g.n).filter fun j => j != x.g.pos
  else if x.h.opc = 0x43 then
    treeKids x.g.n 0 x.g.pos ++ (if x.g.pos = 0 then [] else [(x.g.pos - 1) / 2])
  else []

/-- Ranks of the twins that a reduce-scatter with DUAL delivers its results to (R324). -/
def State.collTwins (s : State) (x : CCtx) : List Nat :=
  if x.h.opc = 0x40 && x.y.dual && (s.chunks x.a).any (fun c => c.own = x.g.pos) then
    [s.memberTwin x.g x.g.pos].filter (· != 0xFFFF) else []

/-- Ranks a collective sends to. -/
def State.collRanks (s : State) (x : CCtx) : List Nat :=
  if x.h.opc ≥ 0x44 then [x.a.peer] else ((s.collTo x).map (s.memberRank x.g) ++ s.collTwins x).eraseDups

/-! ### Checks (R323, R324, R319, R447) -/

/-- HDR of the statistics record of an identity (Table 2.6). -/
def State.statHdr (s : State) (tid : Nat) : Nat := leNat (s.mem.bytes (s.rd R.genStattab + 128 * tid) 8) % 2 ^ 48

/-- An exchange tensor of R246. -/
def State.exchOk (s : State) (h : Hdr) : Bool := h.fmt = 1 && h.ncb = 0 && h.outl = 0 && s.statHdr h.tid = 0

/-- Elements of a tensor. -/
def Hdr.elems (h : Hdr) : Nat := h.rows * h.k

def State.rsCheck (s : State) (x : CCtx) : Nat :=
  if !s.dataOk x.a.tab (32 * x.a.count) then 0x10
  else
    let cs := s.chunks x.a
    let src := s.hdrAt x.a.src
    let bad := s.hdrCheck x.d x.a.src
    let srcBad := x.g.sfmt = 0 || src.et != x.g.exp || (if x.g.sfmt = 1 then !s.exchOk src else src.fmt != 3)
    let chunkBad := cs.any fun c =>
      let h := s.hdrAt c.dhdr
      !c.resOk || c.own ≥ x.g.n || c.first % 4096 != 0 || c.count % 4096 != 0 || c.first + c.count > src.elems
        || (h.fmt != 3 && h.fmt != 4) || h.et != x.g.exp || (h.fmt = 3 && (x.g.sfmt != 1 || x.g.n > 64))
        || h.elems < c.count
    worst ((if bad != 0x10 && (srcBad || chunkBad) then [0x10] else []) ++ [bad] ++ cs.map fun c => s.hdrCheck x.d c.dhdr)

def State.agCheck (s : State) (x : CCtx) : Nat :=
  if !s.dataOk x.a.tab (32 * x.a.count) || x.a.src != 0 then 0x10
  else
    let h := s.hdrAt x.a.dst
    let st := s.hdrCheck x.d x.a.dst
    let bad := !h.isQ || (s.chunks x.a).any fun c =>
      !c.resOk || c.count != 0 || c.dhdr != 0 || c.own ≥ x.g.n || c.first ≥ s.shardCnt || !(s.shard c.first).fits h
    worst [st, if bad then 0x10 else 0]

def State.a2aCheck (s : State) (x : CCtx) : Nat :=
  if !s.dataOk x.a.tab (16 * x.g.n) || x.a.count != 0 then 0x10
  else
    let a := s.hdrAt x.a.src
    let b := s.hdrAt x.a.dst
    let bad := !sameForm a b || a.k != b.k || (List.range x.g.n).any fun j =>
      let p := s.split x.a.tab j
      p.srow + p.scnt > a.rows || p.drow + p.dcnt > b.rows
    worst [s.hdrCheck x.d x.a.src, s.hdrCheck x.d x.a.dst, if bad then 0x10 else 0]

/-- Fields of the argument block that an opcode does not use are zero, and the others are in range (Table 10.11). -/
def CCtx.argsBad (x : CCtx) : Bool :=
  let a := x.a
  let o := x.h.opc
  !a.resOk || (o < 0x44 && a.peer != 0) || (o != 0x45 && (a.obj != 0 || a.ogen != 0)) || (o ≥ 0x43 && a.tab != 0)
    || (o = 0x45 && (a.src != 0 || a.dst != 0)) || (o = 0x40 && a.dst != 0) || a.peer ≥ 4096 || a.obj ≥ 2 ^ 14

/-- Checks of the body, the argument block, the headers and the tables: status and OFFSET. -/
def State.collBad (s : State) (x : CCtx) (b : Block64) : Nat × Nat :=
  let o := x.h.opc
  let y := x.y
  let body := firstBad [(y.alg ≥ 2 || (o ≥ 0x44 && y.alg != 0) || (y.cmt && o != 0x44) || fld b 261 3 != 0, 32),
    (fld b 282 6 != 0 || !s.resPairOk (96 + x.d) y.resid y.resid2, 34), (fld b 298 6 != 0, 36), (fld b 304 16 != 0, 38),
    (fld b 352 32 != 0, 44), (!s.structOk y.args 64 64, 48), (fld b 432 16 != 0, 54), (fld b 448 64 != 0, 56)]
  match body with
  | some i => (0x10, i)
  | none =>
    if x.argsBad || (y.cmt && x.a.count > 4096) then (0x10, 0xFF)
    else if o < 0x44 && (!x.g.ok || x.g.pos ≥ x.g.n) then (0x10, 0xFF)
    else if o = 0x40 then (s.rsCheck x, 0xFF)
    else if o = 0x41 then (s.agCheck x, 0xFF)
    else if o = 0x42 then (s.a2aCheck x, 0xFF)
    else if o = 0x43 then
      (if x.a.count = 0 || x.a.count > 512 || !s.dataOk x.a.src (8 * x.a.count) || !s.dataOk x.a.dst (8 * x.a.count)
        then 0x10 else 0, 0xFF)
    else if o = 0x44 then
      (if x.a.count < 8 || x.a.count > 2 ^ 31 || x.a.count % 8 != 0 || !s.dataOk x.a.src x.a.count then 0x10 else 0, 0xFF)
    else (if x.a.count = 0 || x.a.count > 65535 then 0x10 else 0, 0xFF)

/-- Source ranges of a collective. -/
def State.collSrc (s : State) (x : CCtx) : Ranges :=
  let o := x.h.opc
  if o = 0x40 || o = 0x42 then s.tensorRanges x.a.src
  else if o = 0x41 then s.tensorRanges x.a.dst
  else if o = 0x43 then [(x.a.src, 8 * x.a.count)]
  else if o = 0x44 then [(x.a.src, x.a.count)] else []

/-- Some blocks are all of an aggregate class (Table 15.10). -/
def State.allAggregate (s : State) (rs : Ranges) : Bool :=
  rs.all fun r => (pieces 4096 r.1 r.2).all fun p => 1 ≤ s.classOf p.1 && s.classOf p.1 ≤ 3

/-- The release check: the class claimed (Table 15.11), and messages to ranks outside the job (R319). -/
def State.collDenied (s : State) (x : CCtx) : Bool :=
  let k := x.h.rclass
  let src := s.collSrc x
  s.sec.sealMem &&
    ((if x.h.opc = 0x41 then k != 1
      else if x.h.opc = 0x43 then k != 0 && !((k = 1 || k = 2) && s.allClass src k)
      else if x.h.opc = 0x45 then k != 0
      else k != 0 && !s.allClass src k) ||
     ((s.collRanks x).any (fun n => !routeInJob (s.route n)) && (src.isEmpty || !s.allAggregate src)))

/-- Structures a collective names beside its argument block, read with verification (R201): its tables, and what they
name. -/
def State.collTables (s : State) (x : CCtx) : Ranges :=
  (if x.h.opc < 0x44 then [(s.rd R.lnkGtbase + 64 * x.y.group, 64), (x.g.mlist, 4 * x.g.n)] else []) ++
  (if x.h.opc = 0x40 || x.h.opc = 0x41 then [(x.a.tab, 32 * x.a.count)]
   else if x.h.opc = 0x42 then [(x.a.tab, 16 * x.g.n)] else [])
def State.collHdrs (s : State) (x : CCtx) : Ranges :=
  let hd := fun (a : Nat) => s.hdrRanges a
  if x.h.opc = 0x40 then hd x.a.src ++ (s.chunks x.a).flatMap fun c => hd c.dhdr
  else if x.h.opc = 0x41 then hd x.a.dst
  else if x.h.opc = 0x42 then hd x.a.src ++ hd x.a.dst else []

/-- The checks at dispatch in the order of R13: status and OFFSET. Each structure is read before what it names. -/
def State.collCheck (s : State) (d : Nat) (j : CollJob) (errs : Errs) : (Nat × Nat) × State :=
  let read := fun (r : Nat × State) (f : State → CCtx → Ranges) =>
    if r.1 != 0 then r
    else
      let x := r.2.cctx d j errs false
      r.2.fetch x.client x.h.tag (f r.2 x) errs
  let (st, s) := ([fun _ x => [(x.y.args, 64)], State.collTables, State.collHdrs] :
    List (State → CCtx → Ranges)).foldl read (0, s)
  if st != 0 then ((st, 0), s)
  else
    let x := s.cctx d j errs false
    let (r, o) := (s.mapOf j.ord).collBad x j.cmd
    if r != 0 then ((r, if r = 0x10 then o else 0), s)
    else if s.collDenied x then ((0x51, 0), s) else ((0, 0), s)

/-! ### Messages of a collective -/

def msgMax : Nat := 65536

/-- Pieces of a transfer of n bytes: offset and length. -/
def msgPieces (n : Nat) : List (Nat × Nat) :=
  (List.range (ceilDiv n msgMax)).map fun i => (msgMax * i, min msgMax (n - msgMax * i))

/-- Virtual channel of a message type (Table 10.5). -/
def vcOf (t : Nat) (cmt : Bool) : Fin 4 := if t = 4 then 1 else if t = 7 && cmt then 2 else if t ≥ 8 then 3 else 0

/-- Every message kept, over the four engines. -/
def State.kept (s : State) : List (Nat × Msg) := s.lnk.eng.flatMap fun p => p.2.got

/-- A message received for a collective: type, chunk, offset, sender's rank. -/
def State.gotMsg (s : State) (x : CCtx) (t chunk off src : Nat) : Option Msg :=
  ((s.kept.find? fun m => m.1 = t && m.2.group.toNat = x.y.group && m.2.cgen.toNat = x.g.cgen
    && m.2.cseq.toNat = x.y.cseq && m.2.chunk.toNat = chunk && m.2.offset = off && m.2.src.toNat = src)).map (·.2)

/-- Progress of a collective now. -/
def State.collStep (s : State) (x : CCtx) (f : CollJob → CollJob) : State :=
  s.onColl x.d x.k fun j => { f j with last := s.ticks }

/-- Whether a message has been sent: its place in `sent`. -/
def sentKey (chunk rank off : Nat) : Nat × Nat := (chunk * 4096 + rank, off)

/-- Send a message of a collective once. -/
def State.sendOnce (s : State) (x : CCtx) (t rank chunk off : Nat) (data : List Byte) (last : Bool) (dig : Option Nat) :
    State :=
  match s.coll x.d x.k with
  | none => s
  | some j =>
    if j.sent.contains (sentKey chunk rank off) then s
    else
      let m : Msg := { src := BitVec.ofNat 12 s.rank, group := BitVec.ofNat 8 x.y.group, cgen := BitVec.ofNat 16 x.g.cgen,
                       cseq := BitVec.ofNat 32 x.y.cseq, chunk := BitVec.ofNat 32 chunk, offset := off, last := last,
                       digValid := dig.isSome, dig := BitVec.ofNat 64 (dig.getD 0), data := data }
      let (ok, s) := s.sendMsg rank (vcOf t x.y.cmt) t m (some (x.d, x.k)) x.res
      if ok then s.collStep x fun j => { j with sent := sentKey chunk rank off :: j.sent } else s

def State.wasSent (s : State) (x : CCtx) (rank chunk off : Nat) : Bool :=
  match s.coll x.d x.k with | some j => j.sent.contains (sentKey chunk rank off) | none => false
def State.wasWritten (s : State) (x : CCtx) (chunk off : Nat) : Bool :=
  match s.coll x.d x.k with | some j => j.wrote.contains (chunk, off) | none => false
def State.wasChecked (s : State) (x : CCtx) (chunk : Nat) : Bool :=
  match s.coll x.d x.k with | some j => j.checked.contains chunk | none => false

/-- The collective is still in its engine. -/
def State.collOn (s : State) (x : CCtx) : Bool := (s.coll x.d x.k).isSome

/-- No message of the collective waits for its acknowledgement (R332). -/
def State.collQuiet (s : State) (x : CCtx) : Bool := s.lnk.out.all fun m => m.org != some (x.d, x.k)

/-- The adder's output disagrees with its residue (R321): a cause of a replay, and the collective ends. -/
def State.collFault (s : State) (x : CCtx) : State :=
  (s.raise 0x4007 (srcDie x.d) x.h.tag x.y.cseq x.y.group).collEnd x.d x.k 0x31 0

/-- Write runs for a collective; a failure ends it. -/
def State.collWrite (s : State) (x : CCtx) (rs : List (Nat × List Byte)) (chunk off : Nat) : State :=
  let (st, s) := s.writeAll x.client rs x.h.rclass x.errs
  if st != 0 then s.collEnd x.d x.k st 0 else s.collStep x fun j => { j with wrote := (chunk, off) :: j.wrote }

/-! ### Repeated requests (R280) -/

/-- Data of a FETCH: what is asked for, and of which buffer; 2 stands for a result of a reduce-scatter. -/
def fetchData (what buf count : Nat) : List Byte := natLe 8 what ++ natLe 1 buf ++ natLe 4 count

/-- A received chunk failed its digest: it is asked for again, or the device stops (R280). In a sealed session no request goes
to a rank outside the job (R319). -/
def State.fetchAgain (s : State) (x : CCtx) (t chunk shard owner what buf count : Nat) : State :=
  let n := SMap.val 0 s.stw.fetches shard
  if n ≥ s.rf R.updFetchcfg 0 2 then s.raise 0x3002 srcSd 0 shard owner
  else if s.sec.sealMem && !routeInJob (s.route owner) then s.collEnd x.d x.k 0x51 0
  else
    let s := { s with stw := { s.stw with fetches := SMap.put shard (n + 1) s.stw.fetches } }
    let s := s.flag R.updStat 2 R.updFetchcnt 1
    let mine := fun (m : Nat × Msg) =>
      m.1 = t && m.2.group.toNat = x.y.group && m.2.cseq.toNat = x.y.cseq && m.2.chunk.toNat = chunk
    let eng := s.lnk.eng.map fun (p : Nat × CollEng) => (p.1, { p.2 with got := p.2.got.filter fun m => !mine m })
    let s := { s with lnk := { s.lnk with eng } }
    let s := s.onColl x.d x.k fun j =>
      { j with wrote := j.wrote.filter fun w => w.1 != chunk, sent := j.sent.filter fun w => w != sentKey chunk owner (2 ^ 40) }
    s.sendOnce x 9 owner chunk (2 ^ 40) (fetchData what buf count) true none

/-! ### Reduce-scatter (R324) -/

/-- Own contribution to elements [e, e + n) of the source, in flattened order. -/
def State.rsOwn (s : State) (x : CCtx) (e n : Nat) : (Nat × List Int) × State :=
  let h := s.hdrAt x.a.src
  let r0 := e / h.k
  let rows := List.range ((e + n - 1) / h.k - r0 + 1)
  let rs := rows.flatMap fun i =>
    (h.codes + (r0 + i) * h.cstride, h.rowSize) :: (if h.isQ then [(h.exps + (r0 + i) * h.estride, h.expSize)] else [])
  let (st, _, s) := s.readAll x.client x.h.tag rs x.errs
  let v := s.memView x.d h
  ((st, (List.range n).map fun i => v.value ((e + i) / h.k) ((e + i) % h.k)), s)

/-- Signed lanes of w bytes, and their bytes. -/
def lanesOf (w : Nat) (bs : List Byte) : List Int :=
  (List.range (bs.length / w)).map fun i => sx (8 * w) (leAt bs (w * i) w)
def laneBytes (w : Nat) (vs : List Int) : List Byte := vs.flatMap fun v => natLe w (trunc (8 * w) v)

/-- Keep a message of this device's own for the twin (R324). -/
def State.keepOwn (s : State) (x : CCtx) (chunk off : Nat) (data : List Byte) : State :=
  s.onEng x.d fun e =>
    let m : Msg := { src := BitVec.ofNat 12 s.rank, group := BitVec.ofNat 8 x.y.group, cgen := BitVec.ofNat 16 x.g.cgen,
                     cseq := BitVec.ofNat 32 x.y.cseq, chunk := BitVec.ofNat 32 chunk, offset := off, last := false,
                     digValid := false, dig := 0, data := data }
    { e with got := (2, m) :: e.got }

/-- One piece of a chunk: the sum of the own contribution and the partial sums received goes on, or is written at its
owner. -/
def State.rsPiece (s : State) (x : CCtx) (ci : Nat) (c : Chunk) (off len : Nat) : State :=
  let h := s.hdrAt c.dhdr
  let w := intBytes h.fmt
  let done := match x.rsTo c.own with
    | some p => s.wasSent x (s.memberRank x.g p) ci off
    | none => s.wasWritten x ci off
  if !s.collOn x || done then s
  else
    let ms := (x.rsFrom c.own).map fun p => s.gotMsg x 1 ci off (s.memberRank x.g p)
    if ms.any (·.isNone) then s
    else
      let ((st, own), s) := s.rsOwn x (c.first + off / w) (len / w)
      if st != 0 then s.collEnd x.d x.k st 0
      else
        let sum := ms.foldl (fun (l : List Int) m => match m with
          | some m => List.zipWith (· + ·) l (lanesOf w m.data)
          | none => l) own
        let bs := laneBytes w sum
        if x.fault then s.collFault x
        else match x.rsTo c.own with
        | some p => s.sendOnce x 1 (s.memberRank x.g p) ci off bs (off + len = c.count * w) none
        | none =>
          let s := s.collWrite x (layRuns (h.flatRuns (off / w) (len / w)) bs) ci off
          if x.y.dual then s.keepOwn x ci off bs else s

/-- Noise buffer that goes with a chunk of a private step (R258): the shard, if its gradient is the chunk's result. -/
def State.noiseOf (s : State) (c : Chunk) (owned : Bool) : Option Nat :=
  if s.private_ then s.shardOfGrad c.dhdr owned else none

/-- The owner's total of a chunk goes to its twin, then its noise once the buffer holds this epoch's (R258, R324). -/
def State.dualSend (s : State) (x : CCtx) (ci : Nat) (c : Chunk) : State :=
  let twin := s.memberTwin x.g x.g.pos
  let w := intBytes (s.hdrAt c.dhdr).fmt
  let n := c.count * w
  let ps := msgPieces n
  if c.own != x.g.pos || twin = 0xFFFF || !(ps.all fun p => s.wasWritten x ci p.1) then s
  else
    let all := ps.flatMap fun p => match s.gotMsg x 2 ci p.1 s.rank with | some m => m.data | none => []
    let s := ps.foldl (fun s p =>
      let last := p.1 + p.2 = n
      s.sendOnce x 2 twin ci p.1 ((all.drop p.1).take p.2) last (if last then some (s.dig all) else none)) s
    match s.noiseOf c true with
    | none => s
    | some i =>
      let a := (s.shard i).noise
      if s.noiseEpoch a != s.epoch + 1 then s
      else
        let ((st, bs), s) := s.memRead x.client x.h.tag (a + 64) (8 * c.count) x.errs true
        if st != 0 then s.collEnd x.d x.k st 0
        else (msgPieces (8 * c.count)).foldl (fun s p =>
          let last := p.1 + p.2 = 8 * c.count
          s.sendOnce x 2 twin ci (n + p.1) ((bs.drop p.1).take p.2) last (if last then some (s.dig bs) else none)) s

/-- Whether the owner has sent all of a chunk to its twin. -/
def State.dualSent (s : State) (x : CCtx) (ci : Nat) (c : Chunk) : Bool :=
  let twin := s.memberTwin x.g x.g.pos
  let n := c.count * intBytes (s.hdrAt c.dhdr).fmt
  twin = 0xFFFF || ((msgPieces n).all (fun p => s.wasSent x twin ci p.1) &&
    ((s.noiseOf c true).isNone || (msgPieces (8 * c.count)).all fun p => s.wasSent x twin ci (n + p.1)))

/-- Bytes of a run of messages [base, base + n) from one sender, once all have come, with the digest of the last. -/
def State.gathered (s : State) (x : CCtx) (t ci base n src : Nat) : Option (List Byte × Option Nat) :=
  let ms := (msgPieces n).map fun p => s.gotMsg x t ci (base + p.1) src
  if ms.any (·.isNone) then none
  else
    let l := ms.filterMap id
    some (l.flatMap (·.data), match l.getLast? with | some m => (if m.digValid then some m.dig.toNat else none) | none => none)

/-- The twin's side of a chunk (R324, R341): the total, and the noise in a private step, verified and written. -/
def State.dualRecv (s : State) (x : CCtx) (ci : Nat) (c : Chunk) : State :=
  let owner := s.memberRank x.g c.own
  if s.memberTwin x.g c.own != s.rank || c.own = x.g.pos || s.wasChecked x ci then s
  else
    let h := s.hdrAt c.dhdr
    let n := c.count * intBytes h.fmt
    let sh := s.noiseOf c false
    let noise := match sh with
      | none => some ([], none)
      | some _ => s.gathered x 2 ci n (8 * c.count) owner
    match s.gathered x 2 ci 0 n owner, noise with
    | some (bs, dg), some (ns, ng) =>
      let good := dg = some (s.dig bs) && (sh.isNone || ng = some (s.dig ns))
      let key := match s.shardOfGrad c.dhdr false with | some i => i | none => 2 ^ 32 + ci
      if !good then s.fetchAgain x 2 ci key owner c.dhdr 2 c.count
      else
        let s := { s with stw := { s.stw with fetches := SMap.del key s.stw.fetches } }
        let s := s.collWrite x (layRuns (h.flatRuns 0 c.count) bs) ci 0
        let s := match sh with
          | none => s
          | some i =>
            let a := (s.shard i).noise
            (s.writeAll x.client [(a + 64, ns), (a, noiseHdr (s.epoch + 1) noiseEmpty)] 4 x.errs).2
        s.onColl x.d x.k fun j => { j with checked := ci :: j.checked }
    | _, _ => s

def State.rsGo (s : State) (x : CCtx) : State :=
  let cs := (s.chunks x.a).zipIdx
  let s := cs.foldl (fun s p =>
    let n := p.1.count * intBytes (s.hdrAt p.1.dhdr).fmt
    let s := (msgPieces n).foldl (fun s q => s.rsPiece x p.2 p.1 q.1 q.2) s
    if x.y.dual && s.collOn x then (s.dualSend x p.2 p.1).dualRecv x p.2 p.1 else s) s
  let done := cs.all fun p =>
    let n := p.1.count * intBytes (s.hdrAt p.1.dhdr).fmt
    ((msgPieces n).all fun q => match x.rsTo p.1.own with
      | some r => s.wasSent x (s.memberRank x.g r) p.2 q.1
      | none => s.wasWritten x p.2 q.1) &&
    (!x.y.dual || ((p.1.own != x.g.pos || s.dualSent x p.2 p.1) &&
      (p.1.own = x.g.pos || s.memberTwin x.g p.1.own != s.rank || s.wasChecked x p.2)))
  if s.collOn x && done && s.collQuiet x then s.collEnd x.d x.k 0 0 else s

/-! ### All-gather (R326) -/

def State.agChunk (s : State) (x : CCtx) (ci : Nat) (c : Chunk) : State :=
  let h := s.hdrAt x.a.dst
  let runs := s.shardRuns h (s.shard c.first)
  let n := runsLen runs
  let owner := s.memberRank x.g c.own
  let fwd := fun (s : State) (p : Nat × Nat) (bs : List Byte) (dig : Option Nat) =>
    (x.agTo c.own).foldl (fun s j =>
      s.sendOnce x 3 (s.memberRank x.g j) ci p.1 bs (p.1 + p.2 = n) dig) s
  match x.agFrom c.own with
  | none => (msgPieces n).foldl (fun s p =>
      if !s.collOn x || (x.agTo c.own).all fun j => s.wasSent x (s.memberRank x.g j) ci p.1 then s
      else
        let (st, l, s) := s.readAll x.client x.h.tag (cutRuns runs p.1 p.2) x.errs
        if st != 0 then s.collEnd x.d x.k st 0
        else fwd s p (l.flatMap id) (if p.1 + p.2 = n then some (s.cdig c.first x.y.buf) else none)) s
  | some from_ =>
    if s.wasChecked x ci then s
    else
      let find : State → Nat → Option Msg := fun s off =>
        match s.gotMsg x 3 ci off (s.memberRank x.g from_) with
        | some m => some m
        | none => s.gotMsg x 3 ci off owner
      let s : State := (msgPieces n).foldl (fun (s : State) p =>
        match find s p.1 with
        | none => s
        | some m =>
          let s := if s.collOn x && !s.wasWritten x ci p.1 then
            s.collWrite x (layRuns (cutRuns runs p.1 p.2) m.data) ci p.1 else s
          if s.collOn x then fwd s p m.data (if m.digValid then some m.dig.toNat else none) else s) s
      if !s.collOn x || !((msgPieces n).all fun p => s.wasWritten x ci p.1) then s
      else
        let last := ((msgPieces n).getLast?.map (·.1)).getD 0
        let dg : Option Nat := match find s last with | some m => (if m.digValid then some m.dig.toNat else none) | none => none
        let want : Option Nat := some (s.dig (s.runBytes runs))
        if decide (dg = want) then
          ({ s with stw := { s.stw with fetches := SMap.del c.first s.stw.fetches } }).onColl x.d x.k fun j =>
            { j with checked := ci :: j.checked }
        else s.fetchAgain x 3 ci c.first owner c.first x.y.buf 0

def State.agGo (s : State) (x : CCtx) : State :=
  let cs := (s.chunks x.a).zipIdx
  let s := cs.foldl (fun s p => if s.collOn x then s.agChunk x p.2 p.1 else s) s
  let done := cs.all fun p =>
    let n := runsLen (s.shardRuns (s.hdrAt x.a.dst) (s.shard p.1.first))
    (x.agTo p.1.own).all (fun j => (msgPieces n).all fun q => s.wasSent x (s.memberRank x.g j) p.2 q.1) &&
      (p.1.own = x.g.pos || s.wasChecked x p.2)
  if s.collOn x && done && s.collQuiet x then s.collEnd x.d x.k 0 0 else s

/-! ### Token exchange (R327) -/

/-- Byte runs of a row as it travels: codes, then exponents. -/
def Hdr.rowRuns (h : Hdr) (r : Nat) : Ranges :=
  (h.codes + r * h.cstride, h.rowSize) :: (if h.isQ then [(h.exps + r * h.estride, h.expSize)] else [])
def Hdr.rowBytes (h : Hdr) : Nat := runsLen (h.rowRuns 0)

/-- A row as it is written: codes then exponents. The codes of zero blocks and of padding are 0 (R31), and a row that did not
come holds zero blocks, or zero elements in an integer format. -/
def Hdr.rowIn (h : Hdr) (row : Option (List Byte)) : List Byte :=
  let bs := row.getD []
  if !h.isQ then
    let v := bs.take (intBytes h.fmt * h.k)
    v ++ List.replicate (h.rowSize - v.length) 0
  else
    let w := blkBytes h.fmt
    let exp := fun (b : Nat) => if row.isNone then 15 else nib (leAt bs (h.rowSize + b / 2) 1) (b % 2 = 1)
    let t : RawT := ⟨fun _ b => (bs.drop (w * b)).take w, fun _ _ => [], fun _ b => exp b, fun _ _ => [], fun _ _ _ => []⟩
    ((List.range (ceilDiv h.k 32)).flatMap fun b => (t.block h.fmt (row.map fun _ => 0) b h.k).1)
      ++ packNibs ((List.range (2 * h.expSize)).map exp)

/-- Rows of one position are written: those that came, zeros for the rest of DCNT, and the surplus is discarded. -/
def State.a2aPut (s : State) (x : CCtx) (j : Nat) (bs : List Byte) : State :=
  let h := s.hdrAt x.a.dst
  let p := s.split x.a.tab j
  let rb := h.rowBytes
  let n := bs.length / rb
  let pad := (List.range p.dcnt).flatMap fun i => h.rowIn (if i < n then some ((bs.drop (rb * i)).take rb) else none)
  let runs := (List.range p.dcnt).flatMap fun i => h.rowRuns (p.drow + i)
  let s := s.collWrite x (layRuns runs pad) j 0
  if s.collOn x && n > p.dcnt then
    (s.onColl x.d x.k fun k => { k with ev := true }).raise 0x4008 (srcDie x.d) x.h.tag j (n - p.dcnt)
  else s

/-- Data of the rows sent to a position; where there are none, a single zero byte marks the end. -/
def State.a2aData (s : State) (x : CCtx) (j : Nat) : (Nat × List Byte) × State :=
  let h := s.hdrAt x.a.src
  let p := s.split x.a.tab j
  let runs := (List.range p.scnt).flatMap fun i => h.rowRuns (p.srow + i)
  let (st, l, s) := s.readAll x.client x.h.tag runs x.errs
  ((st, l.flatMap id), s)

/-- Bytes received from a position, once the last has come. -/
def State.a2aGot (s : State) (x : CCtx) (j : Nat) : Option (List Byte) :=
  let src := s.memberRank x.g j
  let ms := (s.kept.filter fun m => m.1 = 4 && m.2.group.toNat = x.y.group && m.2.cgen.toNat = x.g.cgen
    && m.2.cseq.toNat = x.y.cseq && m.2.src.toNat = src).map (·.2)
  match ms.find? (·.last) with
  | none => none
  | some m =>
    let n := m.offset + m.data.length
    let l := (msgPieces n).map fun p => ms.find? fun m => m.offset = p.1
    if l.any (·.isNone) then none else some ((l.filterMap id).flatMap (·.data))

def State.a2aGo (s : State) (x : CCtx) : State :=
  let js := List.range x.g.n
  let s := js.foldl (fun s j =>
    let own := j = x.g.pos
    let rank := s.memberRank x.g j
    if !s.collOn x then s
    else if own && s.wasWritten x j 0 then s
    else if !own && s.wasSent x rank x.g.pos (2 ^ 40) then s
    else
      let ((st, bs), s) := s.a2aData x j
      if st != 0 then s.collEnd x.d x.k st 0
      else if own then s.a2aPut x j bs
      else
        let bs := if bs.isEmpty then [0] else bs
        let s := (msgPieces bs.length).foldl (fun s p =>
          s.sendOnce x 4 rank x.g.pos p.1 ((bs.drop p.1).take p.2) (p.1 + p.2 = bs.length) none) s
        if (msgPieces bs.length).all fun p => s.wasSent x rank x.g.pos p.1 then
          s.collStep x fun k => { k with sent := sentKey x.g.pos rank (2 ^ 40) :: k.sent }
        else s) s
  let s := js.foldl (fun s j =>
    if !s.collOn x || j = x.g.pos || s.wasWritten x j 0 then s
    else match s.a2aGot x j with
      | some bs => s.a2aPut x j bs
      | none => s) s
  let done := js.all fun j =>
    s.wasWritten x j 0 && (j = x.g.pos || s.wasSent x (s.memberRank x.g j) x.g.pos (2 ^ 40))
  if s.collOn x && done && s.collQuiet x then s.collEnd x.d x.k 0 0 else s

/-! ### All-reduce (R328) -/

/-- Lanes and flags of an all-reduce message: 8 bytes a lane, then one flag bit a lane. -/
def arBytes (ls : List (Int × Bool)) : List Byte :=
  laneBytes 8 (ls.map (·.1)) ++ natLe (ceilDiv ls.length 8)
    (ls.zipIdx.foldl (fun n p => n + if p.1.2 then 2 ^ p.2 else 0) 0)
def arLanes (n : Nat) (bs : List Byte) : List (Int × Bool) :=
  let f := leNat (bs.drop (8 * n))
  (List.range n).map fun i => (sx 64 (leAt bs (8 * i) 8), f.testBit i)

def State.arGo (s : State) (x : CCtx) : State :=
  let n := x.a.count
  let rankOf := s.memberRank x.g
  let kids := treeKids x.g.n 0 x.g.pos
  let up := (x.g.pos - 1) / 2
  let ms := kids.map fun p => s.gotMsg x 5 0 0 (rankOf p)
  let total := fun (s : State) => if x.g.pos = 0 then s.gotMsg x 6 0 0 s.rank else s.gotMsg x 6 0 0 (rankOf up)
  -- the sum of the own lanes and the children's
  let summed := if x.g.pos = 0 then (total s).isSome else s.wasSent x (rankOf up) 0 0
  let s := if summed || ms.any (·.isNone) then s
    else
      let ((st, bs), s) := s.memRead x.client x.h.tag x.a.src (8 * n) x.errs
      if st != 0 then s.collEnd x.d x.k st 0
      else
        let own := arLanes n bs
        let sum := ms.foldl (fun (l : List (Int × Bool)) m => match m with
          | some m => List.zipWith (fun a b => (a.1 + b.1, a.2 || b.2)) l (arLanes n m.data)
          | none => l) (own.map fun a => (a.1, false))
        let sat := sum.map fun a => let c := clampTo 64 a.1; (c.1, a.2 || c.2)
        if x.fault then s.collFault x
        else if x.g.pos != 0 then s.sendOnce x 5 (rankOf up) 0 0 (arBytes sat) true none
        else
          let m : Msg := { src := BitVec.ofNat 12 s.rank, group := BitVec.ofNat 8 x.y.group,
                           cgen := BitVec.ofNat 16 x.g.cgen, cseq := BitVec.ofNat 32 x.y.cseq, chunk := 0, offset := 0,
                           last := true, digValid := false, dig := 0, data := arBytes sat }
          (s.onEng x.d fun e => { e with got := (6, m) :: e.got }).collStep x id
  if !s.collOn x then s
  else match total s with
    | none => s
    | some m =>
      let ls := arLanes n m.data
      let s := if s.wasWritten x 0 0 then s else s.collWrite x [(x.a.dst, laneBytes 8 (ls.map (·.1)))] 0 0
      let s := if s.collOn x then kids.foldl (fun s p => s.sendOnce x 6 (rankOf p) 0 0 m.data true none) s else s
      let done := kids.all fun p => s.wasSent x (rankOf p) 0 0
      if s.collOn x && done && s.collQuiet x then
        let k := (ls.filter (·.2)).length
        let s := if k = 0 then s
          else (s.onColl x.d x.k fun j => { j with ev := true, cnt := BitVec.ofNat 24 k }).raise 0x4009 (srcDie x.d) x.h.tag k 0
        s.collEnd x.d x.k 0 0
      else s

/-! ### PUT and SIGNAL (R329, R330) -/

/-- Next number of a message to a peer; the engine's number keeps the four engines' numbers apart. -/
def State.putNumber (s : State) (d peer : Nat) : Nat × State :=
  let n := SMap.val 0 (s.eng d).putNo peer
  (4 * n + d, s.onEng d fun e => { e with putNo := SMap.put peer (n + 1) e.putNo })

/-- Send a PUT or SIGNAL message: number i of its descriptor. -/
def State.putSend (s : State) (x : CCtx) (t i : Nat) (data : List Byte) : State :=
  if s.wasSent x x.a.peer i 0 then s
  else
    let (no, s) := s.putNumber x.d x.a.peer
    let m : Msg := { src := BitVec.ofNat 12 s.rank, group := 0, cgen := 0, cseq := BitVec.ofNat 32 no, chunk := 0,
                     offset := 0, last := true, digValid := false, dig := 0, data := data }
    let (ok, s) := s.sendMsg x.a.peer (vcOf t x.y.cmt) t m (some (x.d, x.k)) x.res
    if ok then s.collStep x fun j => { j with sent := sentKey i x.a.peer 0 :: j.sent } else s

/-- Data bytes of a PUT message beside its own fields. -/
def putMax : Nat := msgMax - 16

/-- A PUT sends its bytes; each message's data begins with DST, the class, COUNT and its place in the transfer, so that the
peer can check the whole of DST before it writes (log 52). -/
def State.putGo (s : State) (x : CCtx) : State :=
  (List.range (ceilDiv x.a.count putMax)).foldl (fun s i =>
    if !s.collOn x || s.wasSent x x.a.peer i 0 then s
    else
      let n := min putMax (x.a.count - putMax * i)
      let ((st, bs), s) := s.memRead x.client x.h.tag (x.a.src + putMax * i) n x.errs
      if st != 0 then s.collEnd x.d x.k st 0
      else s.putSend x 7 i (natLe 8 (x.a.dst % 2 ^ 48 + x.h.rclass * 2 ^ 56) ++ natLe 4 x.a.count ++ natLe 4 (putMax * i) ++ bs)) s

/-- The peer's report ends a PUT whose messages have all gone out. -/
def State.putReport (s : State) (x : CCtx) (report : Option Bool) : State :=
  match report with
  | none => s
  | some ok =>
    if !s.collOn x || !((List.range (ceilDiv x.a.count putMax)).all fun i => s.wasSent x x.a.peer i 0) then s
    else if ok then s.collEnd x.d x.k 0 0 else s.collEnd x.d x.k 0x10 0

/-- An earlier collective of the engine that writes at a rank, as a member or as a twin, is still in flight. -/
def State.writesAt (s : State) (d k rank : Nat) : Bool :=
  (s.eng d).jobs.any fun j =>
    let x := s.cctx d j [] false
    j.k < k && (if x.h.opc = 0x44 then x.a.peer = rank
      else x.h.opc < 0x44 && (List.range x.g.n).any fun i =>
        s.memberRank x.g i = rank || (x.h.opc = 0x40 && x.y.dual && s.memberTwin x.g i = rank))

/-- A SIGNAL goes out after the earlier collectives that write at its peer, with the time it was sent. -/
def State.sigGo (s : State) (x : CCtx) : State :=
  let s := if s.wasSent x x.a.peer 0 0 || s.writesAt x.d x.k x.a.peer then s
    else s.putSend x 8 0 (natLe 2 x.a.obj ++ natLe 2 x.a.ogen ++ natLe 4 x.a.count ++ natLe 8 s.time.meridian.toNat)
  if s.collOn x && s.wasSent x x.a.peer 0 0 && s.collQuiet x then s.collEnd x.d x.k 0 0 else s

/-! ### The rows of collectives -/

/-- Whether a collective's contributions are I32 (R259): those of a reduce-scatter of SFMT 2, and the rows of an exchange of
I32. DEDUCED (log 81): the other collectives carry none. -/
def State.i32Only (s : State) (x : CCtx) : Bool :=
  (x.h.opc = 0x40 && x.g.sfmt = 2) || (x.h.opc = 0x42 && (s.hdrAt x.a.src).fmt = 3)

/-- A collective starts once its wait is met and no load of a codebook it names is due before it (R36), with its checks. -/
def State.collStart (s : State) (d : Nat) (j : CollJob) (errs : Errs) : State :=
  let h := whdrOf j.cmd
  if j.ph != .queued then s
  else if j.seq.isNone && h.wen && !s.waitMet h.wobj h.wgen h.wthr then s
  else if j.seq.isNone && (s.heldBack j.ord || s.loadPending j.ord j.cbs) then s
  else if !(s.running || s.dev.st = .held) then s.collEnd d j.k 0x20 0
  else
    let ((st, off), s) := s.collCheck d j errs
    if st != 0 then s.collEnd d j.k st off
    else
      let s := s.onColl d j.k fun j => { j with ph := .run, last := s.ticks }
      -- R235, R259: a collective of kind EXCHANGE whose contributions are not I32
      if phKind (s.phase h.phase) = 4 && !s.i32Only (s.cctx d j errs false) then
        { s with priv := { s.priv with exchOk := false } } else s

/-- A running collective is carried on as far as what it has received allows. -/
def State.collGo (s : State) (d k : Nat) (errs : Errs) (fault : Bool) : State :=
  match s.coll d k with
  | none => s
  | some j =>
    let x := s.cctx d j errs fault
    if j.ph != .run || !(s.running || s.dev.st = .held) then s
    else if x.h.opc = 0x40 then s.rsGo x
    else if x.h.opc = 0x41 then s.agGo x
    else if x.h.opc = 0x42 then s.a2aGo x
    else if x.h.opc = 0x43 then s.arGo x
    else if x.h.opc = 0x44 then s.putGo x
    else if x.h.opc = 0x45 then s.sigGo x else s

/-- A row of a collective: the collective with that number and opcode starts or goes on, with the values in force at its
acceptance (R463). -/
def State.collRow (s : State) (d k opc : Nat) (errs : Errs) (fault : Bool) : State :=
  match s.coll d k with
  | none => s
  | some j =>
    if fld j.cmd 0 8 != opc then s else s.asOf j.ord fun s => (s.collStart d j errs).collGo d k errs fault

/-- COLL_RS (R324). `fault` is a residue check of the adder that fails (R321). -/
def execCollRs (d : Die) (k : Nat) (fault : Bool) (errs : Errs) (s : State) : Host.Outcome State Fault Refusal :=
  .next (s.collRow d.val k 0x40 errs fault)
/-- COLL_AG (R326). -/
def execCollAg (d : Die) (k : Nat) (errs : Errs) (s : State) : Host.Outcome State Fault Refusal :=
  .next (s.collRow d.val k 0x41 errs false)
/-- COLL_A2A (R327). -/
def execCollA2a (d : Die) (k : Nat) (errs : Errs) (s : State) : Host.Outcome State Fault Refusal :=
  .next (s.collRow d.val k 0x42 errs false)
/-- COLL_ALLRED (R328). -/
def execCollAllred (d : Die) (k : Nat) (fault : Bool) (errs : Errs) (s : State) : Host.Outcome State Fault Refusal :=
  .next (s.collRow d.val k 0x43 errs fault)

/-- COLL_PUT (R329). `report` is the peer's: every byte is visible, or DST was refused. -/
def execCollPut (d : Die) (k : Nat) (report : Option Bool) (errs : Errs) (s : State) :
    Host.Outcome State Fault Refusal :=
  let s := s.collRow d.val k 0x44 errs false
  match s.coll d.val k with
  | none => .next s
  | some j =>
    .next (if fld j.cmd 0 8 = 0x44 && j.ph = .run then s.putReport (s.cctx d.val j errs false) report else s)

/-- COLL_SIGNAL (R329). -/
def execCollSignal (d : Die) (k : Nat) (errs : Errs) (s : State) : Host.Outcome State Fault Refusal :=
  .next (s.collRow d.val k 0x45 errs false)

/-! ### Messages that arrive (R330) -/

/-- The receive slots of a message are freed. -/
def State.takeInbox (s : State) (t : Nat) (m : Msg) : State :=
  match s.lnk.inbox.find? fun i => i.mtype = t && i.msg = m with
  | none => s
  | some i =>
    let s := { s with lnk := { s.lnk with inbox := s.lnk.inbox.erase i } }
    s.onPort i.port fun x => i.slots.foldl (fun x c => x.free c) x

/-- The collective of a group and a sequence number that runs in some engine. -/
def State.collOf (s : State) (g cseq : Nat) : Option (Nat × CollJob) :=
  (s.lnk.eng.flatMap fun p => p.2.jobs.map fun j => (p.1, j)).find? fun p =>
    p.2.ph = .run && fld p.2.cmd 0 8 < 0x44 && fld p.2.cmd 264 8 = g && fld p.2.cmd 320 32 = cseq

/-- Bytes staged at an engine: messages whose collective does not run. -/
def State.staged (s : State) (d : Nat) : Nat :=
  ((s.eng d).got.filter fun m => (s.collOf m.2.group.toNat m.2.cseq.toNat).isNone).foldl
    (fun n m => n + 48 + m.2.data.length) 0

/-- A message of a collective arrives at engine d, which keeps it (R331). `fault` is a residue check of the adder that fails
(R321). -/
def State.recv (s : State) (d t : Nat) (m : Msg) (fault : Bool) (errs : Errs) : State :=
  let g := m.group.toNat
  let q := m.cseq.toNat
  if m.cgen.toNat != s.cgenOf g then (s.takeInbox t m).flag R.lnkStat 0 R.lnkStalecnt 1
  else if s.lnk.eng.any fun p => p.2.done.contains (g, m.cgen.toNat, q) then (s.takeInbox t m).flag R.lnkStat 1 R.lnkDupcnt 1
  else
    let same := s.kept.any fun r =>
      r.1 = t && r.2.group = m.group && r.2.cgen = m.cgen && r.2.cseq = m.cseq && r.2.chunk = m.chunk
        && r.2.offset = m.offset && r.2.src = m.src
    if same then s.takeInbox t m
    else match s.collOf g q with
    | some (e, j) =>
      let s := (s.takeInbox t m).onEng e fun x => { x with got := (t, m) :: x.got }
      (s.onColl e j.k fun j => { j with last := s.ticks }).collGo e j.k errs fault
    | none =>
      if s.staged d + 48 + m.data.length > s.rf R.lnkStg 0 8 * 2 ^ 20 / 4 then s
      else (s.takeInbox t m).onEng d fun x => { x with got := (t, m) :: x.got }

/-- RS_PARTIAL (R324): a partial sum. -/
def execRsPartial (d : Die) (m : Msg) (fault : Bool) (errs : Errs) (s : State) : Host.Outcome State Fault Refusal :=
  .next (s.recv d.val 1 m fault errs)
/-- RS_RESULT_TO_TWIN (R324, R341). -/
def execRsResultToTwin (d : Die) (m : Msg) (errs : Errs) (s : State) : Host.Outcome State Fault Refusal :=
  .next (s.recv d.val 2 m false errs)
/-- AG_DATA (R326). -/
def execAgData (d : Die) (m : Msg) (errs : Errs) (s : State) : Host.Outcome State Fault Refusal :=
  .next (s.recv d.val 3 m false errs)
/-- A2A_ROWS (R327). -/
def execA2aRows (d : Die) (m : Msg) (errs : Errs) (s : State) : Host.Outcome State Fault Refusal :=
  .next (s.recv d.val 4 m false errs)
/-- ALLRED_UP (R328). -/
def execAllredUp (d : Die) (m : Msg) (fault : Bool) (errs : Errs) (s : State) : Host.Outcome State Fault Refusal :=
  .next (s.recv d.val 5 m fault errs)
/-- ALLRED_DOWN (R328). -/
def execAllredDown (d : Die) (m : Msg) (errs : Errs) (s : State) : Host.Outcome State Fault Refusal :=
  .next (s.recv d.val 6 m false errs)

/-- A PUT or SIGNAL message is applied once, by its number and sender. -/
def State.recvOnce (s : State) (d t : Nat) (m : Msg) : Option State :=
  if s.lnk.eng.any fun p => p.2.seen.contains (m.src.toNat, m.cseq.toNat) then none
  else some ((s.takeInbox t m).onEng d fun e => { e with seen := (m.src.toNat, m.cseq.toNat) :: e.seen })

/-- PUT (R329): the bytes are written where the whole of DST passes R8, and nothing where it does not; the answer is what
the peer is told. -/
def execPut (d : Die) (m : Msg) (errs : Errs) (s : State) : Host.Outcome State Fault Refusal :=
  match s.recvOnce d.val 7 m with
  | none => .next (s.takeInbox 7 m)
  | some s =>
    let a := leAt m.data 0 6
    let bs := m.data.drop 16
    if !s.dataOk a (leAt m.data 8 4) then .next { s with answer := (0x10, []) }
    else
      let (st, s) := s.memWrite (.coll d) (a + leAt m.data 12 4) bs (leAt m.data 7 1 % 16) errs
      .next { s with answer := (BitVec.ofNat 8 st, []) }

/-- Time is locked (R335); the root always is (Table 10.16). -/
def State.timeLocked (s : State) : Bool := s.rf R.lnkTcfg 0 1 = 1 || s.lnk.tsync.locked

/-- SIGNAL (R329): a remote signal reaches its object, unless the device's time is not locked. -/
def execSignal (d : Die) (m : Msg) (s : State) : Host.Outcome State Fault Refusal :=
  match s.recvOnce d.val 8 m with
  | none => .next (s.takeInbox 8 m)
  | some s =>
    let obj := leAt m.data 0 2 % 2 ^ 14
    if !s.timeLocked then .next (s.flag (R.synStat (obj / 4096)) 1 (R.synAgedcnt (obj / 4096)) 1)
    else .next (s.arrive obj (BitVec.ofNat 16 (leAt m.data 2 2)) (leAt m.data 4 4) (BitVec.ofNat 64 (leAt m.data 8 8))).2

/-- FETCH (R280, R326): the owner sends a shard, or a chunk's result, again point to point. In a sealed session a rank outside
the job gets it only from an aggregate class (R319). -/
def execFetch (d : Die) (m : Msg) (errs : Errs) (s : State) : Host.Outcome State Fault Refusal :=
  let s := s.takeInbox 9 m
  if m.cgen.toNat != s.cgenOf m.group.toNat then .next (s.flag R.lnkStat 0 R.lnkStalecnt 1)
  else
    let what := leAt m.data 0 8
    let buf := leAt m.data 8 1
    let runs := if buf = 2 then (s.hdrAt what).flatRuns 0 (leAt m.data 9 4)
      else s.shardRuns (s.hdrAt (rqcbOf (s.peek64 ((s.shard what).ccrq buf))).outhdr) (s.shard what)
    let n := runsLen runs
    let (st, l, s) := s.readAll (.coll d) 0 runs errs
    if st != 0 || (s.sec.sealMem && !routeInJob (s.route m.src.toNat) && !s.allAggregate runs) then .next s
    else
      let bs := l.flatMap id
      let put := fun (s : State) (base : Nat) (bs : List Byte) (dig : Nat) =>
        (msgPieces bs.length).foldl (fun s p =>
          let last := p.1 + p.2 = bs.length
          (s.sendMsg m.src.toNat 0 (if buf = 2 then 2 else 3)
            { m with src := BitVec.ofNat 12 s.rank, offset := base + p.1, last := last, digValid := last,
                     dig := if last then BitVec.ofNat 64 dig else 0, data := (bs.drop p.1).take p.2 } none []).2) s
      if buf != 2 then .next (put s 0 bs (s.cdig what buf))
      else
        let s := put s 0 bs (s.dig bs)
        match (if s.private_ then s.shardOfGrad what true else none) with
        | none => .next s
        | some i =>
          let ((st, ns), s) := s.memRead (.coll d) 0 ((s.shard i).noise + 64) (8 * leAt m.data 9 4) errs true
          .next (if st != 0 then s else put s n ns (s.dig ns))

/-- COLLECTIVE_TIMEOUT (R332): no progress for LNK_CTL.COLLTMO. -/
def execCollectiveTimeout (d : Die) (k : Nat) (s : State) : Host.Outcome State Fault Refusal :=
  match s.coll d.val k with
  | none => .next s
  | some j =>
    if j.ph != .run || s.ticks - j.last < s.rf R.lnkCtl 16 8 * tMs then .next s
    else
      let s := s.flag R.lnkStat 2 R.lnkTmocnt 1
      let s := s.raise 0x400A (srcDie d.val) (whdrOf j.cmd).tag (fld j.cmd 320 32) (fld j.cmd 264 8)
      .next (s.collEnd d.val k 0x40 0)

end Sys2Proof.Machine
end

