-- ==== Sys2Proof/Machine/LinkTime.lean ====
section
/-!
DEFINITION. Meridian time across devices (R333 to R335) and the qualification of ports (R435).
-/

namespace Sys2Proof.Machine

/-- Hops to the root (Table 10.16): 0 on the root. -/
def State.depth (s : State) : Nat := if s.rf R.lnkTcfg 0 1 = 1 then 0 else s.lnk.tsync.depth.toNat

/-- The LNK_TSTAT image (Table 10.16). -/
def State.tstat (s : State) : Nat :=
  (if s.timeLocked then 1 else 0) + (if s.time.slew != 0 then 2 else 0) + s.depth * 2 ^ 8
    + trunc 32 (clampTo 32 s.lnk.tsync.offset).1 * 2 ^ 32

/-- The port a follower uses: PARENT, or ALTPARENT while PARENT is not UP and ALTV is 1 (R335). -/
def State.parentPort (s : State) : Nat :=
  let p := s.rf R.lnkTcfg 1 5
  if (s.port p).st != .up && s.rf R.lnkTcfg 11 1 = 1 then s.rf R.lnkTcfg 6 5 else p

/-- Loss of lock (R335). -/
def State.loseLock (s : State) : State :=
  if !s.lnk.tsync.locked then s
  else
    let s := { s with lnk := { s.lnk with tsync := { s.lnk.tsync with locked := false, good := 0 } } }
    let s := s.flag R.lnkStat 3 R.lnkTlostcnt 1
    s.raise 0x400B srcSd 0 s.tstat 0

/-- The follower's offset of an exchange (R333). -/
def offsetOf (t1 t2 t3 t4 : BitVec 64) (asym : Int) : Int :=
  ((sx 64 (t4 - t3).toNat - sx 64 (t2 - t1).toNat) + asym).fdiv 2

/-- What a TIME flit brings (R333 to R335): a request is answered with t2 and t3; the reply to an open request gives the
offset, from which lock and the correction to slew follow. -/
def State.timeIn (s : State) (p : Nat) (f : TimeFlit) : State :=
  match f with
  | .request =>
    let now := s.time.meridian
    s.sendCtl p (.time (.reply now now (BitVec.ofNat 8 s.depth) s.timeLocked))
  | .reply t2 t3 depth up =>
    let t := s.lnk.tsync
    match t.t1 with
    | none => s
    | some t1 =>
      if s.rf R.lnkTcfg 0 1 = 1 || p != s.parentPort then s
      else
        let o := offsetOf t1 t2 t3 s.time.meridian (sx 16 (s.rf (R.lnkPctl p) 16 16))
        let good := if o.natAbs ≤ 32 && up then t.good + 1 else 0
        let s := { s with time := { s.time with slew := -o },
                          lnk := { s.lnk with tsync := { t with good, lastOk := s.ticks, depth := depth + 1, offset := o,
                                                                t1 := none, locked := t.locked || good ≥ 8 } } }
        if o.natAbs > 256 then s.loseLock else s

/-- TIME (R333). -/
def execTime (p : Port) (flit : Flit) (s : State) : Host.Outcome State Fault Refusal :=
  s.ctlRow p.val flit fun
    | .time f => some fun s => s.timeIn p.val f
    | _ => none

/-- TIME_EXCHANGE (R333): a follower sends a request every TPER µs. -/
def execTimeExchange (s : State) : Host.Outcome State Fault Refusal :=
  let t := s.lnk.tsync
  let p := s.parentPort
  if s.rf R.lnkTcfg 0 1 = 1 || (s.port p).st != .up || s.ticks - t.lastReq < s.rf R.lnkTcfg 12 8 * tUs then .next s
  else
    let s := { s with lnk := { s.lnk with tsync := { t with t1 := some s.time.meridian, lastReq := s.ticks } } }
    .next (s.sendCtl p (.time .request))

/-- TIME_LOCK_TIMEOUT (R335): no valid exchange for 1 ms. -/
def execTimeLockTimeout (s : State) : Host.Outcome State Fault Refusal :=
  if s.rf R.lnkTcfg 0 1 = 1 || s.ticks - s.lnk.tsync.lastOk < tMs then .next s else .next s.loseLock

/-- LINK_QUALIFICATION (R435): a port that is UP with QUAL has carried the pattern. It passes when it has had no
uncorrectable codeword and no retrain and every active wavelength's bit error ratio, which `ber` marks, is below the bound;
else it goes to FAILED until the next cold start or until it is disabled and enabled again. -/
def execLinkQualification (p : Port) (ber : BitVec 8) (s : State) : Host.Outcome State Fault Refusal :=
  let x := s.port p.val
  if x.st != .up || !x.qual || (x.clean && x.active &&& ~~~ber = 0) then .next s
  else
    let s := (s.portFail p.val 6).onPort p.val fun x => { x with qual := true }
    .next (s.raise 0x400C (srcPort p.val) 0 (s.port p.val).image 0)

end Sys2Proof.Machine
end

