-- ==== Sys2Proof/Machine/Rings.lean ====
section
/-!
DEFINITION. Rings, doorbells and the hand-over of entries (R268 to R274), and the steward commands that act on control
cores (R275).
-/

namespace Sys2Proof.Machine

/-! ### The ring table (R268) -/

/-- Fields of a ring's entry. -/
def Ring.base (x : Ring) : Nat := fld x.entry 0 48
def Ring.log2n (x : Ring) : Nat := fld x.entry 128 5
def Ring.cqlog2 (x : Ring) : Nat := fld x.entry 136 5
def Ring.tclass (x : Ring) : Nat := fld x.entry 144 3
def Ring.tunit (x : Ring) : Nat := fld x.entry 147 7
def Ring.tqueue (x : Ring) : Nat := fld x.entry 154 3
def Ring.rgen (x : Ring) : Nat := fld x.entry 160 16

/-- Whether an entry keeps Table 9.2, its target class apart. -/
def State.ringOk (s : State) (x : Ring) : Bool :=
  let cq := fld x.entry 64 48
  zeroBits x.entry [(48, 16), (112, 16), (133, 3), (141, 3), (157, 3), (176, 80), (384, 128)]
    && x.tclass ≤ 4 && 4 ≤ x.log2n && x.log2n ≤ 16 && 4 ≤ x.cqlog2 && x.cqlog2 ≤ 16
    && x.base % 4096 = 0 && cq % 4096 = 0 && s.inHost x.base (64 * 2 ^ x.log2n) && s.inHost cq (16 * 2 ^ x.cqlog2)
    && (if x.tclass = 1 then x.tunit < 96 else if x.tclass = 2 then x.tunit < 4 else x.tunit = 0)
    && (x.tclass = 1 || x.tqueue = 0)

/-- A ring is idle: it has consumed every entry and has none in flight (R268). -/
def Ring.idle (x : Ring) : Bool := x.cons = x.prod && x.reserved = 0

/-- The ring as the engine sees it when a doorbell arrives: the entry of an idle ring, or of one in error, is read. Under a
new generation the completion queue counts as empty. An entry that cannot be read gives none. -/
def State.ringSee (s : State) (r : Nat) (errs : Errs) : Option Ring × State :=
  let x := s.ring r
  if !x.idle && x.st != .error then (some x, s)
  else
    let ((st, bs), s) := s.memRead .steward 0 (s.ringEntryAt r) 64 errs
    if st != 0 then (none, s)
    else
      let e := blockOf bs
      let cq := BitVec.ofNat 32 (fld e 288 32)
      let fresh := fld e 160 16 != x.rgen || x.entry = 0
      (some { x with entry := e, cons := BitVec.ofNat 32 (fld e 256 32), prod := BitVec.ofNat 32 (fld e 256 32), cqProd := cq,
                     cqCons := if fresh then cq else x.cqCons, st := if x.st = .error && !fresh then .error else .idle }, s)

/-- A doorbell that is discarded (R269, R271). -/
def State.staleBell (s : State) : State := s.flag R.updStat 1 R.updDbstalecnt 1

/-- A ring error (R271). -/
def State.ringErr (s : State) (r : Nat) (x : Ring) (cause pidx : Nat) : State :=
  let s := (s.setRing r { x with st := .error }).ringStore r
  let img := r + cause * 2 ^ 16 + 2 ^ 31 + pidx * 2 ^ 32
  ((s.flag R.updStat 0 R.updRingerrcnt 1).wr R.updLasterr img).raise 0x3001 srcSd 0 img 0

/-- A doorbell (R269, R271): discarded while RINGEN is 0 or under another generation; a ring error where the entry is
disabled or breaks Table 9.2, except at a ring that is in error already; else `f` acts on the ring and the count the doorbell
carries. Where the entry cannot be read (R267), the doorbell is lost (log 83). -/
def State.bell (s : State) (r : Nat) (value : Word) (errs : Errs) (f : Ring → BitVec 32 → State → State) : State :=
  if s.rf R.updCtl 0 1 = 0 then s.staleBell
  else
    let (y, s) := s.ringSee r errs
    match y with
    | none => s
    | some x =>
      let p := BitVec.ofNat 32 (fld value 0 32)
      if fld value 32 16 != x.rgen then s.staleBell
      else if x.st = .error then f x p s
      else if x.tclass = 0 then s.ringErr r x 1 p.toNat
      else if !s.ringOk x then s.ringErr r x 2 p.toNat
      else f x p s

/-- A completion doorbell (R269): the count of records consumed. -/
def State.compBell (s : State) (r : Nat) (value : Word) (errs : Errs) : State :=
  s.bell r value errs fun x p s => s.setRing r { x with cqCons := p }

/-- A producer doorbell (R269 to R271): a ring in error stays as it is. -/
def State.prodBell (s : State) (r : Nat) (value : Word) (errs : Errs) : State :=
  s.bell r value errs fun x p s =>
    if x.st = .error then s
    else if (p - x.cons).toNat > 2 ^ x.log2n then s.ringErr r x 0 p.toNat
    else
      let x := { x with prod := p, st := if p = x.cons && x.reserved = 0 then RingPh.idle else .active }
      (s.setRing r x).ringStore r

/-- PRODUCER_DOORBELL: a store to a ring's doorbell page. Any but a single aligned 64-bit store to one of its first two
words is ignored and counted. -/
def execProducerDoorbell (ring : Fin 65536) (off : BitVec 12) (size : Nat) (value : Word) (errs : Errs) (s : State) :
    Host.Outcome State Fault Refusal :=
  if size != 8 || (off != 0 && off != 8) then .next s.staleBell
  else if off = 8 then .next (s.compBell ring.val value errs) else .next (s.prodBell ring.val value errs)

/-- COMPLETION_DOORBELL. -/
def execCompletionDoorbell (ring : Fin 65536) (value : Word) (errs : Errs) (s : State) : Host.Outcome State Fault Refusal :=
  .next (s.compBell ring.val value errs)

/-! ### Steward commands (R275) -/

/-- States in which a steward command is legal (Table 15.2). -/
def stwLegal (opc : Nat) (st : DevState) : Bool :=
  if opc = 0x80 then st = .ready || st = .held
  else if opc = 0x88 || opc = 0x89 then st = .ready || st = .running || st = .held || st = .draining
  else st = .running || st = .held || st = .draining

/-- A range of memory for a command. -/
def State.rangeBad (s : State) (a align n : Nat) : Bool := a % align != 0 || !s.dataOk a n

/-- Clusters of a MASK. -/
def ccMask (b : Block64) : List Nat := (List.range 96).filter fun c => fld b (256 + c) 1 = 1

/-- A cluster is Dark: every descriptor that names it is malformed (R363). -/
def State.isDark (s : State) (c : Nat) : Bool := (s.clus c).region = .dark

/-- Byte offset of the first body field of a steward command that breaks Table 9.4. -/
def State.stwBad (s : State) (b : Block64) : Option Nat :=
  let opc := fld b 0 8
  if opc = 0x80 then
    let len := fld b 288 32
    firstBad [(fld b 263 1 != 0 || fld b 256 7 > 95 || s.isDark (fld b 256 7), 32), (fld b 265 7 != 0, 33), (fld b 272 16 != 0, 34),
      (len % 4 != 0 || len < 4 || len > 65536, 36), (s.rangeBad (fld b 320 48) 64 len, 40), (fld b 368 16 != 0, 46),
      (fld b 384 128 != 0, 48)]
  else if opc = 0x81 || opc = 0x82 then firstBad [((ccMask b).any s.isDark && opc = 0x81, 32), (fld b 352 160 != 0, 44)]
  else if opc = 0x88 then firstBad [(s.rangeBad (fld b 320 48) 32 32, 40), (fld b 368 16 != 0, 46), (fld b 384 128 != 0, 48)]
  else if opc = 0x89 then
    firstBad [(s.rangeBad (fld b 320 48) 32 32, 40), (fld b 368 16 != 0, 46),
      (fld b 385 127 != 0, 48)]
  else firstBad [(fld b 288 224 != 0, 36)]

def isStw (opc : Nat) : Bool := opc = 0x80 || opc = 0x81 || opc = 0x82 || opc = 0x88 || opc = 0x89 || opc = 0x8A

/-- Codebook slots a steward command names (R36): those of its shard's moments and compute copy. -/
def State.stwSlots (s : State) (b : Block64) : Ranges :=
  let opc := fld b 0 8
  if opc != 0x89 then []
  else
    let y := s.shard (fld b 256 32)
    let e := fld b 288 32
    let out := (rqcbOf (s.peek64 (y.ccrq (e + 1)))).outhdr
    s.tensorSlots out ++ (if fld b 384 1 = 1 then [] else
      [y.m1h e, y.m1h (e + 1), y.m2h e, y.m2h (e + 1)].flatMap s.tensorSlots)

/-- Checks at the hand-over of an entry of class 2 or 3 in the order of R13, given its body's fault and its legality now.
The state is checked when the command executes (R427). -/
def State.entryCheck (s : State) (b : Block64) (known legal : Bool) (body : Option Nat) : Nat × Nat :=
  let h := whdrOf b
  match whdrBad b with
  | some o => (0x10, o)
  | none =>
    if h.rclass > 4 then (0x10, 3)
    else if !known then (0x11, 0)
    else match body with
    | some o => (0x10, o)
    | none => if h.dgen = s.runGen.toNat then (0, 0) else if legal then (0x21, 0) else (0x20, 0)

/-- An entry found stale is counted (R23, R274). DESIGN CHOICE (log 82): the spec names no counter for one that goes to a
collective engine or to the steward command unit. -/
def State.countEntry (s : State) (st : Nat) : State :=
  if st = 0x21 then { s with stw := { s.stw with stale := s.stw.stale + 1 } } else s

/-- An entry of class 2: the descriptor goes to its die's engine, or its ring waits for one of the 64 places. -/
def State.handColl (s : State) (r : Nat) (cons : BitVec 32) (d : Nat) (b : Block64) : Bool × State :=
  let (st, off) := s.entryCheck b (isColl (fld b 0 8)) (s.running || s.dev.st = .held) none
  let h := whdrOf b
  if st != 0 then
    (true, (s.countEntry st).ringRec r fun pass => mkRec h.tag st pass h.dgen 2 0 d cons.toNat off 0)
  else if !s.engFree d then (false, s)
  else
    let s := (s.collAdd d b (some (r, cons)) none s.order (s.namedSlots b))
    let s := { s with order := s.order + 1 }
    (true, if h.wen then s.staleWaits h.wobj else s)

/-- An entry of class 3: the command goes to the steward command unit. -/
def State.handStw (s : State) (r : Nat) (cons : BitVec 32) (b : Block64) : State :=
  let h := whdrOf b
  let (st, off) := s.entryCheck b (isStw h.opc) (stwLegal h.opc s.dev.st) (s.stwBad b)
  let kind := if h.opc = 0x88 || h.opc = 0x89 then 1 else 3
  if st != 0 then
    (s.countEntry st).ringRec r fun pass => mkRec h.tag st pass h.dgen kind 0 0 cons.toNat off 0
  else
    let j : StwJob := ⟨s.stw.nextJob, b, r, cons, s.order, s.stwSlots b, 0, 0, 0, 0, false⟩
    let s := { s with stw := { s.stw with jobs := s.stw.jobs ++ [j], nextJob := s.stw.nextJob + 1 }, order := s.order + 1 }
    if h.wen then s.staleWaits h.wobj else s

/-- A ring can fetch its next entry now (R270, R273). -/
def Ring.ready (x : Ring) : Bool :=
  x.st = .active && x.cons != x.prod && (x.cqProd - x.cqCons).toNat + x.reserved < 2 ^ x.cqlog2

/-- The target that a ring feeds. -/
def Ring.target (x : Ring) : Nat := 2048 * x.tclass + 8 * x.tunit + x.tqueue

/-- Whether it is the turn of a ring among those ready to feed its target (R270): none of them stands between the one served
last and it in the circle of ring numbers. -/
def State.ringTurn (s : State) (r : Nat) : Bool :=
  let g := (s.ring r).target
  let last := SMap.val 65535 s.stw.turn g
  let far := fun (k : Nat) => (k + 65536 - last - 1) % 65536
  s.stw.rings.all fun p => !(p.2.ready && p.2.target = g) || far r ≤ far p.1

/-- RING_FETCH (R270, R273): the ring engine fetches the next entry of a ring whose turn it is, with a record reserved, and
hands it to its target. A full queue or engine makes the ring wait. -/
def execRingFetch (ring : Fin 65536) (errs : Errs) (s : State) : Host.Outcome State Fault Refusal :=
  let r := ring.val
  let x := s.ring r
  if s.rf R.updCtl 0 1 = 0 || s.dev.selfRefresh || !x.ready || !s.ringTurn r then .next s
  else
    let ((st, bs), t) := s.memRead .steward 0 (x.base + 64 * (x.cons.toNat % 2 ^ x.log2n)) 64 errs
    let t := { t with stw := { t.stw with turn := SMap.put x.target r t.stw.turn } }
    let t := (t.setRing r { x with cons := x.cons + 1, reserved := x.reserved + 1 }).ringStore r
    let b := blockOf bs
    if st != 0 then
      .next (t.ringRec r fun pass => mkRec 0 st pass 0 (if x.tclass = 1 then 0 else x.tclass) 0 0 x.cons.toNat 0 0)
    else if x.tclass = 1 then
      let ((q, _), t) := t.issueOne x.tunit (Fin.ofNat 8 x.tqueue) b (some (r, x.cons)) errs
      .next (if q = 1 then s else t)
    else if x.tclass = 2 then
      let (ok, t) := t.handColl r x.cons x.tunit b
      .next (if ok then t else s)
    else if x.tclass = 3 then .next (t.handStw r x.cons b)
    else .next { t with stw := { t.stw with mgmt := t.stw.mgmt ++ [⟨r, x.cons, b⟩] } }

/-! ### Running steward commands -/

/-- A steward command ends (R163): its signal goes out when it succeeded, else its record. -/
def State.stwEnd (s : State) (k status off cnt : Nat) : State :=
  match s.stwJob k with
  | none => s
  | some j =>
    let h := whdrOf j.cmd
    let j := { j with status := BitVec.ofNat 8 status, off := BitVec.ofNat 8 off, cnt := BitVec.ofNat 24 (min cnt 0xFFFFFF) }
    let s := s.onStw k fun _ => j
    if status ≤ 1 && h.sen then
      (s.onStw k fun j => { j with signalled := true }).send h.sobj (BitVec.ofNat 16 h.sgen) h.sinc (.stw k)
    else s.stwDrop j status

/-- A steward command executes once its wait is met (R164), in the states of Table 15.2 (R427). -/
def State.stwDo (s : State) (k opc : Nat) (f : StwJob → State → State) : State :=
  match s.stwJob k with
  | none => s
  | some j =>
    let h := whdrOf j.cmd
    if h.opc != opc || j.signalled || (h.wen && !s.waitMet h.wobj h.wgen h.wthr) || s.heldBack j.ord then s
    else if !stwLegal opc s.dev.st then s.stwEnd k 0x20 0 0
    else s.asOf j.ord (f j)

/-- CC_LOAD (R275): LEN bytes into a control core's memory; the rest of that memory is zeroed. A cluster that went dark since
the hand-over makes it MALFORMED (R363). -/
def execCcLoad (k : Nat) (errs : Errs) (s : State) : Host.Outcome State Fault Refusal :=
  .next (s.stwDo k 0x80 fun j s =>
    let b := j.cmd
    if s.isDark (fld b 256 7) then s.stwEnd k 0x10 32 0
    else
    let ((st, bs), s) := s.memRead .steward (fld b 32 16) (fld b 320 48) (fld b 288 32) errs
    if st != 0 then s.stwEnd k st 0 0
    else
      let m := Mem.write [] 0 bs
      let s := s.onClus (fld b 256 7) fun x => if fld b 264 1 = 0 then { x with imem := m } else { x with dmem := m }
      s.stwEnd k 0 0 0)

/-- A control core starts at address 0 with all registers zero (R153). -/
def Cl.ccStart (x : Cl) : Cl :=
  { x with cc := .running, ccPc := 0, ccX := Vector.replicate 32 0, ccCsr := [], halted := false }

/-- CC_START (R275, R363). -/
def execCcStart (k : Nat) (s : State) : Host.Outcome State Fault Refusal :=
  .next (s.stwDo k 0x81 fun j s =>
    if (ccMask j.cmd).any s.isDark then s.stwEnd k 0x10 32 0
    else ((ccMask j.cmd).foldl (fun s c => s.onClus c Cl.ccStart) s).stwEnd k 0 0 0)

/-- CC_STOP (R275): the cores are held in reset; queued descriptors stay queued. -/
def execCcStop (k : Nat) (s : State) : Host.Outcome State Fault Refusal :=
  .next (s.stwDo k 0x82 fun j s =>
    ((ccMask j.cmd).foldl (fun s c => s.onClus c fun x => { x with cc := .reset }) s).stwEnd k 0 0 0)

end Sys2Proof.Machine
end

