-- ==== Sys2Proof/Machine/Upd.lean ====
section
/-!
DEFINITION. The update engines: checks of a shard (R277), the discrete Gaussian (R257), UPD_PREP (R258, R285), the learning
rate and clip factor (R284, R286), and UPD_APPLY (R287 to R289).
-/

namespace Sys2Proof.Machine

/-! ### The DRBG and the sampler (R257) -/

/-- Working state of the CTR_DRBG. -/
structure Drbg where
  key : List Byte
  v : List Byte
  n : Nat
  deriving DecidableEq, Repr

/-- BCC of SP 800-90A: a chain of block encryptions. -/
def bcc (key : List Byte) : Nat → List Byte → List Byte → List Byte
  | 0, chain, _ => chain
  | n + 1, chain, m => bcc key n (aesEnc key (xorBytes chain (m.take 16))) (m.drop 16)

/-- The derivation function of SP 800-90A for 48 bytes of seed. -/
def drbgDf (input : List Byte) : List Byte :=
  let m := natBe 4 input.length ++ natBe 4 48 ++ input ++ [0x80]
  let m := m ++ List.replicate ((16 - m.length % 16) % 16) 0
  let k0 : List Byte := (List.range 32).map fun i => BitVec.ofNat 8 i
  let part := fun (i : Nat) => bcc k0 (m.length / 16 + 1) (List.replicate 16 0) (natBe 4 i ++ List.replicate 12 0 ++ m)
  let t := part 0 ++ part 1 ++ part 2
  let k := t.take 32
  let x0 := aesEnc k ((t.drop 32).take 16)
  let x1 := aesEnc k x0
  let x2 := aesEnc k x1
  x0 ++ x1 ++ x2

/-- Instantiation and reseeding with 48 bytes of entropy. -/
def drbgSeed (key v entropy : List Byte) : Drbg :=
  let (k, w) := drbgUpdate key v (drbgDf entropy)
  ⟨k, w, 1⟩

/-- One request for a 64-bit word, little-endian. -/
def Drbg.word (g : Drbg) : Nat × Drbg :=
  let (o, v) := drbgBlocks g.key 1 g.v
  let (k, w) := drbgUpdate g.key v (List.replicate 48 0)
  (leNat (o.take 8), ⟨k, w, g.n + 1⟩)

/-- Bound on the repetitions of a rejection loop, which ends before it with probability near 1. -/
def drawMax : Nat := 2 ^ 64

/-- uniform(m). The rule of R257 accepts no word where m exceeds 2^64: the result is then a free value below m. -/
def Drbg.uniform (m : Nat) : Nat → Drbg → Nat × Drbg
  | 0, g => (Config.wideUniform m g.n % m, g)
  | f + 1, g =>
    let (w, g) := g.word
    if m > 2 ^ 64 then (Config.wideUniform m w % m, g)
    else if w < 2 ^ 64 - 2 ^ 64 % m then (w % m, g) else Drbg.uniform m f g

/-- The count of bern_exp for n at most d: k mod 2. -/
def Drbg.bernK (n d : Nat) : Nat → Nat → Drbg → Nat × Drbg
  | 0, k, g => (k % 2, g)
  | f + 1, k, g =>
    let (u, g) := Drbg.uniform (d * k) drawMax g
    if u < n then Drbg.bernK n d f (k + 1) g else (k % 2, g)

/-- bern_exp(n, d); the first argument bounds the loop and exceeds n / d. -/
def Drbg.bernExp (d : Nat) : Nat → Nat → Drbg → Nat × Drbg
  | 0, n, g => Drbg.bernK n d drawMax 1 g
  | f + 1, n, g =>
    if n > d then
      let (b, g) := Drbg.bernK 1 1 drawMax 1 g
      if b = 0 then (0, g) else Drbg.bernExp d f (n - d) g
    else Drbg.bernK n d drawMax 1 g

/-- v of dgauss: repetitions of bern_exp(1, 1). -/
def Drbg.geom : Nat → Nat → Drbg → Nat × Drbg
  | 0, v, g => (v, g)
  | f + 1, v, g =>
    let (b, g) := Drbg.bernK 1 1 drawMax 1 g
    if b = 1 then Drbg.geom f (v + 1) g else (v, g)

/-- dgauss (R257). -/
def Drbg.gauss (s2n s2d t : Nat) : Nat → Drbg → Int × Drbg
  | 0, g => (0, g)
  | f + 1, g =>
    let (u, g) := Drbg.uniform t drawMax g
    let (b, g) := Drbg.bernExp t (u / t + 1) u g
    if b = 0 then Drbg.gauss s2n s2d t f g
    else
      let (v, g) := Drbg.geom drawMax 0 g
      let x := u + t * v
      let (neg, g) := Drbg.uniform 2 drawMax g
      if neg = 1 && x = 0 then Drbg.gauss s2n s2d t f g
      else
        let num := (((x * t * s2d : Nat) : Int) - (s2n : Int)).natAbs ^ 2
        let den := 2 * s2n * t * t * s2d
        let (b, g) := Drbg.bernExp den (num / den + 1) num g
        if b = 1 then ((if neg = 1 then -(x : Int) else x), g) else Drbg.gauss s2n s2d t f g

def Drbg.gausses (s2n s2d : Nat) : Nat → Drbg → List Int × Drbg
  | 0, g => ([], g)
  | n + 1, g =>
    let (x, g) := Drbg.gauss s2n s2d (isqrt (s2n / s2d) + 1) drawMax g
    let (l, g) := Drbg.gausses s2n s2d n g
    (x :: l, g)

/-- Fields of the PCB that the noise uses: s2n and s2d. -/
def noiseVar (b : Block64) : Nat × Nat :=
  let sh := (sx 8 (fld b 16 8) - sx 8 (fld b 24 8)).toNat
  ((fld b 64 16 * fld b 32 32 * 2 ^ sh) ^ 2, fld b 80 16 ^ 2)

/-- Noise of n elements from the device's DRBG, reseeded before the first draw of a step. -/
def State.drawNoise (s : State) (n : Nat) : List Int × State :=
  let p := s.priv
  let g : Drbg := ⟨bytes256 p.drbgKey, natBe 16 p.drbgV.toNat, p.drbgCount⟩
  let (g, free) := if p.seeded then (g, s.free)
    else (drbgSeed g.key g.v (natBe 48 (Config.entropy s.free).toNat), s.free + 1)
  let (s2n, s2d) := noiseVar (p.pcb.getD 0)
  let (l, g) := Drbg.gausses s2n s2d n g
  (l, { s with free, priv := { p with drbgKey := b256 g.key, drbgV := BitVec.ofNat 128 (beNat g.v), drbgCount := g.n,
                                      seeded := true } })

/-! ### Parameters and schedule (R283, R284, R286) -/

/-- A parameter set (Table 9.6). -/
structure Pset where
  rule : Nat
  mrmode : Nat
  b1 : Nat
  b2 : Nat
  wd : Nat
  lrmul : Nat
  epsm : Nat
  epse : Int
  mnseed : BitVec 64
  deriving DecidableEq, Repr

def psetOf (b : Block64) : Pset where
  rule := fld b 0 2
  mrmode := fld b 2 2
  b1 := fld b 32 32
  b2 := fld b 64 32
  wd := fld b 96 32
  lrmul := fld b 128 32
  epsm := fld b 160 32
  epse := sx 8 (fld b 192 8)
  mnseed := BitVec.ofNat 64 (fld b 256 64)

def State.pset (s : State) (i : Nat) : Pset := psetOf (s.peek64 (s.rd R.updPartab + 64 * i))

/-- Bytes of the schedule table. -/
def schedLen : Nat := 16 + 16 * 64

/-- The learning rate of epoch n (R284), from the bytes of the schedule table. -/
def lrnOf (bs : List Byte) (n : Nat) : Int :=
  let nbp := leAt bs 0 1
  let step := fun (i : Nat) => leAt bs (16 + 16 * i) 8
  let lr := fun (i : Nat) => ((leAt bs (24 + 16 * i) 4 : Nat) : Int)
  if n < step 0 then lr 0
  else if n ≥ step (nbp - 1) then lr (nbp - 1)
  else match (List.range nbp).find? fun i => step i ≤ n && n < step (i + 1) with
    | some i => lr i + ((lr (i + 1) - lr i) * ((n - step i : Nat) : Int)).fdiv ((step (i + 1) - step i : Nat) : Int)
    | none => lr 0

/-- The clip factor (R286). -/
def globalCf (gcm : Nat) (gce : Int) (sum : Nat) (egr : Int) : Int :=
  if gcm = 0 || sum = 0 then 2 ^ 30
  else
    let l := flog2 sum
    let j := if l ≥ 60 then (l - 60) / 2 else 0
    let a : Int := ((sum / 2 ^ (2 * j) : Nat) : Int)
    let (r, rxr) := rsqRx a (2 * egr + 2 * (j : Int)) 30
    min (alignRx (r * (gcm : Int)) (rxr + gce) (-30)) (2 ^ 30)

/-- The job-wide sum from the four lanes at SUM (R285). -/
def limbSum (bs : List Byte) : Nat :=
  let t := (List.range 4).foldl (fun (a : Int) k => a + sx 64 (leAt bs (8 * k) 8) * ((2 ^ (32 * k) : Nat) : Int)) 0
  min t.toNat (2 ^ 128 - 1)

/-! ### Checks (R277) -/

/-- Structures of a shard, read with verification: its entry, headers and control blocks. -/
def State.shardReads (s : State) (i : Nat) : Ranges :=
  let y := s.shard i
  let hs := [y.m1h 0, y.m1h 1, y.grad] ++ (if (s.pset y.pset).rule = 1 then [y.m2h 0, y.m2h 1] else [])
  (s.shardDpa i, 96) :: (hs.flatMap s.hdrRanges ++ [y.ccrq 0, y.ccrq 1].flatMap fun q => (s.rqRanges q).1)

/-- The checks of R277 on shard i, with R33, R37 and R63 on what it names: status. The engines use die 0's copy of the codebook
table. DESIGN CHOICE (log 74): the spec gives the steward die no copy. -/
def State.shardCheck (s : State) (i : Nat) : Nat :=
  let y := s.shard i
  let two := (s.pset y.pset).rule = 1
  let ms := [y.m1h 0, y.m1h 1] ++ (if two then [y.m2h 0, y.m2h 1] else [])
  let momBad := ms.any fun a =>
    let h := s.hdrAt a
    h.fmt != 1 || h.ncb != 0 || h.rows != 1 || h.k != y.nelem || h.outl != 0
  let g := s.hdrAt y.grad
  let outs := [y.ccrq 0, y.ccrq 1]
  let ccBad := outs.any fun q =>
    let h := s.hdrAt (rqcbOf (s.peek64 q)).outhdr
    !h.isQ || !y.fits h
  let wsBad := [y.ws 0, y.ws 1].any fun a => a % 64 != 0 || !s.inHost a (4 * y.nelem)
  let bad := !y.resOk || y.nelem % 4096 != 0 || y.nelem = 0 || y.owned = y.mirror || momBad
    || (g.fmt != 3 && g.fmt != 4) || g.rows != 1 || g.k != y.nelem || ccBad || wsBad
    || (!two && (y.m2h 0 != 0 || y.m2h 1 != 0))
    || (s.private_ && (y.noise = 0 || y.noise % 64 != 0 || !s.inHost y.noise (64 + 8 * y.nelem)))
  worst ((if bad then [0x10] else []) ++ [s.hdrCheck 0 y.grad] ++ ms.map (s.hdrCheck 0) ++ outs.map (s.rqCheck 0))

/-- An update command runs: its engine is enabled and no load of a codebook it names is pending (R36). -/
def State.updDo (s : State) (k opc : Nat) (f : StwJob → State → State) : State :=
  s.stwDo k opc fun j s => if s.rf R.updCtl 1 1 = 1 && !s.loadPending j.ord j.cbs then f j s else s

/-- Reads and checks of an update command: its status, and the OFFSET of Table 9.3: of SHARD where the table has no such shard,
else 0xFF for a field in a structure the command names. -/
def State.updCheck (s : State) (e : Nat) (b : Block64) (ord : Nat) (errs : Errs) : (Nat × Nat) × State :=
  let i := fld b 256 32
  if i ≥ s.shardCnt then ((0x10, 32), s)
  else
    let (st, s) := s.fetch (.update (Fin.ofNat 8 e)) (fld b 32 16) (s.shardReads i) errs
    if st != 0 then ((st, 0), s)
    else
      let st := (s.mapOf ord).shardCheck i
      ((st, if st = 0x10 || st = 0x11 then 0xFF else 0), s)

/-! ### UPD_PREP (R258, R285) -/

/-- Elements of an integer tensor of one row, read by an engine. -/
def State.readElems (s : State) (who : Client) (tag : Nat) (h : Hdr) (errs : Errs) : (Nat × List Int) × State :=
  let (st, l, s) := s.readAll who tag (h.flatRuns 0 h.k) errs
  ((st, (l.flatMap fun bs => lanesOf (intBytes h.fmt) bs)), s)

/-- Noise of a private step added to a shard's gradient, drawn first where the owner's buffer holds none of this epoch:
status, saturated elements. -/
def State.addNoise (s : State) (who : Client) (tag : Nat) (i n : Nat) (errs : Errs) : (Nat × Nat) × State :=
  let y := s.shard i
  let a := y.noise
  let ((st, hd), s) := s.memRead who tag a 64 errs
  let held := leAt hd 0 8 = n
  let (s, st) := if st != 0 || held then (s, st)
    else if !y.owned then (s, 0x21)
    else
      let (l, s) := s.drawNoise y.nelem
      let (st, s) := s.writeAll who [(a + 64, laneBytes 8 l), (a, noiseHdr n noiseEmpty)] 4 errs
      (s, st)
  if st != 0 then ((st, 0), s)
  else if held && leAt hd 8 4 = s.runGen.toNat then ((0, 0), s)
  else
    let h := s.hdrAt y.grad
    let ((st, gs), s) := s.readElems who tag h errs
    if st != 0 then ((st, 0), s)
    else
      let ((st, ns), s) := s.memRead who tag (a + 64) (8 * y.nelem) errs
      if st != 0 then ((st, 0), s)
      else
        let w := intBytes h.fmt
        let sum := List.zipWith (fun g v => clampTo (8 * w) (g + v)) gs (lanesOf 8 ns)
        let (st, s) := s.writeAll who (layRuns (h.flatRuns 0 h.k) (laneBytes w (sum.map (·.1)))) 1 errs
        if st != 0 then ((st, 0), s)
        else
          let (st, s) := s.memWrite who (a + 8) (natLe 4 s.runGen.toNat) 4 errs
          ((st, (sum.filter (·.2)).length),
            { s with priv := { s.priv with noised := if y.owned && !s.priv.noised.contains i then i :: s.priv.noised
              else s.priv.noised } })

/-- The limbs of a sum are added to the lanes at ACC. -/
def State.addLimbs (s : State) (who : Client) (tag acc sum : Nat) (errs : Errs) : Nat × State :=
  let ((st, bs), s) := s.memRead who tag acc 32 errs
  if st != 0 then (st, s)
  else
    let new := (List.range 4).flatMap fun k => natLe 8 ((leAt bs (8 * k) 8 + bitsOf sum (32 * k) 32) % 2 ^ 64)
    s.memWrite who acc new 1 errs

def execUpdPrep (k : Nat) (e : Fin 8) (errs : Errs) (s : State) : Host.Outcome State Fault Refusal :=
  .next (s.updDo k 0x88 fun j s =>
    let b := j.cmd
    let i := fld b 256 32
    let tag := fld b 32 16
    let who : Client := .update e
    let s := s.onStw k fun j => { j with eng := e.val }
    let ((st, off), s) := s.updCheck e.val b j.ord errs
    if st != 0 then (s.stwEnd k st off 0)
    else
      let ((st, ns), s) := if s.private_ then s.addNoise who tag i (fld b 288 32) errs else ((0, 0), s)
      if st != 0 then (s.stwEnd k st 0 0)
      else
        let s := if ns = 0 then s else s.raise 0x3102 srcSd 0 i ns
        let y := s.shard i
        let ((st, gs), s) := s.readElems who tag (s.hdrAt y.grad) errs
        if st != 0 then (s.stwEnd k st 0 0)
        else
          let sq := gs.foldl (fun n g => n + g.natAbs ^ 2) 0
          let sat := sq > 2 ^ 128 - 1
          let s := if sat then (s.flag R.updStat 3 R.updNormsatcnt 1).raise 0x3003 srcSd 0 i 0 else s
          let (st, s) := if y.owned then s.addLimbs who tag (fld b 320 48) (min sq (2 ^ 128 - 1)) errs else (0, s)
          (s.stwEnd k (if st != 0 then st else if sat || ns != 0 then 1 else 0) 0 0))

/-! ### UPD_APPLY (R287 to R289) -/

/-- A value: integer and exponent. -/
abbrev Fx := Int × Int
def fxAdd (a b : Fx) : Fx :=
  let e := min a.2 b.2
  (a.1 * ((2 ^ (a.2 - e).toNat : Nat) : Int) + b.1 * ((2 ^ (b.2 - e).toNat : Nat) : Int), e)
def fxMul (a b : Fx) : Fx := (a.1 * b.1, a.2 + b.2)
def fxTo (a : Fx) (e : Int) : Int := rne a.1 (e - a.2)

/-- What an update of a shard works with. -/
structure UpdCtx where
  p : Pset
  lr : Fx
  cf : Int
  ew : Int
  egr : Int
  c1 : RqCtx
  c2 : RqCtx

/-- A block of 32 moments requantised: its writes, and each element's decoded stored value. -/
def storeBlk (c : RqCtx) (i0 : Nat) (xs : List Fx) : RqOut × List Fx :=
  let els := xs.zipIdx.map fun p => (⟨0, i0 + p.2, p.1.1, p.1.2, false⟩ : Elt)
  let lv := usedLevels c.h.fmt (c.levels 0)
  let b := c.block lv 14 els (fun _ => true) false
  (c.plain els, b.codes.map fun k => if b.e = 15 then (0, 0) else (lv.getD k 0, c.h.et + (b.e : Nat)))

/-- The rule on one block of 32 elements: (gradient, weight, first moment, second moment) of each. Writes of the first and
second moments, new weights, and saturated elements. -/
def updBlk (x : UpdCtx) (i0 : Nat) (es : List (Int × Int × Fx × Fx)) : RqOut × RqOut × List Int × Nat :=
  let none_ : RqOut := ⟨[], [], Counts.zero⟩
  let fine := es.map fun _ => false
  let p := x.p
  let b1 : Fx := (p.b1, -30)
  let c1 : Fx := (2 ^ 30 - (p.b1 : Int), -30)
  let b2 : Fx := (p.b2, -30)
  let c2 : Fx := (2 ^ 30 - (p.b2 : Int), -30)
  let g := fun (e : Int × Int × Fx × Fx) => ((e.1 * x.cf, x.egr - 30) : Fx)
  let dk := fun (e : Int × Int × Fx × Fx) => (((p.wd : Int) * e.2.1, x.ew - 30) : Fx)
  let (o1, o2, ds, sat) :=
    if p.rule = 0 then
      let (o, ms) := storeBlk x.c1 i0 (es.map fun e => fxAdd (fxMul b1 e.2.2.1) (g e))
      (o, none_, List.zipWith (fun e m => fxAdd m (dk e)) es ms, fine)
    else if p.rule = 1 then
      let (o1, m1) := storeBlk x.c1 i0 (es.map fun e => fxAdd (fxMul b1 e.2.2.1) (fxMul c1 (g e)))
      let (o2, m2) := storeBlk x.c2 i0 (es.map fun e => fxAdd (fxMul b2 e.2.2.2) (fxMul c2 (fxMul (g e) (g e))))
      let xs := m2.map fun m =>
        let a := fxAdd m ((p.epsm : Int), p.epse)
        let c := clampTo 64 a.1
        ((c.1, a.2), c.2)
      let ds := List.zipWith (fun e (q : Fx × (Fx × Bool)) =>
        fxAdd (fxMul q.1 (rsqRx q.2.1.1 q.2.1.2 30)) (dk e)) es (m1.zip xs)
      (o1, o2, ds, xs.map (·.2))
    else
      let cs := es.map fun e => fxAdd (fxMul b1 e.2.2.1) (fxMul c1 (g e))
      let ds := List.zipWith (fun e (c : Fx) => fxAdd (c.1.sign, 0) (dk e)) es cs
      let (o, _) := storeBlk x.c1 i0 (es.map fun e => fxAdd (fxMul b2 e.2.2.1) (fxMul c2 (g e)))
      (o, none_, ds, fine)
  let ws := List.zipWith (fun (e : Int × Int × Fx × Fx) (d : Fx) =>
    clampTo 32 (fxTo (fxAdd (e.2.1, x.ew) (fxMul (-1, 0) (fxMul x.lr d))) x.ew)) es ds
  (o1, o2, ws.map (·.1), ((List.zipWith (fun (w : Int × Bool) f => w.2 || f) ws sat).filter id).length)

/-- A list cut into pieces of n; the first argument bounds their number. -/
def chunksOf {α : Type} (n : Nat) : Nat → List α → List (List α)
  | 0, _ => []
  | f + 1, l => if l.isEmpty then [] else l.take n :: chunksOf n f (l.drop n)

/-- Decoded moment of element i (R287). -/
def momOf (v : View) (et : Int) (i : Nat) : Fx :=
  if v.zero 0 i then (0, 0) else (v.level 0 i, et + v.bexp 0 i)

/-- The context in which an engine stores a moment tensor (R281). -/
def State.momCtx (s : State) (p : Pset) (hdr epoch : Nat) (evalPhase : Bool) : RqCtx :=
  let h := s.hdrAt hdr
  ⟨⟨p.mrmode, 0, evalPhase, hdr, 0, p.mnseed, epoch % 2 ^ 32, true⟩, h, none, s.levelsOf 0 h, []⟩

/-- What requantised writes gave so far: status, and saturation by identity (R89). -/
abbrev RqTally := Nat × SMap (Nat × Nat)

/-- A requantised write after others of a command, unless one of them failed. -/
def State.rqStep (a : RqTally × State) (who : Client) (c : RqCtx) (r : RqOut) (errs : Errs) : RqTally × State :=
  if a.1.1 != 0 then a
  else
    let (st, s) := a.2.rqWrite who c r 1 errs
    ((st, if st != 0 then a.1.2 else satNote a.1.2 c.h.tid r.cnt), s)

/-- The compute copy of a shard is written through a control block from its weights (R287, R288). -/
def State.writeCopy (s : State) (who : Client) (q : Nat) (y : Shard) (evalPhase : Bool) (ws : List Int)
    (sat : SMap (Nat × Nat)) (errs : Errs) : RqTally × State :=
  let b := rqcbOf (s.peek64 q)
  let c := s.rqCtx 0 b (s.tensAt b.outhdr) evalPhase
  let els := ws.zipIdx.map fun p =>
    (⟨(y.first + p.2) / c.h.k, (y.first + p.2) % c.h.k, p.1, y.ew, false⟩ : Elt)
  let units := if c.o.isNone then chunksOf c.h.k (els.length + 1) els
    else (chunksOf (32 * c.h.k) (els.length + 1) els).flatMap fun l =>
      (List.range c.h.gpr).map fun g => l.filter fun t => t.col / 256 = g
  units.foldl (fun a u => State.rqStep a who c (c.run u) errs) ((0, sat), s)

/-- Bytes that SDIG of a slot covers (R279). -/
def State.sdigBytes (s : State) (y : Shard) (slot : Nat) : List Byte :=
  let mom := fun (a : Nat) =>
    let h := s.hdrAt a
    s.mem.bytes h.codes y.nelem ++ s.mem.bytes h.exps (y.nelem / 64)
  s.mem.bytes (y.ws slot) (4 * y.nelem) ++ mom (y.m1h slot)
    ++ (if (s.pset y.pset).rule = 1 then mom (y.m2h slot) else [])

/-- The new slot of a shard: moments, weights and counts (R287): status and saturation by identity, new weights, saturated
elements. -/
def State.updSlot (s : State) (who : Client) (b : Block64) (y : Shard) (errs : Errs) :
    (RqTally × List Int × Nat) × State :=
  let tag := fld b 32 16
  let n := fld b 288 32
  let ev := phKind (s.phase (fld b 16 8)) = 6
  let h := s.hdrAt y.grad
  let two := (s.pset y.pset).rule = 1
  let tabs := [(s.rd R.updPartab + 64 * y.pset, 64), (s.rd R.updLrtab, schedLen), (fld b 320 48, 32),
    (y.ws (n + 1), 4 * y.nelem)]
  let (st, l, s) := s.readAll who tag (tabs ++ s.tensorRanges (y.m1h (n + 1))
    ++ (if two then s.tensorRanges (y.m2h (n + 1)) else [])) errs
  if st != 0 then (((st, []), [], 0), s)
  else
    let ((st, gs), s) := s.readElems who tag h errs
    if st != 0 then (((st, []), [], 0), s)
    else
      let p := s.pset y.pset
      let sch := l.getD 1 []
      let cf := globalCf (leAt sch 4 4) (sx 8 (leAt sch 2 1)) (limbSum (l.getD 2 [])) h.et
      let x : UpdCtx := ⟨p, (lrnOf sch n * (p.lrmul : Int), sx 8 (leAt sch 1 1) - 30), cf, y.ew, h.et,
        s.momCtx p (y.m1h n) n ev, s.momCtx p (y.m2h n) n ev⟩
      let h1 := s.hdrAt (y.m1h (n + 1))
      let h2 := s.hdrAt (y.m2h (n + 1))
      let v1 := s.memView 0 h1
      let v2 := s.memView 0 h2
      let ws := lanesOf 4 (l.getD 3 [])
      let es := (gs.zip ws).zipIdx.map fun q =>
        (q.1.1, q.1.2, momOf v1 h1.et q.2, if two then momOf v2 h2.et q.2 else (0, 0))
      let blks := chunksOf 32 (es.length + 1) es
      blks.zipIdx.foldl (fun (a : (RqTally × List Int × Nat) × State) q =>
        let (o1, o2, nw, sat) := updBlk x (32 * q.2) q.1
        let r := State.rqStep (a.1.1, a.2) who x.c1 o1 errs
        let (r, s) := if two then State.rqStep r who x.c2 o2 errs else r
        if r.1 != 0 then ((r, a.1.2), s)
        else
          let (st, s) := s.memWrite who (y.ws n + 128 * q.2) (laneBytes 4 nw) 1 errs
          (((st, r.2), a.1.2.1 ++ nw, a.1.2.2 + sat), s)) (((0, []), [], 0), s)

/-- The result of an UPD_APPLY of the epoch under way, for the commit's first step (R293). A CCONLY changes no slot. -/
def State.noteApply (s : State) (b : Block64) (st : Nat) : State :=
  if fld b 384 1 = 1 || fld b 288 32 != s.epoch + 1 then s
  else { s with stw := { s.stw with applies := SMap.put (fld b 256 32) (BitVec.ofNat 8 st) s.stw.applies } }

/-- UPD_APPLY (R286 to R289): the new slot unless CCONLY is 1, the compute copy, and the digests. -/
def execUpdApply (k : Nat) (e : Fin 8) (errs : Errs) (s : State) : Host.Outcome State Fault Refusal :=
  .next (s.updDo k 0x89 fun j s =>
    let b := j.cmd
    let i := fld b 256 32
    let n := fld b 288 32
    let only := fld b 384 1 = 1
    let who : Client := .update e
    let src : Src := { die := 4, kind := 0, index := e.val }
    let s := s.onStw k fun j => { j with eng := e.val }
    let ((st, off), s) := s.updCheck e.val b j.ord errs
    if st != 0 then ((s.noteApply b st).stwEnd k st off 0)
    else
      let y := s.shard i
      let ((r, ws, sat), s) := if only then
          (let ((st, bs), s) := s.memRead who (fld b 32 16) (y.ws n) (4 * y.nelem) errs
           (((st, []), lanesOf 4 bs, 0), s))
        else s.updSlot who b y errs
      let (r, s) := if r.1 != 0 then (r, s)
        else s.writeCopy who (y.ccrq (n + 1)) y (phKind (s.phase (fld b 16 8)) = 6) ws r.2 errs
      let s := s.satEvents src r.2
      if r.1 != 0 then ((s.noteApply b r.1).stwEnd k r.1 0 0)
      else
        let h := s.hdrAt (rqcbOf (s.peek64 (y.ccrq (n + 1)))).outhdr
        let cd := natLe 8 (s.dig (s.runBytes (s.shardRuns h y)))
        let sd := natLe 8 (s.dig (s.sdigBytes y n))
        let at_ := s.shardDpa i
        let (st, s) := s.writeAll who ((if only then [] else [(at_ + 96 + 8 * (n % 2), sd)])
          ++ [(at_ + 112 + 8 * ((n + 1) % 2), cd)]) 1 errs
        let s := if sat = 0 then s else (s.flag R.updStat 4 R.updWsatcnt sat).raise 0x3004 srcSd 0 i sat
        let st := if st != 0 then st else if sat = 0 && !satAny r.2 then 0 else 1
        ((s.noteApply b st).stwEnd k st 0 sat))

end Sys2Proof.Machine
end

