-- ==== Sys2Proof/Machine/Commit.lean ====
section
/-!
DEFINITION. The end of a step: the commit (R291 to R294), statistics (R90, R91), the privacy control block (R249, R250) and
the ledger (R259, R260); and the abort and restart of a step (R160, R346, R347).
-/

namespace Sys2Proof.Machine

/-! ### Statistics records (R87 to R91) -/

/-- Width b of R90 by format. -/
def statBits (fmt : Nat) : Int := if fmt = 0 then 5 else if fmt = 1 then 11 else if fmt = 2 then 15 else if fmt = 3 then 31 else 63

/-- A step maximum as its history holds it (R90): 0x8000 when empty. A maximum outside the values that 16 bits hold beside
that mark is a free value (log 68). -/
def statMax (mx : Option Int) (free : Nat) : Nat :=
  match mx with
  | none => 0x8000
  | some m => if -32768 < m && m < 32768 then trunc 16 m else trunc 16 (Config.unstated free 0)

/-- A statistics record after a step boundary: its bytes, and the ET byte written to its header. `fmt` is the FORMAT field
of that header, `mx` the step maximum as the history takes it. -/
def statNext (bs : List Byte) (a : StatAcc) (mx fmt : Nat) : List Byte × Option (Nat × Byte) :=
  let w := leAt bs 0 8
  let hdr := bitsOf w 0 48
  let tgt : Int := (bitsOf w 48 4 : Nat)
  let hn := leAt bs 48 1 % 16
  let hist := (List.range 16).map fun i => if i = hn then mx else leAt bs (16 + 2 * i) 2
  let top := (hist.filter (· != 0x8000)).foldl (fun (m : Option Int) h => maxOpt m (some (sx 16 h))) none
  let et : Int := match top with
    | none => sx 16 (leAt bs 12 2)
    | some m =>
      if hdr = 0 then sx 16 (leAt bs 12 2)
      else
        let e := m + 2 - statBits fmt + (if fmt ≤ 1 then -tgt else tgt)
        max (-128) (min 127 e)
  let tot := fun (o n : Nat) => natLe 8 ((leAt bs o 8 + n) % 2 ^ 64)
  (natLe 8 w ++ (bs.drop 8).take 4 ++ natLe 2 (trunc 16 et) ++ natLe 2 mx ++ hist.flatMap (natLe 2)
      ++ natLe 1 ((hn + 1) % 16) ++ (bs.drop 49).take 7 ++ natLe 8 a.elems ++ natLe 8 a.sat ++ tot 72 a.elems ++ tot 80 a.sat
      ++ tot 88 a.satBlk ++ tot 96 a.satGrp ++ tot 104 a.escGrp ++ tot 112 a.slots ++ (bs.drop 120).take 8,
    if hdr = 0 then none else some (hdr + 1, BitVec.ofNat 8 (trunc 8 et)))

/-- The calibration check of R91: whether the identity is told of. -/
def statHot (bs : List Byte) (a : StatAcc) : Bool :=
  let r := leAt bs 8 4
  r != 0 && a.sat * 2 ^ 20 > r * a.elems

/-- Statistics of the identities of one block of the table. -/
def State.statBlock (s : State) (b : Nat) (errs : Errs) : State :=
  let base := s.rd R.genStattab + 4096 * b
  let ((st, bs), s) := s.memRead .steward 0 base 4096 errs
  if st != 0 then s
  else
    let (k, s) := s.takeFree
    let old := (List.range 32).map fun i => (32 * b + i, (bs.drop (128 * i)).take 128)
    let new := old.map fun p =>
      let a := SMap.val StatAcc.reset s.stat p.1
      (p.1, statHot p.2 a, a, statNext p.2 a (statMax a.mx (k * 4096 + p.1)) (fld (s.peek64 (leAt p.2 0 6)) 0 3))
    let (_, s) := s.memWrite .steward base (new.flatMap fun p => p.2.2.2.1) 0 errs
    let s := new.foldl (fun s p => match p.2.2.2.2 with
      | some (x, v) => if s.dataOk x 1 then (s.memWrite .steward x [v] 0 errs).2 else s
      | none => s) s
    new.foldl (fun s p => if p.2.1 then s.raise 0x1104 srcSd p.1 p.2.2.1.sat p.2.2.1.elems else s) s

/-- Steps 1 to 4 of R90 for every identity; the step accumulators start afresh. -/
def State.boundaryStats (s : State) (errs : Errs) : State :=
  { (List.range 128).foldl (fun s b => s.statBlock b errs) s with stat := [] }

/-! ### The privacy control block -/

/-- Whether a PCB with EN = 1 is valid (R250): Table 8.5, LBASE in the host memory installed, and a sealed session. -/
def State.pcbValid (s : State) (b : Block64) : Bool :=
  let guard := fld b 8 8
  let lcount := fld b 160 32
  let lbase := fld b 192 64
  fld b 1 7 = 0 && fld b 320 192 = 0 && 1 ≤ guard && guard ≤ 24 && sx 8 (fld b 24 8) ≤ sx 8 (fld b 16 8)
    && 1 ≤ fld b 32 32 && fld b 32 32 < 2 ^ 31 && 1 ≤ fld b 64 16 && 1 ≤ fld b 80 16
    && fld b 96 32 ≤ fld b 128 32 && 1 ≤ fld b 128 32 && 2 ≤ lcount && lcount ≤ 1048576
    && lbase % 512 = 0 && lbase < 2 ^ 48 && s.inHost lbase (512 * lcount)
    && (match s.sec.session with | some x => x.isSealed | none => false)

/-- The start of a step (R249): the PCB is read once. Without a PCB the step is not private; one that cannot be read is not
valid. -/
def State.stepStart (s : State) (errs : Errs) : State :=
  let base := s.rd R.updPcbbase
  let ((st, bs), s) := if base = 0 then ((0, []), s) else s.memRead .steward 0 base 64 errs
  let b := if base = 0 || st != 0 then none else some (blockOf bs)
  let ok := st = 0 && match b with | some b => fld b 0 1 = 0 || s.pcbValid b | none => true
  { s with priv := { s.priv with pcb := b, pcbOk := ok, seeded := false, exchOk := true, noised := [], full := false } }

/-- LPROD and LCONS as the PCB now holds them. -/
def State.lprod (s : State) : Nat := leNat (s.mem.bytes (s.rd R.updPcbbase + 32) 4)
def State.lcons (s : State) : Nat := leNat (s.mem.bytes (s.rd R.updPcbbase + 36) 4)
def State.lcount (s : State) : Nat := fld (s.priv.pcb.getD 0) 160 32

/-- The ledger has no room for the next entry (R260). -/
def State.ledgerFull (s : State) : Bool := (s.lprod + 1) % s.lcount = s.lcons

/-! ### The commit -/

/-- Commit digest of epoch n (R279), from the digests of the shards as the steward reads them. -/
def State.commitDigest (s : State) (n : Nat) (errs : Errs) : (Nat × Nat) × State :=
  let mine := (List.range s.shardCnt).filter fun i => (s.shard i).owned || (s.shard i).mirror
  let (st, l, s) := s.readAll .steward 0 (mine.map fun i => (s.shardDpa i + 96, 32)) errs
  ((st, digest (s.rd R.updDkey) (l.flatMap fun bs => [leAt bs (8 * (n % 2)) 8, leAt bs (16 + 8 * ((n + 1) % 2)) 8])), s)

/-- A commit record (Table 9.8). -/
def commitRec (epoch dig : Nat) : Nat := epoch + Nat.xor (dig / 2 ^ 32) (dig % 2 ^ 32) * 2 ^ 32

/-- Whether the record of the commit area is valid (R291), and its epoch. -/
def State.commitOk (s : State) : Bool × Nat :=
  let a := s.rd R.updCommita
  let w := leNat (s.mem.bytes a 8)
  let e := w % 2 ^ 32
  (w = commitRec e (leNat (s.mem.bytes (a + 8 + 8 * (e % 2)) 8)), e)

/-- The ownership of shards changes at this commit: a shard table is staged in the epoch that follows (R259, R352). -/
def State.ownChanges (s : State) : Bool :=
  (s.cfg.phase = .checked || s.cfg.phase = .armed) &&
    ((SMap.find R.updShtab s.regs.staged).isSome || (SMap.find R.updShcnt s.regs.staged).isSome)

/-- LSTEP of the commit area (Table 9.8). -/
def State.lstep (s : State) : Nat := leNat (s.mem.bytes (s.rd R.updCommita + 24) 8)

/-- The ledger entry of a private commit (R259). EXAMPLES and CLIPPED are free values, CLIPPED among the EXAMPLES (log 1). -/
def State.ledgerEntry (s : State) (n dig : Nat) : List Byte × State :=
  let b := s.priv.pcb.getD 0
  let owned := (List.range s.shardCnt).filter fun i => (s.shard i).owned
  let flags := (if owned.all s.priv.noised.contains then 1 else 0) + (if s.priv.exchOk then 2 else 0)
    + (if s.ownChanges then 4 else 0)
  let (k, s) := s.takeFree
  let (ex, cl) := Config.ledgerCounts k
  let key := match s.sec.session with | some x => x.ledgerKey | none => 0
  let body := natLe 8 n ++ natLe 8 s.time.meridian.toNat ++ natLe 4 (fld b 96 32) ++ natLe 4 (fld b 128 32)
    ++ natLe 4 (fld b 32 32) ++ natLe 1 (fld b 16 8) ++ natLe 1 (fld b 24 8) ++ natLe 1 (fld b 8 8) ++ natLe 1 flags
    ++ natLe 2 (fld b 64 16) ++ natLe 2 (fld b 80 16) ++ natLe 4 s.priv.noised.length ++ natLe 8 ex.toNat
    ++ natLe 8 (min cl.toNat ex.toNat) ++ natLe 8 dig ++ bytes256 s.priv.prevHash ++ natLe 32 0
  let sig := Config.sign key (b256 (sha256 body))
  (body ++ (sig ++ List.replicate 384 0).take 384, s)

/-- The entry is written, LPROD advances and LSTEP is set (R259, R293). -/
def State.writeLedger (s : State) (n : Nat) (entry : List Byte) (errs : Errs) : State :=
  let at_ := fld (s.priv.pcb.getD 0) 192 48 + 512 * s.lprod
  let (_, s) := s.memWrite .steward at_ entry 3 errs
  let (_, s) := s.memWrite .steward (s.rd R.updPcbbase + 32) (natLe 4 ((s.lprod + 1) % s.lcount)) 0 errs
  let (_, s) := s.memWrite .steward (s.rd R.updCommita + 24) (natLe 8 n) 0 errs
  { s with priv := { s.priv with prevHash := b256 (sha256 entry) } }

/-- Steps 5 and 6 of R293 for epoch n. LSTEP says whether a ledger entry is missing (R297). -/
def State.commitTail (s : State) (n : Nat) (entry : List Byte) (errs : Errs) : State :=
  let s := s.boundaryStats errs
  let s := if entry.isEmpty || s.lstep = n then s else s.writeLedger n entry errs
  { s with priv := { s.priv with due := none } }

/-- What a step boundary does outside the commit's own writes: due rows of live channels are repaired (R220, R221), the counts
of the epoch start afresh (R347, R346), a pending HOLD takes effect (R425), and the next step starts (R249). -/
def State.boundary (s : State) (errs : Errs) : State :=
  let s := s.hbm.chan.foldl (fun s p =>
    if s.chanLive p.1 then p.2.due.foldl (fun s row => s.moveRow p.1 row) s else s) s
  let s := s.wf R.updRplcnt 0 8 0
  let s := { s with stw := { s.stw with applies := [], badBlocks := [], fetches := [] }
                    cl := s.cl.map fun (p : Nat × Cl) => (p.1, { p.2 with slipSeen := [] }) }
  let s := if s.dev.holdPending && s.dev.st = .running then
      ({ s with dev := { s.dev with holdPending := false } }).enterHeld else s
  let s := { s with dev := { s.dev with drained := s.dev.drained || s.dev.st = DevState.draining } }
  s.stepStart errs

/-- Steps 5 to 7 of R293, and the boundary. -/
def State.commitEnd (s : State) (k n : Nat) (entry : List Byte) (errs : Errs) : State :=
  ((s.commitTail n entry errs).stwEnd k 0 0 0).boundary errs

/-- The commit of epoch n once nothing holds it (R293, steps 2 to 7). A REPLAY event by the commit point withholds it (R294).
`cut`: an interruption falls between the record store and the steps that follow it (R297). -/
def State.commit (s : State) (k n : Nat) (cut : Bool) (errs : Errs) : State :=
  let a := s.rd R.updCommita
  let ((st, dig), s) := s.commitDigest n errs
  let (st, s) := if st != 0 then (st, s) else s.memWrite .steward (a + 8 + 8 * (n % 2)) (natLe 8 dig) 0 errs
  if !s.dev.replayDue.isEmpty then s.stwEnd k 0x60 0 0
  else if st != 0 then s.stwEnd k st 0 0
  else
    let (st, s) := s.memWrite .steward a (natLe 8 (commitRec n dig)) 0 errs
    if st != 0 then s.stwEnd k st 0 0
    else
      let s := s.wr R.updEpoch (n + 2 ^ 32)
      let (entry, s) := if s.private_ then s.ledgerEntry n dig else ([], s)
      if cut then { s with priv := { s.priv with due := some (n, entry) } } else s.commitEnd k n entry errs

/-- The device enters HELD with a replay due on resume, as the step's PCB is not valid (R250); a device that is HELD already
stays so. -/
def State.pcbHold (s : State) : State :=
  if s.dev.heldReplay then s
  else
    let s := { s with dev := { s.dev with heldReplay := true, drainBack := s.dev.drainBack || s.dev.st = DevState.draining } }
    (if s.dev.st = .held then s else s.enterHeld).raise 0x3101 srcSd 0 s.epoch 0

/-- UPD_COMMIT (R293, R294). A commit that was cut goes on with its last steps. -/
def execUpdCommit (k : Nat) (cut : Bool) (errs : Errs) (s : State) : Host.Outcome State Fault Refusal :=
  .next (s.stwDo k 0x8A fun j s =>
    let n := fld j.cmd 256 32
    if s.rf R.updCtl 1 1 = 0 then s
    else match s.priv.due with
    | some (m, entry) => if m = n then s.commitEnd k n entry errs else s
    | none =>
      if s.epoch + 1 > 0xFFFFFFFF then s.stwEnd k 0x10 32 0
      else if n != s.epoch + 1 then (s.countEntry 0x21).stwEnd k 0x21 0 0
      else if !s.dev.replayDue.isEmpty then s.stwEnd k 0x60 0 0
      else if s.private_ && !s.priv.pcbOk then s.pcbHold
      else if s.private_ && s.ledgerFull then
        (if s.priv.full then s
         else ({ s with priv := { s.priv with full := true } }).raise 0x3103 srcSd 0 s.lprod s.lcons)
      else match s.stw.applies.find? fun p =>
          p.2.toNat > 1 && p.1 < s.shardCnt && ((s.shard p.1).owned || (s.shard p.1).mirror) with
        | some p => s.stwEnd k p.2.toNat 0 0
        | none => s.commit k n cut errs)

/-- The device takes the epoch of the commit record that memory holds, where it is valid: at the start of a job and when a held
device resumes, since the runtime may have written it (R290, R354). DESIGN CHOICE (log 84): the spec does not say when. -/
def State.takeEpoch (s : State) : State :=
  let (ok, e) := s.commitOk
  if s.rd R.updCommita != 0 && ok then s.wr R.updEpoch (e + 2 ^ 32) else s

/-! ### Abort and restart of a step (R160, R346, R347) -/

/-- Summaries of the aborted run are discarded and counted (R145). -/
def State.dropSummaries (s : State) : State :=
  s.cl.foldl (fun s p =>
    p.2.ve.foldl (fun s q =>
      let n := q.2.sumq.length
      (s.onVe p.1 q.1 fun v => { v with sumq := [] }).flag (R.vecStat p.1 q.1) 2 (R.vecDropcnt p.1 q.1) n) s) s

/-- Everything queued or in flight completes with ABORTED_BY_REPLAY (R160, R274). What a descriptor saturated is told
(R89, R147), and its slip counts (R172). -/
def State.abortWork (s : State) : State :=
  let s := s.cl.foldl (fun s p =>
    (sortBy (fun a b => a.n ≤ b.n) p.2.allJobs).foldl (fun s j => ((s.opEvents p.1 j.n).slip p.1 j).endJob p.1 j 0x60 0) s) s
  let s := s.lnk.eng.foldl (fun s p => p.2.jobs.foldl (fun s j => (s.collDrop p.1 j 0x60).collRecord p.1 j 0x60) s) s
  s.stw.jobs.foldl (fun s j => s.stwDrop j 0x60) s

/-- The control cores are held in reset, and every phase tag may tell its first slip again (R172). -/
def Cl.pause (x : Cl) : Cl :=
  { x with cc := (match x.cc with | .running => .paused | .stalled _ _ => .paused | c => c), slipSeen := [] }

/-- A held continuation enters HELD once the generations of all objects have advanced (R346). -/
def State.holdNow (s : State) : State :=
  match s.dev.holdDue with
  | none => s
  | some r =>
    if !s.resetsDone then s
    else
      let s := ({ s with dev := { s.dev with holdDue := none, drainBack := s.dev.st = DevState.draining } }).enterHeld
      s.raise 0x3006 srcSd r.code.toNat r.d0.toNat r.d1.toNat

/-- REPLAY_ABORT (R160): one abort for every REPLAY event that is due (R16), or none beyond UPD_TWINCFG.RPLMAX. One that fell
after a commit point waits for the commit's last steps (R294). -/
def execReplayAbort (s : State) : Host.Outcome State Fault Refusal :=
  if !s.running || s.dev.replayDue.isEmpty || s.priv.due.isSome then .next s
  else
    let n := s.rf R.updRplcnt 0 8
    if n + 1 > s.rf R.updTwincfg 0 4 then .next (s.raise 0x3007 srcSd 0 s.epoch (s.rd R.updRplcnt))
    else
      let due := s.dev.replayDue
      let s := (s.wf R.updRplcnt 0 8 (min (n + 1) 255)).wf R.updRplcnt 8 24 (min (s.rf R.updRplcnt 8 24 + 1) 0xFFFFFF)
      let s := s.dropSummaries.abortWork
      let s := { s with runGen := s.runGen + 1, stat := [], cbLoads := [],
                        cl := s.cl.map (fun (p : Nat × Cl) => (p.1, p.2.pause)),
                        stw := { s.stw with applies := [] } }
      let s := s.resetEvery
      .next ({ s with dev := { s.dev with replayDue := [], restartDue := true, holdDue := due.find? (·.hold) } }).holdNow

/-- REPLAY_RESTART (R160, R184, R346): once every object has been reset, a held continuation enters HELD; else the shadow tables
take the live ones, the control cores start again and the step begins from EPOCH. -/
def execReplayRestart (s : State) : Host.Outcome State Fault Refusal :=
  if !s.dev.restartDue || !s.running || !s.resetsDone then .next s
  else if s.dev.holdDue.isSome then .next s.holdNow
  else
    let again := fun (x : Cl) =>
      let x := { x with tileShadow := x.tileLive, bufShadow := x.bufLive }
      if x.cc = .paused then x.ccStart else x
    let s := { s with cl := s.cl.map fun (p : Nat × Cl) => (p.1, again p.2) }
    .next (({ s with dev := { s.dev with restartDue := false } }).stepStart [])

end Sys2Proof.Machine
end

