-- ==== Sys2Proof/Machine/Session.lean ====
section
/-!
DEFINITION. Management commands and sessions (R427 to R431, R438 to R445): the checks every command shares, the session
and maintenance authorities, and the effect of each command of Table 15.4 but START.
-/

namespace Sys2Proof.Machine

/-- The bytes of an ASCII label. -/
def ascii (x : String) : List Byte := x.toList.map fun c => BitVec.ofNat 8 c.toNat

/-- A management command taken for execution: its channel (0 I3C, 1 ring), its ring and CONS value, the command and its
argument block. -/
structure MCall where
  chan : Fin 2
  ring : Option (Nat × BitVec 32)
  cmd : Block64
  args : List Byte
  deriving DecidableEq, Repr

def MCall.opc (m : MCall) : Nat := fld m.cmd 0 8
def MCall.sid (m : MCall) : Nat := fld m.cmd 64 16
def MCall.seq (m : MCall) : Nat := fld m.cmd 96 32
def MCall.arg (m : MCall) : Nat := fld m.cmd 128 48
def MCall.resp (m : MCall) : Nat := fld m.cmd 192 48
def MCall.alen (m : MCall) : Nat := fld m.cmd 256 32
/-- P0 (bytes 36 to 47). -/
def MCall.p0 (m : MCall) : Nat := fld m.cmd 288 96
def MCall.mac (m : MCall) : List Byte := natLe 16 (fld m.cmd 384 128)
/-- Command bytes 0 to 47. -/
def MCall.head (m : MCall) : List Byte := natLe 48 (fld m.cmd 0 384)
/-- Arguments of a maintenance command after its nonce and proof (R431). -/
def MCall.rest (m : MCall) : List Byte := m.args.drop 64

def isMgmt (opc : Nat) : Bool := 0x90 ≤ opc && opc ≤ 0x9F

/-- Who may give a command (Table 15.4). -/
inductive Auth where
  | none | either | session | maint | proof | start
  deriving DecidableEq, Repr

def authOf (opc : Nat) : Auth :=
  if opc = 0x90 || opc = 0x92 || opc = 0x93 then .either
  else if opc = 0x91 then .none
  else if opc = 0x94 then .proof
  else if opc ≤ 0x99 then .session
  else if opc = 0x9A then .start
  else .maint

/-- States in which a management command is legal (Table 15.2). -/
def mgmtLegal (opc : Nat) (i3c : Bool) (st : DevState) : Bool :=
  let dark := st = .off || st = .dawn
  if opc = 0x90 then !dark || i3c
  else if opc ≤ 0x93 then !dark
  else if opc = 0x94 then st = .standby
  else if opc = 0x95 then st = .ready || st = .held || st = .detached || st = .fault
  else if opc = 0x96 || opc = 0x99 then st = .ready || st = .held
  else if opc = 0x97 then st = .running
  else if opc = 0x98 then st = .running || st = .held
  else if opc = 0x9A then st = .standby || st = .ready || st = .held || st = .detached || st = .fault
  else if opc = 0x9E then st = .standby || st = .fault
  else st = .standby

/-- A command carries session authority. -/
def State.sessioned (s : State) (m : MCall) : Bool :=
  match authOf m.opc with
  | .session => true
  | .either => m.sid != 0
  | .start => s.sec.session.isSome
  | _ => false

/-- Bytes of the arguments that a command needs (Table 15.4). -/
def argsOk (m : MCall) : Bool :=
  let n := m.alen
  let maint := authOf m.opc = .maint
  if m.opc = 0x92 || m.opc = 0x99 then n = 32
  else if m.opc = 0x94 then 140 ≤ n
  else if m.opc = 0x9C then n = 104
  else if m.opc = 0x9D then n = 120
  else if m.opc = 0x9E then 64 ≤ n && n ≤ 4064
  else if maint then 64 ≤ n else true

/-- OPEN_SESSION arguments that break Table 15.8. -/
def State.openBad (s : State) (a : List Byte) : Bool :=
  let mode := leAt a 64 1
  let slot := leAt a 65 1
  let k := leAt a 68 4
  let rpe := leAt a 72 4
  let n := leAt a 76 4
  let job := leAt a 80 8
  let jlen := leAt a 88 4
  mode ≥ 4 || slot > 7 || leAt a 66 2 != 0 || leAt a 92 4 != 0 || leAt a 136 4 != 0 || n > 64
    || a.length < 140 + 32 * n || job ≥ 2 ^ 48 || jlen < 1 || jlen > 1048576 || !s.inHost job jlen
    || (if mode % 2 = 1 then slot = 0 || k < 2 || k > 1048576 || rpe % 32 != 0 || rpe < 32 || rpe > 65536
        else k != 0 || rpe != 0 || n != 0)

/-- Byte offset of the first field of a command at fault, MALFORMED under R13; `rlen` bytes are answered. The contents of
the argument block are checked apart. -/
def State.mgmtBad (s : State) (m : MCall) (rlen : Nat) : Option Nat :=
  let b := m.cmd
  let ring := m.chan = 1
  let known := isMgmt m.opc
  let bare := known && !s.sessioned m
  firstBad [(fld b 8 2 != 0 || fld b 11 5 != 0, 1), (fld b 16 16 != 0, 2), (fld b 48 16 != 0, 6),
    (bare && m.sid != 0, 8), (fld b 80 16 != 0, 10), (bare && m.seq != 0, 12),
    (fld b 128 64 != m.arg || (if ring then m.alen != 0 && !s.inHost m.arg m.alen else m.arg != 0), 16),
    (fld b 192 64 != m.resp || (if ring then rlen != 0 && !s.inHost m.resp rlen else m.resp != 0), 24),
    (m.alen > 4096 || (!ring && m.args.length != m.alen) || (known && !argsOk m), 32),
    (m.opc = 0x93 && m.p0 % 256 > 2, 36), (m.opc = 0x9C && (m.p0 % 256 = 0 || m.p0 % 256 > 8), 36),
    (bare && fld b 384 128 != 0, 48), (m.opc = 0x94 && s.openBad m.args, 255)]

/-! ### Authority -/

/-- A command failed authentication: SEC_STAT.AUTH (Table 15.13). -/
def State.authFail (s : State) : State := s.flag R.secStat 0 R.secAuthcnt 1

def Session.macKey (x : Session) : List Byte := bytes256 x.km

/-- Session authority (R442): SID, channel, SEQ and MAC. SEQ and the idle time advance on a pass. -/
def State.authSession (s : State) (m : MCall) : Bool × State :=
  match s.sec.session with
  | none => (false, s.authFail)
  | some x =>
    if m.sid = x.sid.toNat && m.chan = x.chan && m.seq = (x.seq + 1).toNat
        && (hmac x.macKey (m.head ++ m.args)).take 16 = m.mac then
      (true, { s with sec := { s.sec with session := some { x with seq := x.seq + 1 }, lastCmd := s.ticks } })
    else (false, s.authFail)

/-- Length in s of the refusal that the n-th consecutive failure starts (R444). -/
def refusalSec (n : Nat) : Nat := min (60 * 2 ^ (n - 5)) 3600

/-- A channel refuses proofs (R444). -/
def State.refusing (s : State) (ch : Fin 2) : Bool :=
  match s.sec.refuse[ch] with
  | some t => s.ticks < t
  | none => false

/-- A proof on a channel (R439, R444): refused unchecked during a refusal; else it uses up the nonce. With a nonce not older
than 10 s and the right HMAC it passes and answers N_d. -/
def State.checkProof (s : State) (ch : Fin 2) (key : Option (BitVec 256)) (label nc proof tail : List Byte) :
    Option (List Byte) × State :=
  if s.refusing ch then (none, s.authFail)
  else
    let nonce := s.sec.nonce[ch]
    let s := { s with sec := { s.sec with nonce := s.sec.nonce.set ch none } }
    let nd := match nonce, key with
      | some (n, t), some k =>
        if s.ticks - t ≤ 10 * tSec && hmac (bytes256 k) (label ++ bytes256 n ++ nc ++ natLe 16 s.fuse.serial.toNat ++ tail)
            = proof then some (bytes256 n) else none
      | _, _ => none
    match nd with
    | some n =>
      (some n, { s with sec := { s.sec with fails := s.sec.fails.set ch 0, refuse := s.sec.refuse.set ch none } })
    | none =>
      let f := s.sec.fails[ch] + 1
      let s := { s with sec := { s.sec with fails := s.sec.fails.set ch f } }
      if f < 5 then (none, s.authFail)
      else
        let w := refusalSec f
        let s := { s with sec := { s.sec with refuse := s.sec.refuse.set ch (some (s.ticks + w * tSec)) } }
        let s := s.flag R.secStat 1 R.secLockcnt 1
        (none, (if f = 5 then s.raise 0x6005 srcSd ch.val w 0 else s).authFail)

/-- Maintenance authority (R438, R439). With no password set a command is accepted without proof on I3C only. -/
def State.authMaint (s : State) (m : MCall) : Option (List Byte) × State :=
  match s.sec.kpw with
  | none => if m.chan = 0 then (some (natLe 32 0), s) else (none, s.authFail)
  | some k =>
    s.checkProof m.chan (some k) (ascii "ETNX-MAINT") (m.args.take 32) ((m.args.drop 32).take 32) (m.head ++ m.rest)

/-- The key of a session slot: 0 is K_pw (Table 15.8). -/
def State.slotKey (s : State) (slot : Nat) : Option (BitVec 256) :=
  if slot = 0 then s.sec.kpw else SMap.find slot s.sec.keys

/-- The AUTH_FAIL check of R13 for a command; a proof answers its N_d. -/
def State.authorise (s : State) (m : MCall) : Option (List Byte) × State :=
  if s.sessioned m then
    let (ok, s) := s.authSession m
    (if ok then some [] else none, s)
  else match authOf m.opc with
    | .maint | .start => s.authMaint m
    | .proof => s.checkProof m.chan (s.slotKey (leAt m.args 65 1)) (ascii "ETNX-OPEN") (m.args.take 32)
        ((m.args.drop 32).take 32) (m.args.drop 64)
    | _ => (some [], s)

/-! ### The run of a command -/

/-- The completion of a command (R429): on a ring the response at RESP and the record of kind 4, or the release of its
record; on I3C the record and response of the next private read. -/
def State.mgmtDone (s : State) (m : MCall) (st off : Nat) (resp : List Byte) : State :=
  let tag := fld m.cmd 32 16
  let data := if st ≤ 1 then resp else []
  match m.ring with
  | none => { s with sec := { s.sec with resp := some ⟨mkRec tag st 0 0 4 0 0 0 off 0, data⟩ } }
  | some (r, cons) =>
    let s := if data.isEmpty then s else (s.memWrite .steward m.resp data 0 []).2
    if fld m.cmd 10 1 = 1 || st != 0 then s.ringRec r fun pass => mkRec tag st pass 0 4 0 0 cons.toNat off 0
    else s.ringRelease r

/-- The command of a row: an I3C write that holds it, or the command in front of the management queue. A code outside
Table 15.4 is taken by any row, and completes with UNSUPPORTED. -/
def State.mgmtTake (s : State) (opc : Nat) (m : Mgmt) : Option (MCall × State) :=
  match m with
  | .i3c cmd args => if fld cmd 0 8 = opc || !isMgmt (fld cmd 0 8) then some (⟨0, none, cmd, args⟩, s) else none
  | .ring => match s.stw.mgmt with
    | [] => none
    | j :: t =>
      if s.dev.selfRefresh then none
      else if fld j.cmd 0 8 = opc || !isMgmt (fld j.cmd 0 8) then
        some (⟨1, some (j.ring, j.cons), j.cmd, []⟩, { s with stw := { s.stw with mgmt := t } })
      else none

/-- A management command (R13, R427 to R431): it is checked in the order of R13, its arguments are read, it runs, and
completes. `f` takes N_d of the proof and answers status and response; `after` acts once a command has completed OK. -/
def State.mgmtRun (s : State) (m : Mgmt) (opc rlen : Nat)
    (f : MCall → List Byte → State → (Nat × List Byte) × State) (after : MCall → State → State := fun _ s => s) : State :=
  match s.mgmtTake opc m with
  | none => s
  | some (c, s) =>
    match s.mgmtBad c rlen with
    | some o => s.mgmtDone c 0x10 o []
    | none =>
      if !isMgmt c.opc then s.mgmtDone c 0x11 0 []
      else
        let ((st, args), s) :=
          if c.chan = 1 && c.alen != 0 then s.memRead .steward (fld c.cmd 32 16) c.arg c.alen [] else ((0, c.args), s)
        let c := { c with args }
        if st != 0 then s.mgmtDone c st 0 []
        else if opc = 0x94 && s.openBad c.args then s.mgmtDone c 0x10 255 []
        else match s.authorise c with
        | (none, s) => s.mgmtDone c 0x50 0 []
        | (some nd, s) =>
          if !mgmtLegal opc (c.chan = 0) s.dev.st then s.mgmtDone c 0x20 0 []
          else
            let ((st, resp), s) := f c nd s
            let s := s.mgmtDone c st 0 resp
            if st ≤ 1 then after c s else s

/-! ### Unsessioned commands -/

/-- SEC_SESS as it stands (Table 15.14). -/
def State.sessImage (s : State) : Nat :=
  let x := match s.sec.session with
    | some x => 1 + (if x.isSealed then 2 else 0) + 4 * x.chan.val + 8 * x.slot + x.kmin * 2 ^ 32
    | none => 0
  x + s.sec.lastSlot * 2 ^ 7 + (if s.sec.sealMem then 2 ^ 11 else 0) + s.sec.lastSid.toNat * 2 ^ 16

/-- Response of GET_STATUS (Table 15.16). -/
def State.statusResp (s : State) : List Byte :=
  let dark := s.dev.st = .off || s.dev.st = .dawn
  let ev := !dark && s.rf R.updEpoch 32 1 = 1
  natLe 4 s.dev.st.code ++ natLe 2 (s.rf R.genLaststop 0 16)
    ++ natLe 1 (s.rf R.genLaststop 31 1 + if ev then 2 else 0) ++ natLe 1 0
    ++ natLe 4 (if ev then s.epoch else 0) ++ natLe 4 (s.rd R.secBoot) ++ natLe 8 (if dark then 0 else s.sessImage)
    ++ natLe 8 0

/-- GET_STATUS. -/
def execGetStatus (m : Mgmt) (s : State) : Host.Outcome State Fault Refusal :=
  .next (s.mgmtRun m 0x90 32 fun _ _ s => ((0, s.statusResp), s))

/-- GET_NONCE: a fresh nonce replaces the channel's. -/
def execGetNonce (m : Mgmt) (s : State) : Host.Outcome State Fault Refusal :=
  .next (s.mgmtRun m 0x91 64 fun c _ s =>
    let (k, s) := s.takeFree
    let n := Config.nonce k
    ((0, bytes256 n ++ natLe 16 s.fuse.serial.toNat ++ natLe 16 s.sec.salt.toNat),
      { s with sec := { s.sec with nonce := s.sec.nonce.set c.chan (some (n, s.ticks)) } }))

/-- A byte string cut or filled with zeros to a length. -/
def fit (n : Nat) (bs : List Byte) : List Byte := (bs ++ List.replicate n 0).take n

/-- Bytes 0 to 511 of the quote (Table 15.9). -/
def State.quoteBody (s : State) (nonce : List Byte) : List Byte :=
  let (isOpen, isSealed, sp, led) := match s.sec.session with
    | some x => (true, x.isSealed, x.sparam, if x.isSealed then Config.pubDigest x.ledgerKey else 0)
    | none => (false, false, 0, 0)
  let flags := (if isOpen then 1 else 0) + (if isSealed then 2 else 0) + (if s.fuse.debugOpen then 4 else 0)
    + 8 * s.rf R.secBoot 2 1
  let ev := s.rf R.updEpoch 32 1 = 1
  ascii "EXQ1" ++ natLe 2 1 ++ natLe 2 flags ++ natLe 4 s.dev.st.code ++ natLe 4 s.sec.svn.toNat
    ++ natLe 16 s.fuse.serial.toNat ++ fit 32 nonce ++ natLe 8 s.time.meridian.toNat
    ++ natLe 8 (if ev then s.epoch else 0) ++ natLe 16 0 ++ s.sec.meas.toList.flatMap bytes256 ++ bytes256 sp
    ++ bytes256 led ++ natLe 96 0

/-- GET_QUOTE: the quote, signed with the attestation key. -/
def execGetQuote (m : Mgmt) (s : State) : Host.Outcome State Fault Refusal :=
  .next (s.mgmtRun m 0x92 896 fun c _ s =>
    let q := s.quoteBody c.args
    ((0, q ++ fit 384 (Config.sign s.sec.attKey (b256 (sha256 q)))), s))

/-- GET_CERTS: the identity, attestation or ledger certificate. -/
def execGetCerts (m : Mgmt) (s : State) : Host.Outcome State Fault Refusal :=
  .next (s.mgmtRun m 0x93 4096 fun c _ s =>
    let k := match c.p0 % 256, s.sec.session with
      | 1, _ => s.sec.attKey
      | 2, some x => x.ledgerKey
      | _, _ => 0
    ((0, (Config.cert (c.p0 % 256) k).take 4096), s))

/-! ### Clearing memory and loading a job (R440, R443, R225) -/

/-- Every byte of HBM as zero (Table 7.5, step 5): lines and open combining entries go with it. -/
def State.clearHbm (s : State) : State :=
  { s with mem := s.mem.wipe 0 hostBase, shc := { s.shc with comb := [], lines := [], verified := [] },
           hbm := { s.hbm with spoiled := false } }

/-- Host memory as zero. -/
def State.clearHost (s : State) : State := { s with mem := s.mem.wipe hostBase (bellBase - hostBase) }

/-- Tile stores and cluster buffers as zero. -/
def State.clearStores (s : State) : State :=
  { s with cl := s.cl.map fun (p : Nat × Cl) =>
      let t := p.2.tile.map fun (q : Nat × TileSt) => (q.1, { q.2 with store := [] })
      (p.1, { p.2 with tile := t, buf := [] }) }

/-- Device memory has been cleared: no session's data is left and release classes are no longer enforced (R443, R446). -/
def State.forget (s : State) : State :=
  { s with cls := [], sec := { s.sec with lastSlot := 0, kept := false, sealMem := false } }

/-- What an OPEN_SESSION that does not resume clears (R443). -/
def State.clearMemory (s : State) : State :=
  { s.clearHbm.clearHost.clearStores.forget with cb := [], cbLoads := [] }

/-- Registers that return to zero at job load (R117, R148, R176, R203, R230, R424), by block and offset. -/
def jobCleared (h : Hit) : Bool :=
  match h.blk with
  | .til => h.reg.off = 0x38 || h.reg.off = 0x40 || h.reg.off = 0x48
  | .vec => h.reg.off = 0x18
  | .seq => h.reg.off = 0x4 || h.reg.off = 0x8 || h.reg.off = 0xc || h.reg.off = 0x20
  | .syn => h.reg.off = 0x4 || h.reg.off = 0x8 || h.reg.off = 0xc
  | .stm => h.reg.off = 0x4 || h.reg.off = 0x8 || h.reg.off = 0xc || h.reg.off = 0x10
  | .stmd => h.reg.off = 0x30
  | .shc => h.reg.off != 0x0 && h.reg.off != 0x4
  | .clk => h.reg.off = 0x40
  | _ => false

/-- Bindings and program stores of a cluster emptied (R440, step 5); its decoders hold no tables (R98). -/
def Cl.jobClear (x : Cl) : Cl :=
  let v := x.ve.map fun (q : Nat × VeSt) => (q.1, { q.2 with prog := [], progDpa := none })
  let t := x.tile.map fun (q : Nat × TileSt) => (q.1, { q.2 with tables := none })
  { x with tile := t, tileLive := [], tileShadow := [], bufLive := [], bufShadow := [], ve := v }

/-- Step 5 of OPEN_SESSION: no step of the new job has begun. -/
def State.jobLoad (s : State) : State :=
  let keep := fun (p : Nat × Word) => !((hitAt p.1).map jobCleared).getD false
  let s := { s with regs := { s.regs with file := s.regs.file.filter keep }, runGen := 0, learn := [],
                    cl := s.cl.map (fun (p : Nat × Cl) => (p.1, p.2.jobClear)),
                    priv := { s.priv with pcb := none, pcbOk := true, noised := [], full := false, due := none } }
  s.wf R.updRplcnt 8 24 0

/-- A measurement register extended by a component (R434). -/
def State.extend (s : State) (i : Fin 8) (comp : List Byte) : State :=
  { s with sec := { s.sec with meas := s.sec.meas.set i (b256 (sha256 (bytes256 s.sec.meas[i] ++ sha256 comp))) } }

/-! ### OPEN_SESSION and the end of a session -/

/-- The SID of the next session: never 0 (R440). -/
def State.nextSid (s : State) : BitVec 16 := if s.sec.lastSid = 0xFFFF then 1 else s.sec.lastSid + 1

/-- RESUME is honoured (R443). -/
def State.resumes (s : State) (slot : Nat) (isSealed : Bool) : Bool :=
  s.sec.kept && slot = s.sec.lastSlot && (isSealed || !s.sec.sealMem)

/-- Step 6 of a sealed OPEN_SESSION: the DRBG is instantiated and the ledger key made. -/
def State.sealStep (s : State) (keep : Bool) : BitVec 256 × State :=
  let (k, s) := s.takeFree
  let g := drbgSeed (List.replicate 32 0) (List.replicate 16 0) (natBe 48 (Config.entropy k).toNat)
  let s := { s with priv := { s.priv with drbgKey := b256 g.key, drbgV := BitVec.ofNat 128 (beNat g.v), drbgCount := g.n,
                                          drbgOn := true, seeded := false, prevHash := 0 },
                    cls := if keep then s.cls else [],
                    sec := { s.sec with sealMem := true } }
  (Config.madeKey k, s)

/-- Steps 2 to 7 of OPEN_SESSION (R440); the manifest is read before memory is cleared (log 25). -/
def State.openSession (c : MCall) (nd : List Byte) (s : State) : (Nat × List Byte) × State :=
  let a := c.args
  let slot := leAt a 65 1
  let isSealed := leAt a 64 1 % 2 = 1
  let key := bytes256 ((s.slotKey slot).getD 0)
  let sid := s.nextSid
  let ctx := nd ++ a.take 32 ++ natLe 2 sid.toNat
  let kw := kdf key (ascii "ETNX-SWRP") ctx
  match keyUnwrap kw ((a.drop 96).take 40) with
  | none => ((0x50, []), s.authFail)
  | some lk =>
    let ((st, man), s) := s.memRead .steward 0 (leAt a 80 8) (leAt a 88 4) []
    if st != 0 then ((st, []), s)
    else
      let resume := leAt a 64 1 / 2 % 2 = 1 && s.resumes slot isSealed
      let keep := resume && s.sec.sealMem
      let s := if !resume then s.clearMemory else if s.hbm.spoiled then s.clearHbm else s
      let s := (s.extend 6 man).jobLoad
      let (led, s) := if isSealed then s.sealStep keep else (0, s)
      let mans := (List.range (leAt a 76 4)).map fun i => b256 ((a.drop (140 + 32 * i)).take 32)
      let x : Session := ⟨sid, c.chan, slot, isSealed, 0, b256 (kdf key (ascii "ETNX-SMAC") ctx), b256 kw, b256 lk, led,
        leAt a 68 4, leAt a 72 4, mans, b256 (sha256 ((a.drop 64).take 32 ++ a.drop 140))⟩
      let s := { s with sec := { s.sec with session := some x, lastSid := sid, lastSlot := slot, kept := true,
                                            lastCmd := s.ticks },
                        dev := { s.dev with st := .ready, job := true, holdPending := false, replayDue := [],
                                            restartDue := false, holdDue := none, heldReplay := false,
                                            drainBack := false, drained := false } }
      let proof := hmac key (ascii "ETNX-ACPT" ++ nd ++ a.take 32 ++ natLe 2 sid.toNat)
      ((0, natLe 2 sid.toNat ++ natLe 1 ((if resume then 1 else 0) + if isSealed then 2 else 0) ++ natLe 13 0 ++ proof), s)

/-- OPEN_SESSION. -/
def execOpenSession (m : Mgmt) (s : State) : Host.Outcome State Fault Refusal :=
  .next (s.mgmtRun m 0x94 48 State.openSession)

/-- A ring is disabled: it fetches nothing until a later doorbell. -/
def Ring.disable (x : Ring) : Ring := { x with prod := x.cons, st := .idle }

/-- The end of a session (R442). Keys that sealed its links are erased, those of ports in RETRAIN too (R315). -/
def State.endSession (s : State) : State :=
  if s.sec.session.isNone then s
  else
    let s := { s with sec := { s.sec with session := none },
                      priv := { s.priv with drbgKey := 0, drbgV := 0, drbgCount := 0, drbgOn := false },
                      dev := { s.dev with job := false, holdPending := false },
                      cl := s.cl.map fun (p : Nat × Cl) => (p.1, { p.2 with cc := .reset }) }
    let s := s.stw.rings.foldl (fun s p =>
      if p.2.tclass = 4 || p.2.st != .active then s else (s.setRing p.1 p.2.disable).ringStore p.1) s
    let up := (List.range 32).filter fun p => (s.port p).st = .up
    let s := { s with lnk := { s.lnk with port := s.lnk.port.map fun (p : Nat × PortS) =>
      (p.1, if p.2.st = .retrain then { p.2 with kdk := none } else p.2) } }
    let s := up.foldl (fun s p =>
      s.onPort p fun x => { x with st := .pairing, qual := false, kdk := none, since := s.ticks }) s
    up.foldl (fun s p => s.rerouteAll p) s

/-- CLOSE_SESSION: FAULT stays FAULT. -/
def execCloseSession (m : Mgmt) (s : State) : Host.Outcome State Fault Refusal :=
  .next (s.mgmtRun m 0x95 0 (fun _ _ s => ((0, []), s)) fun _ s =>
    let s := s.endSession
    if s.dev.st = .fault then s else { s with dev := { s.dev with st := .standby } })

/-- SESSION_IDLE_TIMEOUT (R442): no sessioned command for SEC_SESSCFG.IDLE minutes while READY, HELD or DETACHED. -/
def execSessionIdleTimeout (s : State) : Host.Outcome State Fault Refusal :=
  let idle := s.dev.st = .ready || s.dev.st = .held || s.dev.st = .detached
  match s.sec.session with
  | none => .next s
  | some x =>
    if idle && s.ticks - s.sec.lastCmd ≥ s.rf R.secSesscfg 0 8 * 60 * tSec then
      let s := s.endSession
      .next (({ s with dev := { s.dev with st := .standby } }).raise 0x6004 srcSd x.sid.toNat 0 0)
    else .next s

/-- PROOF_REFUSAL_EXPIRY (R444): a channel takes proofs again. -/
def execProofRefusalExpiry (ring : Bool) (s : State) : Host.Outcome State Fault Refusal :=
  let ch : Fin 2 := if ring then 1 else 0
  match s.sec.refuse[ch] with
  | some t => .next (if s.ticks ≥ t then { s with sec := { s.sec with refuse := s.sec.refuse.set ch none } } else s)
  | none => .next s

/-! ### Commands that move the device (R425, R431) -/

/-- What RUN, and DRAIN out of HELD, do (R249, R250, R346): the device takes the epoch that the commit record holds; out of
READY a step begins and reads its PCB, out of HELD the step that waits goes on with the copy it has; an invalid PCB or a held
continuation replays from EPOCH; and the control cores' stalled issues go on. -/
def State.resume (s : State) : State :=
  let s := s.takeEpoch
  let s := if s.dev.st = .held then s else s.stepStart []
  let due : List Replay := if s.dev.heldReplay then [⟨0x3101, BitVec.ofNat 64 s.epoch, 0, false⟩] else []
  let st := if s.dev.drainBack then DevState.draining else .running
  ({ s with dev := { s.dev with st, replayDue := s.dev.replayDue ++ due, heldReplay := false, drainBack := false } }).unstall

/-- RUN. -/
def execRun (m : Mgmt) (s : State) : Host.Outcome State Fault Refusal :=
  .next (s.mgmtRun m 0x96 0 fun _ _ s => ((0, []), s.resume))

/-- HOLD: takes effect at the next commit. -/
def execHold (m : Mgmt) (s : State) : Host.Outcome State Fault Refusal :=
  .next (s.mgmtRun m 0x97 0 fun _ _ s => ((0, []), { s with dev := { s.dev with holdPending := true } }))

/-- DRAIN (R352). -/
def execDrain (m : Mgmt) (s : State) : Host.Outcome State Fault Refusal :=
  .next (s.mgmtRun m 0x98 0 fun _ _ s =>
    let s := { s with dev := { s.dev with drained := false } }
    let s := if s.dev.st = .held then s.resume else s
    ((0, []), { s with dev := { s.dev with st := .draining } }))

/-- EXTEND: M7. -/
def execExtend (m : Mgmt) (s : State) : Host.Outcome State Fault Refusal :=
  .next (s.mgmtRun m 0x99 0 fun c _ s => ((0, []), s.extend 7 c.args))

/-! ### Maintenance commands -/

/-- CLEAR_MAPREC (R225). -/
def execClearMaprec (m : Mgmt) (s : State) : Host.Outcome State Fault Refusal :=
  .next (s.mgmtRun m 0x9B 0 fun _ _ s => ((0, []), { s with hbm := { s.hbm with mapRec := [] } }))

/-- The wrapping key of a maintenance command (R439). While no password is set the spec names no key: a free value. -/
def State.maintWrap (s : State) (nd : List Byte) (c : MCall) : List Byte :=
  match s.sec.kpw with
  | some k => kdf (bytes256 k) (ascii "ETNX-MWRP") (nd ++ c.args.take 32)
  | none => bytes256 (Config.noPassword (b256 (c.args.take 32)))

/-- PROVISION_KEY: slot 1 to 8 takes the unwrapped key; a wrapped value of zeros erases it. -/
def execProvisionKey (m : Mgmt) (s : State) : Host.Outcome State Fault Refusal :=
  .next (s.mgmtRun m 0x9C 0 fun c nd s =>
    let slot := c.p0 % 256
    let w := c.rest.take 40
    let set := fun k => ((0, []), { s with sec := { s.sec with keys := k } })
    if w = natLe 40 0 then set (SMap.del slot s.sec.keys)
    else match keyUnwrap (s.maintWrap nd c) w with
      | some k => set (SMap.put slot (b256 k) s.sec.keys)
      | none => ((0x50, []), s.authFail))

/-- SET_PASSWORD: a new salt and the new password key. -/
def execSetPassword (m : Mgmt) (s : State) : Host.Outcome State Fault Refusal :=
  .next (s.mgmtRun m 0x9D 0 fun c nd s =>
    match keyUnwrap (s.maintWrap nd c) ((c.rest.drop 16).take 40) with
    | some k =>
      ((0, []), { s with sec := { s.sec with kpw := some (b256 k), salt := BitVec.ofNat 128 (leAt c.rest 0 16) } })
    | none => ((0x50, []), s.authFail))

/-- FW_WRITE (R433): image bytes for the inactive bank at the offset of P0 bytes 0 to 3; with FINAL (P0 byte 4, bit 0) the
image is verified, as `verifies` tells, and its bank becomes preferred. -/
def execFwWrite (m : Mgmt) (verifies : Bool) (s : State) : Host.Outcome State Fault Refusal :=
  .next (s.mgmtRun m 0x9E 0 fun c _ s =>
    let b : Fin 2 := if s.sec.active = 0 then 1 else 0
    let bank := s.sec.bank.set b (s.sec.bank[b].write (c.p0 % 2 ^ 32) c.rest)
    let t := { s with sec := { s.sec with bank } }
    if c.p0 / 2 ^ 32 % 2 = 0 then ((0, []), t)
    else if verifies then ((0, []), t.wf R.secBoot 3 1 b.val) else ((0x50, []), s))

/-- ADVANCE_SVN: the fused minimum SVN becomes that of the active image. -/
def execAdvanceSvn (m : Mgmt) (s : State) : Host.Outcome State Fault Refusal :=
  .next (s.mgmtRun m 0x9F 0 fun _ _ s =>
    let v := max s.fuse.minSvn.toNat s.sec.svn.toNat
    ((0, []), ({ s with fuse := { s.fuse with minSvn := BitVec.ofNat 16 v } }).wf R.secFw 16 16 v))

/-! ### The I3C target -/

/-- DYNAMIC_ADDRESS_ASSIGNMENT (R478): the target takes its dynamic address and no longer answers as a legacy target. -/
def execDynamicAddressAssignment (addr : BitVec 7) (s : State) : Host.Outcome State Fault Refusal :=
  .next { s with sec := { s.sec with i3cAddr := some addr } }

end Sys2Proof.Machine
end

