-- ==== Sys2Proof/Machine/Regions.lean ====
section
/-!
DEFINITION. Regions and their power states (R363, R366 to R369), the abandonment of work without records, the unit stop
(R383), and the change of a region's point (R371, R405 to R414).
-/

namespace Sys2Proof.Machine

/-! ### Power states (Table 12.4) -/

/-- A datapath without power: banks, decoder tables, vector registers, program stores and work in the units are lost; tile
stores are retained. -/
def Cl.datapathOff (x : Cl) : Cl :=
  let t := x.tile.map fun (p : Nat × TileSt) => (p.1, { TileSt.reset with store := p.2.store })
  let v := x.ve.map fun (p : Nat × VeSt) => (p.1, { VeSt.reset with sumq := p.2.sumq })
  { x with tile := t, ve := v, rq := [], notice := none }

/-- A control island without power. -/
def Cl.islandOff (x : Cl) : Cl :=
  let v := x.ve.map fun (p : Nat × VeSt) => (p.1, { p.2 with sumq := [] })
  { x with ve := v, cc := .reset, arm := false, decls := [], dawnReq := none, dawnAt := none, deferred := none }

/-- Entry into Dusk: stores, buffer, memories and bindings are lost (R184, Table 12.4). A Dark cluster stays Dark. -/
def Cl.dusk (x : Cl) : Cl :=
  if x.region = .dark then x
  else
    let x := x.datapathOff.islandOff
    let t := x.tile.map fun (p : Nat × TileSt) => (p.1, { p.2 with store := [] })
    { x with tile := t, buf := [], imem := [], dmem := [], tileLive := [], tileShadow := [], bufLive := [],
             bufShadow := [], region := .dusk }

/-- Usable clusters: those not Dark. -/
def State.usable (s : State) : Nat := 96 - (s.cl.filter fun p => p.2.region = .dark).length

/-- A cluster goes dark (R363). In a step its descriptors end by the abort; outside one they complete with MALFORMED. -/
def State.goDark (s : State) (c : Nat) : State :=
  if (s.clus c).region = .dark then s
  else
    let s := s.onClus c fun x => { x.datapathOff.islandOff with region := .dark, halted := true }
    let s := (s.flag R.pwrStat 1 R.pwrDarkcnt 1).raise 0x5002 (srcCl c 0 0) 0 s.usable 0
    if s.running then s.raiseHeld 0x5003 (srcCl c 0 0) 0 c 0
    else (sortBy (fun a b => decide (a.n ≤ b.n)) (s.clus c).allJobs).foldl (fun s j => s.endJob c j 0x10 0) s

/-- Work leaves a cluster without completion records: queues, work in flight, units and the queue port start afresh. What
the stores, the memories and the bindings hold stays. -/
def Cl.abandon (x : Cl) : Cl :=
  let y := x.datapathOff
  { Cl.reset with tile := y.tile, ve := y.ve.map (fun (p : Nat × VeSt) => (p.1, { p.2 with sumq := [] })),
                  tileLive := x.tileLive, tileShadow := x.tileShadow, bufLive := x.bufLive, bufShadow := x.bufShadow,
                  buf := x.buf, imem := x.imem, dmem := x.dmem, phfail := x.phfail, connCeil := x.connCeil,
                  region := x.region, clk := x.clk, issueNo := x.issueNo }

/-- All work of the device is abandoned without records (R482, R484). The step's statistics stay for a commit that has stored
its record (R297). -/
def State.abandon (s : State) : State :=
  { s with cl := s.cl.map (fun (p : Nat × Cl) => (p.1, p.2.abandon)), cbLoads := [],
           stat := if s.priv.due.isSome then s.stat else [],
           sync := { s.sync with flying := [], resets := [] }, shc := { s.shc with queue := [], stalled := [] },
           lnk := { s.lnk with eng := [], out := [], inbox := [], tsync := { s.lnk.tsync with t1 := none } },
           stw := { s.stw with rings := [], jobs := [], mgmt := [], applies := [], fetches := [], badBlocks := [] },
           dev := { s.dev with holdPending := false, replayDue := [], restartDue := false, holdDue := none,
                               heldReplay := false, drainBack := false, drained := false } }

/-- Step 3 of the unit stop: open combining entries are applied and dirty lines written back, but for those whose bits SECDED
cannot correct, which are lost (R210). -/
def State.flushSlices (s : State) (errs : Errs) : State :=
  let s := s.closeAll errs
  let gone := (errs.filter fun e => e.2 = .line && s.isDirty (e.1 / 8)).map (·.1 / 8)
  let s := gone.eraseDups.foldl (fun s l => s.lostLine l) s
  { s with shc := { s.shc with lines := [], verified := [] } }

/-- A port loses its link layer: what it held goes, and its parked wavelengths count as no notch of the arbiter (R375). -/
def State.resetPort (s : State) (p : Nat) (st : PortSt) : State :=
  let s := s.onPort p fun x => { PortS.reset with light := x.light, st, since := s.ticks }
  { s with pw := { s.pw with parked := s.pw.parked.filter (· != p) } }

/-- The unit stop (R383): one for causes that fall together (R398). -/
def State.unitStop (s : State) (errs : Errs) : State :=
  if s.dev.stopped then s
  else
    let s := (s.abandon).flushSlices errs
    let s := (List.range 32).foldl (fun s p => s.resetPort p .off) { s with cl := s.cl.map fun (p : Nat × Cl) => (p.1, p.2.dusk) }
    { s with dev := { s.dev with stopped := true, selfRefresh := true } }

/-- A STOP event that runs the unit stop. -/
def State.stopUnits (s : State) (code : Nat) (q : Src) (d0 : Nat) (errs : Errs) : State :=
  (s.raise code q 0 d0 0).unitStop errs

/-! ### Changes of point -/

/-- The head of a queue is about to dispatch: only the point keeps it (R161, R370). -/
def State.atDoor (s : State) (c : Nat) (j : Job) : Bool :=
  isDatapath (fld j.desc 0 8) && s.canDispatch c j
    && (!isTileOp (fld j.desc 0 8) || ((s.clus c).covered j && (s.clus c).noticed))

/-- The requested point of a cluster (R370): the highest tag point of its datapath descriptors in flight or about to dispatch. -/
def State.sought (s : State) (c : Nat) : Option Nat :=
  let hs := (s.clus c).queue.toList.filterMap fun l => l.head?
  (hs.filter (s.atDoor c)).foldl (fun m j =>
    let p := s.tagPoint (dieOf c) (fld j.desc 16 8)
    some (match m with | some k => max k p | none => p)) (s.wanted c)

/-- The point of a cluster under the ceilings in force (R370): one without a datapath descriptor in flight keeps its point as
far as they allow. -/
def State.nextPoint (s : State) (c : Nat) : Nat := s.cluPoint c ((s.sought c).getD (s.clus c).clk.op.val)

/-- The point and the requested point that a cluster's region is to change to (R371), when a change is due: at once to a
ceiling below its point and for a raise, and for a fall of the request after PWR_GATE.MINDWELL. -/
def State.cluGoal (s : State) (c : Nat) : Option (Nat × Nat) :=
  let k := (s.clus c).clk
  let p := s.nextPoint c
  let now := s.cluPoint c 7 < k.op.val || p > k.op.val
    || (p < k.op.val && s.ticks - k.changed ≥ s.rf R.pwrGate 24 8 * tUs)
  if now then some (p, (s.sought c).getD k.op.val) else none

/-! ### Twilight and Dawn -/

/-- R110: no tile holds a pass in flight or an undrained bank. -/
def Cl.quiet (x : Cl) : Bool :=
  x.tile.all fun p => p.2.waiting.isEmpty && p.2.act != .busy && p.2.bank.toList.all fun b => match b with
    | .free => true
    | .pre _ _ => true
    | _ => false

/-- A datapath descriptor is in flight or at the head of a queue. -/
def Cl.wantsDatapath (x : Cl) : Bool :=
  (x.flight.any fun j => isDatapath (fld j.desc 0 8)) ||
    x.queue.toList.any fun l => match l with
      | j :: _ => isDatapath (fld j.desc 0 8)
      | [] => false

/-- TWILIGHT_ENTRY (R367). -/
def execTwilightEntry (c : Cluster) (s : State) : Host.Outcome State Fault Refusal :=
  let x := s.clus c.val
  let idle := s.rf R.pwrGate 0 10
  if x.region != .active || idle = 0 || x.wantsDatapath || !x.quiet || x.clk.stopAt.isSome
    || s.ticks - max x.idleAt s.dev.upAt < idle * tUs then .next s
  else .next (s.setClus c.val { x.datapathOff with region := .twilight })

/-- Edge neighbours of a cluster on its die (R369). -/
def neighbours (c : Nat) : List Nat :=
  let d := 24 * (c / 24)
  let n := c % 24
  (if n ≥ 6 then [d + n - 6] else []) ++ (if n < 18 then [d + n + 6] else [])
    ++ (if n % 6 != 0 then [d + n - 1] else []) ++ (if n % 6 != 5 then [d + n + 1] else [])

/-- Dawns in progress on a die. -/
def State.dawns (s : State) (d : Nat) : Nat := (s.cl.filter fun p => dieOf p.1 = d && p.2.region = .dawn).length

/-- Package headroom P_eff - P_pred is below PWR_GATE.DAWNW (R369). -/
def State.tight (s : State) : Bool := s.pw.peff < max s.pw.p10 (s.pw.pfc * 10000) + s.rf R.pwrGate 16 8 * 10000

/-- DAWN_GRANT (R368, R369). A grant that must wait is deferred: beside a busy neighbour without headroom for at most
100 µs, and under SHED_N or the die's VR_ALERT_N until the signal is released. -/
def execDawnGrant (c : Cluster) (s : State) : Host.Outcome State Fault Refusal :=
  let x := s.clus c.val
  let d := dieOf c.val
  let busy := (neighbours c.val).any fun n =>
    let y := s.clus n
    (y.tile.filter fun p => p.2.act != .gated).length > 24
  if x.dawnReq.isNone || (x.region != .twilight && x.region != .dusk) || s.dawns d ≥ 2 then .next s
  else
    let hold := s.pw.shedOn || s.pw.vrOn[dieIx d]
    let t := x.deferred.getD s.ticks
    if hold || (busy && s.tight && s.ticks - t < 100 * tUs) then
      if x.deferred.isSome then .next s
      else
        let s := (s.onClus c.val fun x => { x with deferred := some s.ticks }).flag R.pwrStat 4 R.pwrDefercnt 1
        .next (s.causes c.val)
    else
      let s := s.causes c.val
      let s := s.onClus c.val fun x => { x with region := .dawn, dawnReq := none, dawnAt := some s.ticks, deferred := none }
      .next (if x.deferred.isSome then s.raise 0x5008 (srcCl c.val 0 0) 0 ((s.ticks - t) * 10) 0 else s)

/-- The value that the next epoch would install: of LNK_CTL only RANK is staged (R458). -/
def State.nextVal (s : State) (a : Nat) : Nat :=
  if a = R.lnkCtl then
    match SMap.find a s.regs.staged with
    | some w => setBits (s.rd a) 0 12 w.toNat
    | none => s.rd a
  else s.stagedVal a

/-- Some staged value differs from its installed value (Table 16.5). -/
def State.differs (s : State) : Bool := s.regs.staged.any fun p => s.nextVal p.1 != s.rd p.1

/-- The tail of an applied epoch ends once its map-out and its regions are through (R463). -/
def State.tailEnd (s : State) : State :=
  if s.cfg.phase = .applying && !s.cfg.tailMap && s.cfg.tailDusk.isEmpty then
    { s with cfg := { s.cfg with phase := if s.differs then .staged else .idle } }
  else s

/-- DAWN_COMPLETE (R368, R408, R414): at least 20 µs after the grant the region is Active at the point then in force. -/
def execDawnComplete (c : Cluster) (aligned : Bool) (s : State) : Host.Outcome State Fault Refusal :=
  let x := s.clus c.val
  match x.region, x.dawnAt with
  | .dawn, some t =>
    if s.ticks - t < 20 * tUs then .next s
    else
      let p := Fin.ofNat 8 (s.nextPoint c.val)
      let s := s.setClus c.val { x with region := .active, dawnAt := none, idleAt := s.ticks,
                                        clk := { x.clk with op := p, goal := p, aligned, changed := s.ticks } }
      let s := if aligned then s
        else (s.flag R.clkStat 1 R.clkAligncnt 1).raise 0x5201 (srcCl c.val 0 0) 0 c.val 0
      let s := { s with cfg := { s.cfg with tailDusk := s.cfg.tailDusk.filter (· != c.val) } }
      .next ((s.heads c.val).tailEnd)
  | _, _ => .next s

/-! ### Stops -/

/-- A die's fabric region and its stop count (R409, R424). -/
def State.onFabric (s : State) (d : Nat) (f : ClkSt → ClkSt) : State :=
  let i := dieIx d
  { s with pw := { s.pw with dieClk := s.pw.dieClk.set i (f s.pw.dieClk[i]) } }

/-- The stop of a cluster's region begins. -/
def State.stopClu (s : State) (c : Nat) (g : Nat × Nat) : State :=
  (s.onClus c fun x => { x with clk := { x.clk with goal := Fin.ofNat 8 g.1, want := Fin.ofNat 8 g.2,
                                                    stopAt := some s.ticks, retry := false } }).tally (R.clkStops (dieOf c)) 1

/-- Regions of a die that take a stop when its point changes: powered clusters whose own point changes. -/
def State.stopClus (s : State) (d : Nat) : State :=
  ((List.range 24).map (24 * d + ·)).foldl (fun s c =>
    let x := s.clus c
    if (x.region = .active || x.region = .twilight) && x.clk.stopAt.isNone then
      match s.cluGoal c with
      | some g => s.stopClu c g
      | none => s
    else s) s

/-- FREQUENCY_CHANGE_STOP (R409): a region whose point must change stops. -/
def execFrequencyChangeStop (r : Region) (s : State) : Host.Outcome State Fault Refusal :=
  match r with
  | .cluster c =>
    let x := s.clus c.val
    if (x.region != .active && x.region != .twilight) || x.clk.stopAt.isSome then .next s
    else match s.cluGoal c.val with
      | some g => .next (s.stopClu c.val g)
      | none => .next s
  | .fabric d =>
    let k := s.pw.dieClk[d]
    let p := s.diePoint d.val
    if p = k.op.val || k.stopAt.isSome then .next s
    else
      let s := (s.onFabric d.val fun k => { k with goal := Fin.ofNat 8 p, stopAt := some s.ticks, retry := false }).tally
        (R.clkStops d.val) 1
      .next (s.stopClus d.val)

/-- The end of a stop: the clock state of the region after its PLL locked and its alignment was tried. -/
def ClkSt.release (k : ClkSt) (aligned : Bool) (now : Nat) : ClkSt :=
  { k with op := k.goal, stopAt := none, aligned, changed := now, retry := false }

/-- The end of a stop (R408, R409, R412): a PLL that fails to lock is retried once at its old setting; a second failure
takes the region out of service. -/
def State.stopRelease (s : State) (r : Region) (locked aligned : Bool) : State :=
  let align := fun (s : State) (q : Src) (n : Nat) =>
    if aligned then s else (s.flag R.clkStat 1 R.clkAligncnt 1).raise 0x5201 q 0 n 0
  match r with
  | .cluster c =>
    let q := srcCl c.val 0 0
    let s := s.causes c.val
    let k := (s.clus c.val).clk
    let set := fun (k : ClkSt) => s.onClus c.val fun x => { x with clk := k }
    if k.stopAt.isNone then s
    else if locked then
      let s := s.stretchComets k fun d _ => d = c.val
      align (s.onClus c.val fun x => { x with clk := k.release aligned s.ticks }) q c.val
    else if !k.retry then (set { k with retry := true, goal := k.op })
    else
      let s := (set { k with stopAt := none }).flag R.clkStat 3 R.clkPllcnt 1
      ((s.raiseAs .degrade 0x5203 q 0 c.val 0 false).goDark c.val)
  | .fabric d =>
    let k := s.pw.dieClk[d]
    let set := fun (k : ClkSt) => s.onFabric d.val fun _ => k
    if k.stopAt.isNone then s
    else if locked then
      let s := s.stretchComets k fun c b => (s.cometDies c b).contains d.val
      align (s.onFabric d.val fun _ => k.release aligned s.ticks) (srcDie d.val) (256 + d.val)
    else if !k.retry then (set { k with retry := true, goal := k.op })
    else
      let s := (set { k with stopAt := none }).flag R.clkStat 3 R.clkPllcnt 1
      (s.raiseAs .stop 0x5203 (srcDie d.val) 0 (256 + d.val) 0 false)

/-- POINT_FALL (R371): the requested point falls with the last descriptor that needed it, and the region's point follows
by its stop. -/
def execPointFall (c : Cluster) (s : State) : Host.Outcome State Fault Refusal :=
  let x := s.clus c.val
  if (x.region != .active && x.region != .twilight) || x.clk.stopAt.isSome then .next s
  else match s.cluGoal c.val with
    | some g => .next (if g.1 < x.clk.op.val then s.stopClu c.val g else s)
    | none => .next s

end Sys2Proof.Machine
end

