-- ==== Sys2Proof/Machine/Start.lean ====
section
/-!
DEFINITION. Rails, RESET_N and starts (R425, R432 to R437, R480 to R485). A start begins with the reset of its units and
registers; START_COMPLETE then runs the steps of Table 15.5 to their end or to the first that fails (log 26).
-/

namespace Sys2Proof.Machine

/-! ### The beginning of a start -/

/-- Registers that keep their value through every start: RWS and ROS fields (R17, R450, R454). -/
def sticky (a : Nat) : Bool := a = R.genLaststop || a = R.genStoptime || a = R.secBoot

/-- TIL registers as the production fuses give them (R114). DESIGN CHOICE (log 69): TIL_REDUCED is not raised here. -/
def State.fuseRegs (s : State) : State :=
  let s := s.fuse.tileDis.foldl (fun s p =>
    let gone := p.2.toNat
    let n := 32 - (maskTiles gone).length
    s.wr (R.tilAvail p.1) ((0xFFFFFFFF - gone) + n * 2 ^ 32)) s
  let s := s.fuse.tileSpare.foldl (fun s p => s.wr (R.tilSpare p.1) p.2.toNat) s
  s.fuse.cellMap.foldl (fun s p => s.wr (R.tilCellmap (p.1 / 32) (p.1 % 32)) p.2.toNat) s

/-- A cold start: registers at their reset values, units and tables as after power-on; local memories, HBM and host memory
wait for their steps. The record of spare states stays (R499). -/
def State.coldReset (s : State) : State :=
  let chan := s.hbm.chan.map fun (p : Nat × Chan) => (p.1, { Chan.reset with spares := p.2.spares, st := p.2.st })
  let keep := fun (x : Cl) =>
    { x with connCeil := 7, issueNo := 0, clk := ClkSt.reset, slipSeen := [] }
  let s := { s with regs := ⟨s.regs.file.filter fun p => sticky p.1, [], [], [], []⟩,
                    evt := ⟨[], [], 0, []⟩, hbm := { s.hbm with chan, mapOut := none, margin := none },
                    cb := [], sync := ⟨[], 0, none, 0, [], []⟩, resTab := [], resSuspended := false, phtab := [],
                    learn := [], runGen := 0, buckets := [], priv := { s.priv with due := none },
                    lnk := { s.lnk with tsync := ⟨false, 0, 0, 0, 0, none, 0⟩ },
                    tap := { s.tap with wiped := [] }, time := ⟨0, 0, s.time.holdover⟩,
                    cl := s.cl.map (fun (p : Nat × Cl) => (p.1, keep p.2)), thm := Thm.reset,
                    pw := { Pw.reset with shedOn := s.pw.shedOn, shedCap := s.pw.shedCap, vrOn := s.pw.vrOn,
                                          vrCeil := s.pw.vrCeil, vrUp := s.pw.vrUp } }
  s.fuseRegs

/-- VALID bits that record something since the last start (R497): register and bit. -/
def sinceStart : List (Nat × Nat) :=
  (List.range 96).flatMap (fun c =>
    (R.tilResloc c, 15) :: (List.range 4).map fun v => (R.vecResloc c v, 20)) ++
  [(R.memUeloc, 63), (R.memMgres, 41), (R.updEpoch, 32), (R.updLasterr, 31), (R.pwrConnloc, 31), (R.genIgnloc, 63)]

/-- A warm start keeps what software wrote, flags, counters and RO fields (R497); sensor marks end (R386 to R388), and a margin run that was cut runs no more. -/
def State.warmReset (s : State) : State :=
  let s := sinceStart.foldl (fun s p => if s.rf p.1 p.2 1 = 1 then s.wf p.1 p.2 1 0 else s) s
  let s := if s.hbm.margin.isSome then s.wf R.memMgctl 11 2 0 else s
  let clean := fun (x : Sensor) => { x with suspect := false, failed := false, at_ := s.ticks }
  { s with regs := { s.regs with rlatch := [], whold := [], held := [] },
           hbm := { s.hbm with margin := none },
           thm := { s.thm with hs := s.thm.hs.map fun (p : Nat × HotSpot) =>
             (p.1, ⟨clean p.2.a, clean p.2.b, none, false⟩) } }

/-- A port at the beginning of a start: OFF until step 10 trains it, but for one that failed its qualification, which a warm
start leaves in FAILED (R435). -/
def State.startPort (s : State) (cold : Bool) (p : Nat) : State :=
  let x := s.port p
  if !cold && x.st = .failed && x.qual then
    (s.resetPort p .failed).onPort p fun y => { y with qual := true, cause := x.cause }
  else s.resetPort p .off

/-- A start begins (R432, R437): cold when asked for, when FORCECOLD is 1, after a loss of power, and out of a FAULT that
forces it. The slices stop first (R210). -/
def State.startBegin (s : State) (cold : Bool) (errs : Errs) : State :=
  let forced := s.rf R.secBoot 4 1 = 1
  let cold := cold || forced || s.dev.powerLost || s.dev.faultCold
  let s := (s.abandon.endSession.flushSlices errs).dropEpoch
  let s := if cold then s.coldReset else s.warmReset
  let s := (List.range 32).foldl (fun s p => s.startPort cold p) s
  let s := { s with dev := { s.dev with st := .dawn, start := some ⟨cold, s.ticks⟩, powerLost := false,
                                        faultCold := false, job := false, selfRefresh := true }, cfg := { s.cfg with old := [] },
                    sec := { s.sec with meas := Vector.replicate 8 0 },
                    stw := { s.stw with halted := false } }
  let s := s.wf R.secBoot 2 1 (if cold then 0 else 1)
  if forced then ((s.wf R.secBoot 4 1 0).flag R.secStat 3 R.secForcecnt 1).raise 0x6003 srcSd 0 0 0 else s

/-- START: a session's command, or a maintenance command when no session is open. -/
def execStart (m : Mgmt) (errs : Errs) (s : State) : Host.Outcome State Fault Refusal :=
  .next (s.mgmtRun m 0x9A 0 (fun _ _ s => ((0, []), s)) fun c s => s.startBegin (c.p0 % 2 = 1) errs)

/-! ### The steps of a start -/

/-- Every core rail is in range. -/
def State.coreUp (s : State) : Bool := (List.range 13).all fun i => i = 0 || s.pins.rail[Fin.ofNat 13 i]

/-- The firmware bank that the boot ROM accepts (R433): the preferred one first. -/
def State.bootBank (s : State) (o : StartObs) : Option (Fin 2) :=
  let pref : Fin 2 := if s.rf R.secBoot 3 1 = 1 then 1 else 0
  let other : Fin 2 := 1 - pref
  let ok := fun (b : Fin 2) => o.bankOk[b] && o.svn[b].toNat ≥ s.fuse.minSvn.toNat
  if ok pref then some pref else if ok other then some other else none

/-- 24 h in Meridian units (R436). -/
def dayUnits : Nat := 24 * 3600 * 1000000 * merUs

/-- Step 4 runs: cold, or the last self-test is more than 24 h old (R436). -/
def State.bistDue (s : State) (cold : Bool) : Bool :=
  cold || match s.dev.bistAt with
    | some t => (s.time.meridian - t).toNat > dayUnits
    | none => true

/-- The windows of a margin run (R228), a byte each as in MEM_MGRES: read and write timing in taps, read and write reference
voltage and VDDQ in mV. -/
def marginPass (w : Nat) : Bool :=
  bitsOf w 0 8 ≥ 24 && bitsOf w 8 8 ≥ 24 && bitsOf w 16 8 ≥ 60 && bitsOf w 24 8 ≥ 60 && bitsOf w 32 8 ≥ 30

/-- MEM_MGRES after a run on a channel (Table 7.14). -/
def marginImage (ch w : Nat) : Nat := w % 2 ^ 40 + (if marginPass w then 2 ^ 40 else 0) + 2 ^ 41 + ch * 2 ^ 42

/-- A channel below a minimum of Table 7.7 (R228). -/
def State.marginLow (s : State) (ch w : Nat) : State :=
  (s.flag R.memStat 6 R.memMglowcnt 1).raise 0x2007 (srcStack (ch / 32)) 0 ch (marginImage ch w)

/-- Reading of a stack in 0.25 °C (R385). -/
def State.stackC (s : State) (k : Nat) : Int := (SMap.val StackSt.reset s.thm.stack k).temp.toInt

/-- Stacks are fully trained at the temperatures that they now have (R436). -/
def State.trainStacks (s : State) (ks : List Nat) : State :=
  ks.foldl (fun s k => { s with hbm := { s.hbm with trainT := SMap.put k (s.stackC k) s.hbm.trainT } }) s

/-- Stacks whose stored training a warm start cannot use (R436): all of them where M1 to M5 differ from their values at the
training, else those more than 15 °C away from its temperature. -/
def State.untrainedStacks (s : State) : List Nat :=
  let same := (s.sec.meas.toList.drop 1).take 5 = s.sec.trained
  (List.range 20).filter fun k => !same || (s.stackC k - SMap.val 0 s.hbm.trainT k).natAbs > 60

/-- Step 9 of a cold start (R225, R228): every stack is trained, recorded channels are mapped out, channels that fail training
or margining are not made live, and HBM is cleared. -/
def State.coldHbm (s : State) (o : StartObs) : State :=
  let low := o.margins.filter fun p => !marginPass p.2.toNat
  let s := { s with hbm := { s.hbm with chan := s.hbm.chan.map fun (p : Nat × Chan) => (p.1, { p.2 with st := .live }) } }
  let s := (o.untrained.map (·.val) ++ low.map (·.1.val)).foldl (fun s c =>
    s.setChan c { s.chan c with st := .notLive }) s
  let s := s.hbm.mapRec.foldl (fun s c => s.setChan c { s.chan c with st := .mapped }) s
  ((low.foldl (fun s p => s.marginLow p.1.val p.2.toNat) s).trainStacks (List.range 20)).clearHbm

/-- Step 9 of a warm start (R225, R436): the live lists stay; the stacks whose stored training does not hold are fully trained,
and then all HBM is cleared as after a map-out; else its contents are kept. -/
def State.warmHbm (s : State) : State :=
  match s.untrainedStacks with
  | [] => s
  | ks =>
    let s := (s.trainStacks ks).clearHbm.wf R.stmCkctl 0 1 0
    { s with sec := { s.sec with kept := false } }

/-- PWR_DUSK names a cluster. -/
def State.duskNamed (s : State) (c : Nat) : Bool :=
  if c < 64 then s.rf R.pwrDusk c 1 = 1 else s.rf R.pwrDuskhi (c - 64) 1 = 1

/-- A region at the end of a start: Dark with three or more failed phases (R363), in Dusk when PWR_DUSK names it, else
Active at the point that its request and the ceilings now give, and aligned. -/
def State.regionUp (s : State) (c : Nat) : State :=
  let x := s.clus c
  let named := s.duskNamed c
  let dead := ((List.range 16).filter fun k => x.phfail.getLsbD k).length ≥ 3
  if dead then s.setClus c { x with region := .dark, halted := true }
  else if named then s.setClus c { ({ x with region := .active } : Cl).dusk with halted := false }
  else
    let x := { x with region := .active, halted := false }
    let s := s.setClus c x
    let p := Fin.ofNat 8 (s.cluPoint c x.clk.want.val)
    s.setClus c { x with clk := { x.clk with op := p, goal := p, stopAt := none, aligned := true, changed := s.ticks } }

/-- Regions of clusters and fabrics (Table 15.5, step 7). -/
def State.regionsUp (s : State) : State :=
  let touched := (List.range 96).filter fun c =>
    (SMap.find c s.cl).isSome || s.duskNamed c || s.diePoint (dieOf c) < 7
  let s := touched.foldl (fun s c => s.regionUp c) s
  (List.range 4).foldl (fun s d => s.onFabric d fun k =>
    let p := Fin.ofNat 8 (s.diePoint d)
    { k with op := p, goal := p, stopAt := none, aligned := true }) s

/-- The envelope follower at an enable and at the end of a start (R377). -/
def State.envReset (s : State) : State :=
  let c := s.rf R.pwrCap 0 12
  let s := { s with pw := { s.pw with target := c, ecap := c * 10000, env := none, envAt := s.ticks, lapsed := false,
                                      falling := false, ramp := none, pendT := none } }
  s.wr R.pwrEnv 0

/-- Telemetry counts as lost from the end of a start (R396). -/
def State.coolReset (s : State) : State :=
  { s with thm := { s.thm with cool := none, lost := true, inlet := none, lowFlow := 0, coolAt := s.ticks } }

/-- A start fails at a step (R432, R437). -/
def State.startFail (s : State) (cold : Bool) (step : Nat) : State :=
  let s := s.raise 0x6001 srcSd step 0 0
  if cold then s
  else
    let n := min (s.rf R.secBoot 0 2 + 1) 3
    let s := s.wf R.secBoot 0 2 n
    if n = 3 then s.wf R.secBoot 4 1 1 else s

/-- Steps 5 and 6 of R293 for a commit that was interrupted after its record was stored (R297). -/
def State.finishCommit (s : State) (errs : Errs) : State :=
  match s.priv.due with
  | some (n, entry) => s.commitTail n entry errs
  | none => s

/-- Step 10: a port that is enabled and has not begun to train waits in DARK for light (R304). -/
def State.startPorts (s : State) : State :=
  (List.range 32).foldl (fun s p =>
    if s.portOn p && (s.port p).st = .off then s.onPort p fun x => { x with st := .dark, since := s.ticks } else s) s

/-- START_COMPLETE: the start reaches STANDBY or its first failing step. -/
def execStartComplete (obs : StartObs) (errs : Errs) (s : State) : Host.Outcome State Fault Refusal :=
  match s.dev.start with
  | none => .next s
  | some q =>
    if s.dev.st != .dawn || s.dev.inReset then .next s
    else
      let bank := s.bootBank obs
      let late := !q.cold && s.ticks - q.at_ > 30 * tSec
      let f := min (min (if s.coreUp then 14 else 1) (if bank.isNone then 2 else 14))
        (min (obs.fail.getD 14) (if late then 13 else 14))
      -- steps 2 and 6
      let s := if f > 2 then
          let s := { s with sec := { s.sec with active := bank.getD 0, svn := obs.svn[bank.getD 0] } }
          s.wr R.secFw (s.sec.svn.toNat + s.fuse.minSvn.toNat * 2 ^ 16)
        else s
      let s := (List.finRange 6).foldl (fun s i =>
        if f > (if i.val ≤ 2 then 2 else 6) then s.extend (Fin.castLE (by decide) i) obs.comps[i] else s) s
      -- steps 3 to 5
      let s := if f > 3 then
          { (if q.cold then s.clearHost else s) with dev := { s.dev with selfRefresh := false } }
        else s
      let s := if f > 4 && s.bistDue q.cold then
          { s.clearStores with dev := { s.dev with bistAt := some s.time.meridian } } else s
      let s := if f > 5 && q.cold then
          let s := { s with cl := s.cl.map fun (p : Nat × Cl) => (p.1, { p.2 with phfail := 0 }) }
          obs.phases.foldl (fun s p => if p.1 < 96 then s.onClus p.1 fun x => { x with phfail := p.2 } else s) s
        else s
      -- steps 7 and 9
      let s := if f > 7 then s.regionsUp else s
      let s := if f > 9 then
          (let s := if q.cold then (s.coldHbm obs).forget else s.warmHbm
           { s with sec := { s.sec with trained := (s.sec.meas.toList.drop 1).take 5 } })
        else s
      -- steps 10 and 12
      let s := if f > 10 then s.startPorts else s
      let a := s.rd R.updCommita
      let (ok, e) := s.commitOk
      let f := if f > 12 && a != 0 && !ok then 12 else f
      let s := if f > 12 && a != 0 then s.wr R.updEpoch (e + 2 ^ 32) else s
      let (k, s) := s.takeFree
      if f < 14 then
        let s := if f = 2 && bank.isNone then s.raise 0x6002 srcSd (1 - s.rf R.secBoot 3 1) 0 0
          else if f = 12 && !ok then s.raise 0x3005 srcSd 0 (leNat (s.mem.bytes a 8)) 0 else s
        .next (s.startFail q.cold f)
      else
        let s := s.finishCommit errs
        let s := { s with dev := { s.dev with st := .standby, start := none, upAt := s.ticks, stopped := false },
                          time := { s.time with holdover := false },
                          sec := { s.sec with attKey := Config.madeKey k } }
        let s := (s.wf R.secBoot 0 2 0).coolReset
        .next (if s.rf R.pwrEnvctl 12 1 = 1 then s.envReset else s)

/-! ### Rails and RESET_N -/

/-- Place of a rail in Table 17.4. -/
def railStep (r : Nat) : Nat := if r ≤ 6 then r else if r ≤ 10 then 7 else r - 3

def State.setRail (s : State) (r : Fin 13) (up : Bool) : State :=
  let rail := s.pins.rail.set r up
  let gone := (List.range 13).all fun i => i = 0 || !rail[Fin.ofNat 13 i]
  { s with pins := { s.pins with rail, bad := s.pins.bad && !gone } }

/-- A start that was waiting for RESET_N and for the core rails begins: cold out of OFF, else as it was asked for. -/
def State.startWaiting (s : State) : State :=
  if s.dev.inReset || !s.coreUp || s.pins.bad then s
  else if s.dev.st = .off then s.startBegin true []
  else if s.dev.st = .dawn && s.dev.start.isNone then s.startBegin false []
  else s

/-- POWER_UP (R480, R481): a rail comes into range; a rail before one that precedes it keeps the device in OFF until every
core rail has been removed. -/
def execPowerUp (rail : Fin 13) (s : State) : Host.Outcome State Fault Refusal :=
  let early := (List.range 13).any fun i => railStep i < railStep rail.val && !s.pins.rail[Fin.ofNat 13 i]
  if s.pins.rail[rail] then .next s
  else
    let s := s.setRail rail true
    let s := { s with pins := { s.pins with bad := s.pins.bad || (early && s.dev.st = DevState.off) } }
    .next s.startWaiting

/-- Entry into OFF (R425, R484): no records, and the next start is cold. -/
def State.powerOff (s : State) : State :=
  if s.dev.st = .off then s
  else
    let s := s.abandon.endSession.dropEpoch
    { s with cl := [], evt := { s.evt with queues := [] },
             dev := { s.dev with st := .off, start := none, stopped := false, selfRefresh := false, powerLost := true } }

/-- CORE_RAIL_LOSS (R484). -/
def execCoreRailLoss (rail : Fin 13) (s : State) : Host.Outcome State Fault Refusal :=
  if rail = 0 || !s.pins.rail[rail] then .next s else .next (s.setRail rail false).powerOff

/-- Contents that only VRET kept: those of Dark clusters. -/
def State.loseRetained (s : State) : State :=
  { s with cl := s.cl.map fun (p : Nat × Cl) =>
      let t := p.2.tile.map fun (q : Nat × TileSt) => (q.1, { q.2 with store := [] })
      (p.1, if p.2.region = .dark then { p.2 with tile := t, buf := [], imem := [], dmem := [] } else p.2) }

/-- POWER_DOWN (R483, R485): after a unit stop VRET, VIN_CD0 to 3 and the optical rails may go and the device stays in
FAULT; any other core rail takes it to OFF. -/
def execPowerDown (rail : Fin 13) (s : State) : Host.Outcome State Fault Refusal :=
  if rail = 0 || !s.pins.rail[rail] then .next s
  else
    let t := s.setRail rail false
    if s.dev.stopped && s.dev.st = .fault && (rail = 1 || 7 ≤ rail.val) then
      .next (if rail = 1 then t.loseRetained else t)
    else .next t.powerOff

/-- RESET_N_FALL (R482): work is abandoned, an armed epoch with it (R464), the session ends, memory enters self-refresh and the device waits in DAWN. A
start in progress will begin again. -/
def execResetNFall (errs : Errs) (s : State) : Host.Outcome State Fault Refusal :=
  let s := { s with dev := { s.dev with inReset := true } }
  if s.dev.st = .off || s.dev.st = .dawn then .next s
  else
    let s := (s.abandon.endSession.flushSlices errs).dropEpoch
    .next { s with dev := { s.dev with st := .dawn, start := none, selfRefresh := true } }

/-- RESET_N_RISE (R482, R494): the test access port returns to IDCODE, and the start begins once every core rail is in
range. -/
def execResetNRise (s : State) : Host.Outcome State Fault Refusal :=
  if !s.dev.inReset then .next s
  else
    let s := { s with dev := { s.dev with inReset := false },
                      tap := { s.tap with instr := 0x01, drives := false, highz := false, sel := none } }
    match s.dev.st, s.dev.start with
    | .dawn, some q => .next (if s.coreUp then s.startBegin q.cold [] else { s with dev := { s.dev with start := none } })
    | _, _ => .next s.startWaiting

/-- VAUX_REMOVED (R17, R450): RWS and ROS values are lost but for BANK, THERMTRIP_N is released. -/
def execVauxRemoved (s : State) : Host.Outcome State Fault Refusal :=
  let s := (s.setRail 0 false).powerOff
  let bank := s.rf R.secBoot 3 1
  let s := ((s.wr R.genLaststop 0).wr R.genStoptime 0).wr R.secBoot (8 * bank)
  .next { s with dev := { s.dev with powerLost := true }, pins := { s.pins with trip := false }, tap := Tap.reset,
                 sec := { s.sec with i3cAddr := none, resp := none } }

end Sys2Proof.Machine
end

