-- ==== Sys2Proof/Machine/Power.lean ====
section
/-!
DEFINITION. Power delivery (chapter 12): failed phases, connection sensing, the arbiter with its levers, envelopes, the
supply's signals, and the load forecast line. Powers are exact: 0.1 mW for caps, and the finer unit of an `Est` for the
savings of notches.
-/

namespace Sys2Proof.Machine

/-! ### Phases and connections (R360 to R365) -/

/-- The phases of cluster c that carry its load (R360): every working phase from a load-step notice to its end, and at other
times those of them that light load needs, which the spec does not name (log 86). -/
def State.phasesIn (s : State) (c : Nat) : BitVec 16 :=
  let x := s.clus c
  if x.notice.isSome then ~~~x.phfail else ~~~x.phfail &&& Config.lightPhases c s.ticks

/-- The phases' loop bandwidth is raised from a load-step notice to its end (R360). -/
def Cl.wideLoop (x : Cl) : Bool := x.notice.isSome

/-- PHASE_FAILURE (R361 to R363). -/
def execPhaseFailure (c : Cluster) (k : Fin 16) (s : State) : Host.Outcome State Fault Refusal :=
  let x := s.clus c.val
  if s.dev.st = .off || x.phfail.getLsbD k.val then .next s
  else
    let f := x.phfail ||| (1#16 <<< k.val)
    let n := ((List.range 16).filter fun i => f.getLsbD i).length
    let s := (s.setClus c.val { x with phfail := f }).flag R.pwrStat 0 R.pwrPhasecnt 1
    let s := s.raise 0x5001 (srcCl c.val 0 0) k.val f.toNat 0
    .next (if n ≥ 3 then s.goDark c.val else s)

/-- UNCORE_REGULATOR_FAILURE (R360). -/
def execUncoreRegulatorFailure (d : Die) (s : State) : Host.Outcome State Fault Refusal :=
  .next (if s.dev.st = .off then s else s.raise 0x5004 (srcDie d.val) 0 0 0)

/-- PWR_CONNLOC image (Table 12.13). -/
def connLoc (d p excess : Nat) (capped : Bool) : Nat :=
  d + 4 * p + min excess 255 * 2 ^ 8 + (if capped then 2 ^ 16 else 0) + 2 ^ 31

/-- The connection ceiling that sense point p of die d governs, and its change (R365). -/
def State.connCeil (s : State) (d p : Nat) : Nat :=
  if p < 48 then (s.clus (24 * d + p / 2)).connCeil.val else s.pw.dieConn[dieIx d].val
def State.setConnCeil (s : State) (d p v : Nat) : State :=
  if p < 48 then s.onClus (24 * d + p / 2) fun x => { x with connCeil := Fin.ofNat 8 v }
  else { s with pw := { s.pw with dieConn := s.pw.dieConn.set (dieIx d) (Fin.ofNat 8 v) } }

/-- Lowerings due after an excess above 60 % for a time (R365): one at 100 µs, one more for each further 1 ms. -/
def connDue (ticks : Nat) : Nat := if ticks < 100 * tUs then 0 else 1 + (ticks - 100 * tUs) / tMs

/-- A sense point as production fuses it (R364); one not listed as log 3 names it. -/
def State.connZ (s : State) (k : Nat) : Nat × Int := SMap.val (1000, 100) s.fuse.connZ k

/-- The modelled drop Z × I of a sense point, in units of 1/40,000 nV: Z in µΩ corrected by 0.39 % for each °C from its
calibration, I in mA, the temperature in 0.25 °C (R364). -/
def modelDrop (z : Nat × Int) (amps : Nat) (temp : Int) : Int := (z.1 * amps : Nat) * (40000 + 39 * (temp - z.2))

/-- CONNECTION_SENSE (R364, R365): one evaluation of a sense point, from its measured drop in µV, the measured current of its
cluster or quadrant in mA and the reading of the nearest sensor in 0.25 °C. Below a modelled drop of 5 mV there is none. -/
def execConnectionSense (d : Die) (point : Fin 64) (drop amps : Nat) (temp : Int) (s : State) :
    Host.Outcome State Fault Refusal :=
  let k := 64 * d.val + point.val
  let p := point.val
  let c := 24 * d.val + p / 2
  let q := if p < 48 then srcCl c 0 0 else srcDie d.val
  let m := modelDrop (s.connZ k) amps temp
  let more : Int := (drop * 40000000 : Nat) - m
  if s.dev.st = .off || (p < 48 && (s.clus c).region = .dark) || m < 5000000 * 40000 then .next s
  else
    let y := SMap.val ⟨0, none, none, false, 0, none⟩ s.pw.sense k
    let excess := (100 * more).toNat / m.toNat
    let hi30 := 100 * more > 30 * m
    let hi60 := 100 * more > 60 * m
    let o30 := if hi30 then some (y.over30.getD s.ticks) else none
    let o60 := if hi60 then some (y.over60.getD s.ticks) else none
    let suspect := hi30 && !y.told && s.ticks - o30.getD s.ticks ≥ tMs
    let due := if hi60 then connDue (s.ticks - o60.getD s.ticks) else 0
    let old := s.connCeil d.val p
    let new := old - (due - y.taken)
    let taken := if hi60 then max due y.taken else 0
    let floor := if hi60 && new = 0 then some (y.atFloor.getD s.ticks) else none
    let put := fun (s : State) (z : Sense) => { s with pw := { s.pw with sense := SMap.put k z s.pw.sense } }
    let s := put s ⟨excess, o30, o60, (y.told && hi30) || suspect, taken, floor⟩
    let s := if suspect then
        let l := connLoc d.val p excess (taken > 0)
        (((s.flag R.pwrStat 2 R.pwrConncnt 1).wr R.pwrConnloc l).raise 0x5005 q 0 l 0)
      else s
    let s := s.setConnCeil d.val p new
    let s := if new < old then
        let l := connLoc d.val p excess true
        let s := (s.flag R.pwrStat 3 R.pwrCcapcnt 1).wr R.pwrConnloc l
        if y.taken = 0 then s.raise 0x5006 q 0 l 0 else s
      else s
    match floor with
    | some t =>
      if s.ticks - t < 10 * tMs then .next s
      else
        let s := put s ⟨excess, o30, o60, y.told || suspect, taken, none⟩
        if p < 48 then .next (s.goDark c)
        else
          let l := connLoc d.val p excess true
          .next ((s.wr R.pwrConnloc l).raise 0x5007 q 0 l 0)
    | none => .next s

/-- Every connection ceiling is cleared (R365). -/
def State.connClear (s : State) : State :=
  { s with cl := s.cl.map (fun (p : Nat × Cl) => (p.1, { p.2 with connCeil := 7 })),
           pw := { s.pw with dieConn := #v[7, 7, 7, 7] } }

/-! ### Levers (R374, R375) -/

/-- Power of a point relative to OP7, in thousandths (Table 12.2, last row). -/
def vsqf (p : Nat) : Nat := [122, 166, 234, 324, 430, 552, 744, 1000].getD p 1000

/-- What an evaluation knows of the loads: `scale` units make 0.1 mW, the units of each die's meshes for one thousandth of
OP7, the units of HBM power for 1 % of the rate, and the lowest of each die's other ceilings. -/
structure Est where
  scale : Nat
  mesh : Vector Nat 4
  hbm : Nat
  other : Vector Nat 4
  deriving DecidableEq, Repr

/-- The point of die d without the arbiter's ceiling (R370). -/
def State.dieOther (s : State) (d : Nat) : Nat :=
  ({ s with pw := { s.pw with compute := #v[7, 7, 7, 7] } } : State).diePoint d

/-- The estimate from the last measurement: mesh power at the dies' points, HBM power at the throttle level. -/
def State.estimate (s : State) : Est :=
  let at_ := fun (d : Nat) => vsqf (s.diePoint d)
  let lvl := max s.pw.mem 1
  let d := at_ 0 * at_ 1 * at_ 2 * at_ 3 * lvl
  let m := fun (i : Fin 4) => s.pw.mesh[i] * 10000 * (d / at_ i.val)
  ⟨d, #v[m 0, m 1, m 2, m 3], s.pw.hbm * 10000 * (d / lvl),
    #v[s.dieOther 0, s.dieOther 1, s.dieOther 2, s.dieOther 3]⟩

/-- Power of die d's meshes at compute ceiling a. -/
def Est.meshAt (e : Est) (d a : Nat) : Nat := e.mesh[dieIx d] * vsqf (min a e.other[dieIx d])

/-- The first of a list with the largest (or smallest) measure. -/
def bestOf (f : Nat → Nat) (least : Bool) : List Nat → Option Nat
  | [] => none
  | a :: t => match bestOf f least t with
    | none => some a
    | some b => some (if (if least then f b < f a else f a < f b) then b else a)

/-- Active transmit wavelengths of a port, ascending. -/
def State.lit (s : State) (p : Nat) : List Nat := (List.range 8).filter fun i => (s.port p).active.getLsbD i

/-- LNK_PCTL.MINW. -/
def State.minw (s : State) (p : Nat) : Nat := s.rf (R.lnkPctl p) 1 4

/-- A wavelength of port p is parked: its highest-numbered active one (R308). -/
def State.park (s : State) (p : Nat) : State :=
  match (s.lit p).getLast? with
  | none => s
  | some w =>
    let s := s.onPort p fun x => { x with parked := x.parked ||| (1#8 <<< w) }
    let s := { s with pw := { s.pw with parked := p :: s.pw.parked } }
    s.raise 0x4004 (srcPort p) 0 (s.port p).parked.toNat 0

/-- The parked wavelength of port p with the lowest number is unparked (R308). -/
def State.unpark (s : State) (p : Nat) : State :=
  match (List.range 8).find? fun i => (s.port p).parked.getLsbD i with
  | none => s
  | some w => s.onPort p fun x =>
      { x with parked := x.parked &&& ~~~(1#8 <<< w), unpark := x.unpark ||| (1#8 <<< w) }

/-- Step of Table 12.6 of the memory lever. -/
def State.memStep (s : State) : Nat := ((List.range 11).find? fun k => memPct k ≤ s.pw.mem).getD 10

/-- One notch of a lever (0 links, 1 memory, 2 compute) with its estimated saving; none at the lever's floor. -/
def State.notch (s : State) (e : Est) (lever : Nat) : Option (State × Nat) :=
  if lever = 2 then
    let a := fun (d : Nat) => s.pw.compute[dieIx d].val
    ((bestOf (fun d => e.meshAt d (a d)) false ((List.range 4).filter fun d => a d > 0)).map fun d =>
      let v := a d - 1
      ({ s with pw := { s.pw with compute := s.pw.compute.set (dieIx d) (Fin.ofNat 8 v) } },
        e.meshAt d (a d) - e.meshAt d v))
  else if lever = 1 then
    let k := s.memStep
    if k ≥ 10 then none
    else some ({ s with pw := { s.pw with mem := memPct (k + 1) } }, e.hbm * (s.pw.mem - memPct (k + 1)))
  else
    (bestOf (fun p => (s.lit p).length) false
      ((List.range 32).filter fun p => (s.lit p).length > s.minw p)).map fun p => (s.park p, 5000 * e.scale)

/-- The release of one notch of a lever with its estimated increase; none where no notch is applied. A die with the least
mesh power, the step above, the wavelength parked last. -/
def State.unnotch (s : State) (e : Est) (lever : Nat) : Option (State × Nat) :=
  if lever = 2 then
    let a := fun (d : Nat) => s.pw.compute[dieIx d].val
    (bestOf (fun d => e.meshAt d (a d)) true ((List.range 4).filter fun d => a d < 7)).map fun d =>
      let v := a d + 1
      ({ s with pw := { s.pw with compute := s.pw.compute.set (dieIx d) (Fin.ofNat 8 v) } },
        e.meshAt d v - e.meshAt d (a d))
  else if lever = 1 then
    let k := s.memStep
    if k = 0 then none
    else some ({ s with pw := { s.pw with mem := memPct (k - 1) } }, e.hbm * (memPct (k - 1) - s.pw.mem))
  else match s.pw.parked with
    | [] => none
    | p :: t => some (({ s with pw := { s.pw with parked := t } } : State).unpark p, 5000 * e.scale)

/-- Levers, lowest rank first (R374). -/
def State.levers (s : State) : List Nat := [s.rf R.pwrPrio 4 2, s.rf R.pwrPrio 2 2, s.rf R.pwrPrio 0 2]

/-- Notches of one lever while there is need (R375): at most `fuel` of them, 28, 10 and 256 being all there are. -/
def State.give (e : Est) (lever : Nat) : Nat → State × Int → State × Int
  | 0, r => r
  | fuel + 1, (s, need) =>
    if need ≤ 0 then (s, need)
    else match s.notch e lever with
      | none => (s, need)
      | some (s, v) => State.give e lever fuel (s, need - v)

/-- A lever at its floor (R376). -/
def State.toFloor (s : State) (lever : Nat) : State :=
  (State.give s.estimate lever 300 (s, 10 ^ 40)).1

/-! ### Caps (R373, R377, R397) -/

/-- The last telemetry frame (Table 13.6). -/
def State.coolImage (s : State) : Nat :=
  match s.thm.cool with
  | none => 0
  | some f => (f.tin % 2 ^ 16).toNat + (f.tout % 2 ^ 16).toNat * 2 ^ 16 + f.flow * 2 ^ 32 + f.seq.toNat * 2 ^ 48
      + (if s.thm.lost then 0 else 2 ^ 56)

/-- The effective flow in mL/min (R399): while the tray's sensors are flagged, at most the flow P ÷ (CPV × rise). -/
def State.flowEff (s : State) : Nat :=
  match s.thm.cool with
  | none => 0
  | some f =>
    let rise := f.tout - f.tin
    if s.thm.flagged && rise ≥ 100 then min f.flow (s.thm.balP * 6 / (s.rf R.thmCool 0 13 * rise.toNat)) else f.flow

/-- The coolant cap (R396, R397). A single frame at or below 600 mL/min gives it no new value. -/
def State.coolNow (s : State) : Option Nat :=
  let bad := match s.thm.cool with
    | none => true
    | some f => f.flags.getLsbD 2
  if s.thm.lost || bad then some (s.rf R.thmCool 16 12)
  else if s.flowEff ≥ 1800 then none
  else if s.flowEff > 600 then some (2600 * s.flowEff / 1800)
  else s.thm.coolCap

/-- The coolant cap takes its value; its appearance is reported (R397). -/
def State.coolStep (s : State) : State :=
  let new := s.coolNow
  let old := s.thm.coolCap
  let s := { s with thm := { s.thm with coolCap := new } }
  match old, new with
  | none, some v => (s.flag R.thmStat 4 R.thmFlowcnt 1).raise 0x5109 srcSd 0 s.coolImage v
  | _, _ => s

/-- Envelopes are in use (R377). -/
def State.envOn (s : State) : Bool := s.rf R.pwrEnvctl 12 1 = 1

/-- The envelope cap moves one evaluation's step towards its target (R377). -/
def State.envMove (s : State) : State :=
  let r := s.pw.ramp.getD (s.rf R.pwrRamp 0 12)
  let t := s.pw.target * 10000
  let e := s.pw.ecap
  let e := if t < e then max t (e - r) else min t (e + r)
  { s with pw := { s.pw with ecap := e, falling := s.pw.falling && e != t } }

/-- A new target: a cap above it first drops to the greater of it and A100 (R377). -/
def State.setTarget (s : State) (t : Nat) (envelope : Bool) : State :=
  let e := s.pw.ecap
  { s with pw := { s.pw with target := t, ecap := if t * 10000 < e then min e (max (t * 10000) s.pw.a100) else e,
                             falling := envelope && t * 10000 < e } }

/-- UP of R373 in W per 100 ms: the lower of PWR_RAMP.UP and the RAMP of the envelope that governs. -/
def State.rampUp (s : State) : Nat :=
  let up := s.rf R.pwrRamp 0 12
  match s.pw.ramp with
  | some r => if s.envOn then min up r else up
  | none => up

/-- P_eff in 0.1 mW (R373). -/
def State.effCap (s : State) : Nat :=
  let opt := fun (o : Option Nat) (m : Nat) => match o with
    | some v => min m (v * 10000)
    | none => m
  let m := s.rf R.pwrCap 0 12 * 10000
  let m := if s.envOn then min m s.pw.ecap else m
  let m := opt s.pw.shedCap (opt s.thm.cap (opt s.thm.coolCap m))
  if s.pw.shedOn || (s.envOn && s.pw.falling) then m else min m (s.pw.a100 + s.rampUp * 5000)

/-! ### The evaluation (R373 to R376) -/

/-- Average in 0.1 mW of the last n samples of 1 µs (R359); a sample that is not held counts as 0 (log 85). -/
def meanOf (n : Nat) (hist : List Nat) : Nat := (hist.take n).foldl (· + ·) 0 / (100 * n)

/-- Package power of a sample in µW: the sum over its rails of voltage times current (R359). -/
def sampleUw (rails : List (Nat × Nat)) : Nat := rails.foldl (fun a r => a + r.1 * r.2) 0

/-- Samples enter the averages and PWR_MEAS (R359), and what else was measured is held for the evaluation. -/
def State.measure (s : State) (m : PowerMeas) : State :=
  let new := m.samples.map sampleUw
  let hist := (new ++ s.pw.hist).take 100000
  let p1ms := meanOf 1000 hist
  let a100 := meanOf 100000 hist
  let s := { s with pw := { s.pw with hist, p10 := meanOf 10 hist, p1ms, a100, pfc := m.pfc, mesh := m.mesh, hbm := m.hbm,
                                      secUw := new.foldl (· + ·) s.pw.secUw, secN := s.pw.secN + new.length } }
  ((s.wf R.pwrMeas 0 16 (min (p1ms / 10000) 65535)).wf R.pwrMeas 16 16 (min (a100 / 10000) 65535)).wf R.pwrMeas 48 16
    (min m.pfc 65535)

/-- R376: while HOLDDN is 1 the device holds with tile filler what demand falls short of A100 − UP ÷ 2. The filler that runs is
no demand (log 40). -/
def State.holdDown (s : State) : State :=
  let fill := if s.rf R.pwrRamp 12 1 = 1 then s.pw.a100 - s.rampUp * 5000 - (s.pw.p10 - s.pw.fill) else 0
  { s with pw := { s.pw with fill } }

/-- P_pred in 0.1 mW (R373). -/
def State.pred (s : State) : Nat := max s.pw.p10 (s.pw.pfc * 10000)

/-- R376: P10 above P_eff for 10 ms takes the levers below the highest-ranked to their floors. -/
def State.excursion (s : State) : State :=
  if s.pw.p10 ≤ s.pw.peff then { s with pw := { s.pw with high := none, excursion := false } }
  else
    let t := s.pw.high.getD s.ticks
    let s := { s with pw := { s.pw with high := some t } }
    if s.pw.excursion || s.ticks - t < 10 * tMs then s
    else
      let s := { s with pw := { s.pw with excursion := true } }
      let s := (s.levers.take 2).foldl (fun s l => s.toFloor l) s
      (s.flag R.pwrStat 9 R.pwrExccnt 1).raise 0x5009 srcSd 0 (s.pw.p10 / 10000) (s.pw.peff / 10000)

/-- R375: notches applied or released. -/
def State.balance (s : State) : State :=
  let pred := s.pred
  let hyst := s.rf R.pwrArb 0 8 * 10000
  let e := s.estimate
  if pred > s.pw.peff then
    let s := { s with pw := { s.pw with room := none } }
    (s.levers.foldl (fun r l => State.give e l 300 r) (s, (((pred - s.pw.peff) * e.scale : Nat) : Int))).1
  else if s.pw.peff - pred < hyst then { s with pw := { s.pw with room := none } }
  else
    let t := s.pw.room.getD s.ticks
    let s := { s with pw := { s.pw with room := some t } }
    if s.ticks - t < tMs then s
    else match s.levers.reverse.findSome? fun l => s.unnotch e l with
      | some (u, v) => if v ≤ (s.pw.peff - pred - hyst) * e.scale then u else s
      | none => s

/-- One evaluation on the last measurement. The envelope cap moves at evaluations 10 µs apart (R377). What holds for the
causes of slips is noted before it may end (R172). -/
def State.evaluate (s : State) : State :=
  let s := s.causesAll
  let s := if s.ticks - s.pw.evalAt ≥ 10 * tUs then
      let s := if s.envOn then s.envMove else s
      { s with pw := { s.pw with evalAt := s.ticks } }
    else s
  let s := s.coolStep
  let s := { s with pw := { s.pw with peff := s.effCap } }
  (s.wf R.pwrMeas 32 16 (min (s.pw.peff / 10000) 65535)).excursion.balance.holdDown

/-- ARBITER_EVALUATION. -/
def execArbiterEvaluation (m : PowerMeas) (s : State) : Host.Outcome State Fault Refusal :=
  .next (if s.dev.st = .off then s else (s.measure m).evaluate)

/-! ### Envelopes (R377) -/

/-- The CRC of R377 over a message's first 14 bytes. -/
def msgCrc (msg : Block16) : Nat :=
  crcMsb 16 0x1021 0xFFFF (msbBits ((List.range 14).map fun i => BitVec.ofNat 8 (fld msg (8 * i) 8)))

/-- An envelope governs: its CAP is the target and its RAMP the step (R377). -/
def State.govern (s : State) (cap ramp : Nat) : State :=
  ({ s with pw := { s.pw with ramp := some ramp, pendT := none } } : State).setTarget cap true

/-- ENVELOPE: an I3C private write of 16 bytes. -/
def execEnvelope (msg : Block16) (s : State) : Host.Outcome State Fault Refusal :=
  let cap := fld msg 16 16
  let ramp := fld msg 32 16
  let shed := fld msg 48 16
  let valid := fld msg 64 16
  let seq := fld msg 8 8
  let fresh := match s.pw.env with
    | some v => v.seq.toNat != seq
    | none => true
  let ok := fld msg 0 8 = 0x45 && fld msg 112 16 = msgCrc msg && fld msg 80 32 = 0 && 600 ≤ cap && cap ≤ 3000
    && 50 ≤ ramp && ramp ≤ 3000 && 600 ≤ shed && shed ≤ cap && 10 ≤ valid && valid ≤ 1000 && fresh
  if s.dev.st = .off || !s.envOn then .next s
  else if !ok then
    .next ((s.flag R.pwrStat 8 R.pwrEnvbadcnt 1).raiseLimited 0x500A tSec 0x500A srcSd 0 1 fun n => (n, 0))
  else
    let s := { s with pw := { s.pw with env := some ⟨BitVec.ofNat 8 seq, ramp, shed, valid⟩, envAt := s.ticks,
                                        lapsed := false } }
    let s := s.wr R.pwrEnv (cap + ramp * 2 ^ 16 + shed * 2 ^ 32 + seq * 2 ^ 48)
    .next (if s.pw.shedOn then { s with pw := { s.pw with pendT := some (cap, ramp) } } else s.govern cap ramp)

/-- ENVELOPE_LAPSE: no valid envelope within VALID ms of the last, or within 100 ms of the enable. -/
def execEnvelopeLapse (s : State) : Host.Outcome State Fault Refusal :=
  let lim := match s.pw.env with
    | some v => v.valid * tMs
    | none => 100 * tMs
  if s.dev.st = .off || !s.envOn || s.pw.lapsed || s.ticks - s.pw.envAt < lim then .next s
  else
    let safe := s.rf R.pwrEnvctl 0 12
    let s := { s with pw := { s.pw with lapsed := true, pendT := s.pw.pendT.map fun (p : Nat × Nat) => (safe, p.2) } }
    .next (((s.setTarget safe false).flag R.pwrStat 7 R.pwrEnvlostcnt 1).raise 0x500B srcSd 0 safe 0)

/-! ### Signals of the supply (R378, R379) -/

/-- SHED_N_ASSERT. -/
def execShedNAssert (s : State) : Host.Outcome State Fault Refusal :=
  if s.dev.st = .off || s.pw.shedOn then .next s
  else
    let cap := match s.pw.env with
      | some v => min (s.rf R.pwrShed 0 12) v.shed
      | none => s.rf R.pwrShed 0 12
    let s := { s with pw := { s.pw with shedOn := true, shedCap := some cap } }
    let s := (s.flag R.pwrStat 5 R.pwrShedcnt 1).raise 0x500C srcSd 0 cap 0
    .next s.evaluate

/-- SHED_N_RELEASE: SHED_N has been high for 1 ms. -/
def execShedNRelease (s : State) : Host.Outcome State Fault Refusal :=
  if !s.pw.shedOn then .next s
  else
    let s := { s with pw := { s.pw with shedOn := false, shedCap := none } }
    match s.pw.pendT with
    | some (cap, ramp) => .next (s.govern cap ramp)
    | none => .next s

/-- VR_ALERT_N_ASSERT. -/
def execVrAlertNAssert (d : Die) (s : State) : Host.Outcome State Fault Refusal :=
  if s.dev.st = .off || s.pw.vrOn[d] then .next s
  else
    let s := { s with pw := { s.pw with vrOn := s.pw.vrOn.set d true, vrCeil := s.pw.vrCeil.set d 0,
                                        vrUp := s.pw.vrUp.set d none } }
    .next ((s.flag R.pwrStat 6 R.pwrVrcnt 1).raise 0x500D (srcDie d.val) 0 0 0)

/-- VR_ALERT_N_RELEASE: the signal has been high for 1 ms, and the ceiling rises by a point; again at each further ms. -/
def execVrAlertNRelease (d : Die) (s : State) : Host.Outcome State Fault Refusal :=
  let due := s.pw.vrOn[d] || (match s.pw.vrUp[d] with | some t => s.ticks - t ≥ tMs | none => false)
  let v := s.pw.vrCeil[d].val + 1
  if !due || v > 7 then .next s
  else .next { s with pw := { s.pw with vrOn := s.pw.vrOn.set d false, vrCeil := s.pw.vrCeil.set d (Fin.ofNat 8 v),
                                        vrUp := s.pw.vrUp.set d (if v = 7 then none else some s.ticks) } }

/-! ### The load forecast line (R381, R382) -/

/-- Core voltage in mV and peak current in 0.1 A of a cluster at a point (Tables 0.4 and 12.2). -/
def coreMv (p : Nat) : Nat := [460, 480, 500, 530, 560, 590, 630, 680].getD p 680
def peakDa (p : Nat) : Nat := [39, 51, 69, 89, 112, 137, 173, 215].getD p 215

/-- Declared tiles of a cluster: the latest of some declarations (R174). -/
def declTiles (l : List Decl) : Nat := match l.getLast? with
  | some d => d.tiles
  | none => 0
def Cl.declared (x : Cl) : Nat := declTiles x.decls

/-- Level of VIN_CDd in units of 8 A: clusters' peak currents scaled by their declared tiles, and 9 A at 0.68 V for the
uncore, at 1.8 V with 90 % efficiency. -/
def State.fcstLevel (s : State) (d : Nat) : Nat :=
  let sum := s.cl.foldl (fun a (p : Nat × Cl) =>
    if dieOf p.1 = d then a + peakDa p.2.clk.op.val * coreMv p.2.clk.op.val * min p.2.declared 32 else a) 0
  min (ceilDiv (sum + 1958400) 4147200) 127

/-- A forecast frame (Table 12.8). -/
def fcstFrame (l : Nat → Nat) (shed : Bool) : BitVec 40 :=
  let w := 5 + l 0 * 2 ^ 3 + l 1 * 2 ^ 10 + l 2 * 2 ^ 17 + l 3 * 2 ^ 24 + (if shed then 2 ^ 31 else 0)
  BitVec.ofNat 40 (w + crcMsb 8 0x07 0 ((List.range 29).map fun i => w.testBit (i + 3)) * 2 ^ 32)

/-- LOAD_FORECAST_FRAME: from the end of the start until power-down; it publishes the declarations it carries (R382). `fc` is
P_fc in W with them, and where it rises the arbiter evaluates at once (R373). -/
def execLoadForecastFrame (fc : Nat) (s : State) : Host.Outcome State Fault Refusal :=
  if s.dev.st = .off || s.dev.st = .dawn then .next s
  else
    let pub := fun (x : Decl) => if x.pub.isNone then { x with pub := some s.ticks } else x
    let s := { s with pw := { s.pw with frame := fcstFrame s.fcstLevel s.pw.shedCap.isSome, frameAt := s.ticks },
                      cl := s.cl.map fun (p : Nat × Cl) => (p.1, { p.2 with decls := p.2.decls.map pub }) }
    if fc ≤ s.pw.pfc then .next s
    else .next (({ s with pw := { s.pw with pfc := fc } } : State).wf R.pwrMeas 48 16 (min fc 65535)).evaluate

end Sys2Proof.Machine
end

