-- ==== Sys2Proof/Machine/Thermal.lean ====
section
/-!
DEFINITION. Heat (chapter 13): sensors and the protection reading, the forecast model, thermal ceilings and cap, stacks,
coolant telemetry, heat balance, and the two wires. Readings are in 0.25 °C, the model's temperatures in 1/4096 °C.
-/

namespace Sys2Proof.Machine

/-! ### Hot spots (R385 to R388) -/

def State.hot (s : State) (h : Nat) : HotSpot := SMap.val HotSpot.reset s.thm.hs h
def State.setHot (s : State) (h : Nat) (x : HotSpot) : State :=
  { s with thm := { s.thm with hs := SMap.put h x s.thm.hs } }

/-- Source of a hot spot's events: its cluster, or the steward die for hot spot 96. -/
def srcHot (h : Nat) : Src := if h < 96 then srcCl h 0 0 else srcSd

/-- Model estimate of a hot spot's node (R389). The model has no node on the steward die: a free value (log 1). -/
def State.nodeEst (s : State) (h : Nat) : Int :=
  if h < 96 then SMap.val 0 s.thm.nodes (4 * h) else Config.unstated 387 s.ticks

/-- The protection reading in 1/4096 °C (R387). -/
def State.prot (s : State) (h : Nat) : Int :=
  let x := s.hot h
  let a := x.a.reading.toInt * 1024
  let b := x.b.reading.toInt * 1024
  if x.a.failed && x.b.failed then s.nodeEst h + 6 * 4096
  else if x.a.failed then b
  else if x.b.failed then a
  else max a b

/-- THM_HS image (Table 13.7). -/
def State.hsImage (s : State) (h : Nat) : Nat :=
  let x := s.hot h
  let fl := fun (b : Bool) (k : Nat) => if b then 2 ^ k else 0
  let m : Int := if h < 96 then SMap.val 0 s.thm.nodes (4 * h) else 0
  x.a.reading.toNat + x.b.reading.toNat * 2 ^ 11 + fl x.a.suspect 22 + fl x.b.suspect 23 + fl x.a.failed 24
    + fl x.b.failed 25 + (m.fdiv 1024 % 2 ^ 11).toNat * 2 ^ 32
    + ((SMap.val 0 s.thm.fcst (4 * h)).fdiv 1024 % 2 ^ 11).toNat * 2 ^ 43

/-- Both sensors of some hot spot of die d have failed, which holds its thermal ceiling at OP3 or below (R387). -/
def State.blind (s : State) (d : Nat) : Bool := s.thm.hs.any fun p =>
  p.1 < 96 && dieOf p.1 = d && p.2.a.failed && p.2.b.failed

/-- The thermal ceiling of a die and what R391 remembers of its change. -/
def State.setCeil (s : State) (d v : Nat) (down : Bool) : State :=
  { s with pw := { s.pw with thermal := s.pw.thermal.set (dieIx d) (Fin.ofNat 8 v) },
           thm := { s.thm with calm := s.thm.calm.set (dieIx d) s.ticks, lowered := s.thm.lowered.set (dieIx d) down } }

/-- A sensor fails (R386): it is left out of every rule until the next start. -/
def State.sensorFail (s : State) (h : Nat) (b : Bool) : State :=
  let x := s.hot h
  let s := s.setHot h (if b then { x with b := { x.b with failed := true }, apart := none }
    else { x with a := { x.a with failed := true }, apart := none })
  let s := (s.flag R.thmStat 7 R.thmFailcnt 1).raise 0x5101 (srcHot h) (if b then 1 else 0) 0 0
  let d := dieOf h
  if h < 96 && s.blind d && s.pw.thermal[dieIx d].val > 3 then s.setCeil d 3 true else s

/-- The junction limit (R393, R400): 105 °C runs the unit stop, once for each rise to it while the device is stopped (log 94);
after one, the steward's hot spot halts its two cores. -/
def State.junction (s : State) (h : Nat) (was : Int) (errs : Errs) : State :=
  if s.prot h < 105 * 4096 || (was ≥ 105 * 4096 && s.dev.stopped) then s
  else
    let s := if h = 96 && s.dev.stopped then { s with stw := { s.stw with halted := true } } else s
    s.stopUnits 0x5105 (srcHot h) (s.hsImage h) errs

/-- SENSOR_READING (R386, R387, R393): a reading of sensor A or B; `counted` says that its sequence count has changed. The
200 µs of a sensor that has not been read run from its first reading. -/
def execSensorReading (h : Fin 97) (b : Bool) (reading : BitVec 11) (counted : Bool) (errs : Errs) (s : State) :
    Host.Outcome State Fault Refusal :=
  let x := s.hot h.val
  let y := if b then x.b else x.a
  let was := s.prot h.val
  let y := { y with reading, at_ := if counted || y.at_ = 0 then s.ticks else y.at_ }
  let r := reading.toInt
  let cold := match s.thm.inlet with
    | some t => r * 25 < t - 1000
    | none => false
  let bad := s.ticks - y.at_ ≥ 200 * tUs || r < -40 || r > 600 || cold
  if s.dev.st = .off then .next s
  else
    let x := if b then { x with b := y } else { x with a := y }
    let far := !x.a.failed && !x.b.failed && (x.a.reading.toInt - x.b.reading.toInt).natAbs > 16
    let x := { x with apart := if far then some (x.apart.getD s.ticks) else none, told := x.told && far }
    let s := s.setHot h.val x
    let s := if bad && !y.failed then s.sensorFail h.val b else s
    .next (s.junction h.val was errs)

/-- A sensor far from the model becomes suspect (R388). -/
def State.suspectIf (s : State) (h : Nat) (b : Bool) : State :=
  let x := s.hot h
  let y := if b then x.b else x.a
  if y.suspect || (y.reading.toInt * 1024 - s.nodeEst h).natAbs ≤ 6 * 4096 then s
  else
    let y := { y with suspect := true }
    let s := s.setHot h (if b then { x with b := y } else { x with a := y })
    (s.flag R.thmStat 1 R.thmSuscnt 1).raise 0x5103 (srcHot h) 0 (s.hsImage h) 0

/-- SENSOR_DISAGREEMENT (R388): the readings have differed by more than 4 °C for 100 ms. -/
def execSensorDisagreement (h : Fin 97) (s : State) : Host.Outcome State Fault Refusal :=
  let x := s.hot h.val
  match x.apart with
  | none => .next s
  | some t =>
    if x.told || s.ticks - t < 100 * tMs then .next s
    else
      let s := (s.setHot h.val { x with told := true }).flag R.thmStat 0 R.thmDiscnt 1
      let s := s.raise 0x5102 (srcHot h.val) 0 (s.hsImage h.val) 0
      .next ((s.suspectIf h.val false).suspectIf h.val true)

/-! ### The model and throttling (R389 to R392) -/

/-- Boundary condition of the model in 0.01 °C: 40 °C until a valid inlet temperature has come (R396). -/
def State.inletC (s : State) : Int := s.thm.inlet.getD 4000

/-- Temperatures of the 96 nodes of die d. -/
def State.dieNodes (s : State) (d : Nat) : List Int :=
  (List.range 96).map fun i => SMap.val 0 s.thm.nodes (96 * d + i)

/-- Correction of a hot-spot node by one eighth of the difference to its highest trusted reading (R389). -/
def State.correct (s : State) (c : Nat) (t : Int) : Int :=
  let x := s.hot c
  let ok := fun (y : Sensor) => !y.failed && !y.suspect
  let a := x.a.reading.toInt * 1024
  let b := x.b.reading.toInt * 1024
  let t' := fun (r : Int) => t + (r - t).fdiv 8
  if ok x.a && ok x.b then t' (max a b) else if ok x.a then t' a else if ok x.b then t' b else t

/-- One update of the model (R389). -/
def State.advance (s : State) (m : ThermMeas) : State :=
  let f := fun (c : Nat) =>
    let n := Config.rcStep c (s.dieNodes (dieOf c)) (SMap.val 0 m.power c) s.inletC
    (List.range 4).map fun i => (4 * c + i, if i = 0 then s.correct c (n.getD 0 0) else n.getD i 0)
  { s with thm := { s.thm with nodes := (List.range 96).flatMap f } }

/-- Planned power of a cluster in mW, by its published declarations (R390). -/
def State.planned (s : State) (c : Nat) : Nat :=
  let x := s.clus c
  peakDa x.clk.op.val * coreMv x.clk.op.val * min (declTiles (x.decls.filter (·.pub.isSome))) 32 / 320

/-- The forecasts of the four nodes of each cluster (R390). -/
def State.forecast (s : State) (m : ThermMeas) : State :=
  let f := fun (c : Nat) =>
    let n := Config.rcForecast c (s.dieNodes (dieOf c)) (s.planned c + SMap.val 0 m.other c) s.inletC
    (List.range 4).map fun i => (4 * c + i, n.getD i 0)
  { s with thm := { s.thm with fcst := (List.range 96).flatMap f } }

/-- A forecast of a hot-spot node of the die is above, or a protection reading at (`strict`: above) a temperature in °C. -/
def State.hotter (s : State) (d : Nat) (deg : Int) (strict : Bool) : Bool :=
  ((List.range 24).map (24 * d + ·)).any fun c =>
    SMap.val 0 s.thm.fcst (4 * c) > deg * 4096 || (if strict then s.prot c > deg * 4096 else s.prot c ≥ deg * 4096)

/-- THM_CEIL image (Table 13.6). -/
def State.ceilImage (s : State) : Nat :=
  let t := s.pw.thermal
  t[0].val + t[1].val * 2 ^ 4 + t[2].val * 2 ^ 8 + t[3].val * 2 ^ 12 + s.thm.cap.getD 0 * 2 ^ 16

/-- A die's ceiling at an update (R391). -/
def State.throttle (s : State) (d : Nat) : State :=
  let i := dieIx d
  let v := s.pw.thermal[i].val
  let s := if s.hotter d 92 true then { s with thm := { s.thm with calm := s.thm.calm.set i s.ticks } } else s
  if s.hotter d 95 false then
    if v = 0 then s
    else
      let first := !s.thm.lowered[i]
      let s := s.setCeil d (v - 1) true
      if first then (s.flag R.thmStat 5 R.thmThrcnt 1).raise 0x5104 (srcDie d) 0 s.ceilImage 0 else s
  else if v < (if s.blind d then 3 else 7) && s.ticks - s.thm.calm[i] ≥ 10 * tMs then s.setCeil d (v + 1) false
  else s

/-- The thermal cap (R392); `stuck`: a die whose ceiling was at OP0 is still too hot. -/
def State.thermCap (s : State) (stuck : Bool) : State :=
  let hot := (List.range 4).any fun d => s.hotter d 95 false
  let clear := if hot then none else some (s.thm.clear.getD s.ticks)
  let set := fun (v : Option Nat) => { s with thm := { s.thm with cap := v, capAt := s.ticks, clear } }
  let keep : State := { s with thm := { s.thm with clear } }
  match s.thm.cap with
  | none => if stuck then set (some (max 600 (s.pw.p10 / 10000 - 100))) else keep
  | some v =>
    if stuck && s.ticks - s.thm.capAt ≥ 10 * tMs then set (some (max 600 (v - 100)))
    else match clear with
      | some t =>
        if s.ticks - t ≥ 10 * tMs && s.ticks - s.thm.capAt ≥ 100 * tMs then
          set (if v + 100 > s.rf R.pwrCap 0 12 then none else some (v + 100))
        else keep
      | none => keep

/-- THERMAL_MODEL_UPDATE (R389 to R392). -/
def execThermalModelUpdate (m : ThermMeas) (errs : Errs) (s : State) : Host.Outcome State Fault Refusal :=
  if s.dev.st = .off then .next s
  else
    let was := s.prot
    let s := (s.advance m).forecast m
    let stuck := (List.range 4).any fun d => s.pw.thermal[dieIx d].val = 0 && s.hotter d 95 false
    let s := (List.range 4).foldl (fun s d => s.throttle d) s
    let blind := s.thm.hs.filter fun p => p.2.a.failed && p.2.b.failed
    .next (blind.foldl (fun s p => s.junction p.1 (was p.1) errs) (s.thermCap stuck))

/-! ### Stacks (R394) -/

/-- THM_STACK image (Table 13.7). -/
def State.stackImage (s : State) (k : Nat) : Nat :=
  let x := SMap.val StackSt.reset s.thm.stack k
  x.temp.toNat + (if x.temp.toInt ≥ 380 then 2 ^ 11 else 0) + x.step * 2 ^ 12

/-- STACK_TEMPERATURE. At 105 °C the contents of HBM are no longer kept (R400). -/
def execStackTemperature (k : Fin 20) (temp : BitVec 11) (errs : Errs) (s : State) : Host.Outcome State Fault Refusal :=
  let x := SMap.val StackSt.reset s.thm.stack k.val
  let t := temp.toInt
  let hot := t ≥ 400 && x.step < 10 && (x.step = 0 || s.ticks - x.at_ ≥ tMs)
  let cool := t < 388 && x.step > 0 && s.ticks - x.warmAt ≥ 10 * tMs
  let step := if hot then x.step + 1 else if cool then x.step - 1 else x.step
  let at_ := if step != x.step then s.ticks else x.at_
  let warmAt := if step != x.step || t ≥ 388 then s.ticks else x.warmAt
  if s.dev.st = .off then .next s
  else
    let s := if step != x.step then s.causesAll else s
    let s := { s with thm := { s.thm with stack := SMap.put k.val ⟨temp, step, at_, warmAt⟩ s.thm.stack } }
    let s := if hot && x.step = 0 then
        (s.flag R.thmStat 6 R.thmStkcnt 1).raise 0x5106 (srcStack k.val) 0 (s.stackImage k.val) 0
      else s
    if t < 420 || (x.temp.toInt ≥ 420 && s.dev.stopped) then .next s
    else
      let s := s.stopUnits 0x5107 (srcStack k.val) (s.stackImage k.val) errs
      .next { s with hbm := { s.hbm with spoiled := true } }

/-! ### Coolant (R395 to R399) -/

/-- Signed 16-bit field of a message. -/
def msgInt (msg : Block16) (lo : Nat) : Int := (BitVec.ofNat 16 (fld msg lo 16)).toInt

/-- COOLANT_TELEMETRY. -/
def execCoolantTelemetry (msg : Block16) (errs : Errs) (s : State) : Host.Outcome State Fault Refusal :=
  let tin := msgInt msg 16
  let tout := msgInt msg 32
  let flow := fld msg 48 16
  let flags := fld msg 64 8
  let seq := fld msg 8 8
  let fresh := match s.thm.cool with
    | some f => f.seq.toNat != seq
    | none => true
  let ok := fld msg 0 8 = 0x43 && fld msg 112 16 = msgCrc msg && fld msg 72 40 = 0 && -1000 ≤ tin && tin ≤ 8000
    && -1000 ≤ tout && tout ≤ 9000 && flow ≤ 10000 && flags < 8 && fresh
  if s.dev.st = .off then .next s
  else if !ok then .next (s.count R.thmBadcnt 1)
  else
    let noFlow := flags ≥ 4
    let s := { s with thm := { s.thm with
      cool := some ⟨tin, tout, flow, BitVec.ofNat 8 seq, BitVec.ofNat 3 flags⟩, coolAt := s.ticks,
      balHeat := s.thm.balHeat + (flow : Int) * (tout - tin), balFrames := s.thm.balFrames + 1,
      lost := s.thm.lost && noFlow, inlet := if flags % 2 = 1 then s.thm.inlet else some tin } }
    if noFlow then .next s
    else
      let n := if s.flowEff ≤ 600 then s.thm.lowFlow + 1 else 0
      let s := { s with thm := { s.thm with lowFlow := min n 2 } }
      .next (if n ≥ 2 && !s.dev.stopped then s.stopUnits 0x510A srcSd s.coolImage errs else s)

/-- TELEMETRY_LAPSE (R396): no valid frame for 100 ms. -/
def execTelemetryLapse (s : State) : Host.Outcome State Fault Refusal :=
  if s.dev.st = .off || s.thm.lost || s.ticks - s.thm.coolAt < 100 * tMs then .next s
  else
    let s := ({ s with thm := { s.thm with lost := true } } : State).flag R.thmStat 3 R.thmTlostcnt 1
    .next (s.raise 0x5108 srcSd 0 s.coolImage 0)

/-- HEAT_BALANCE_CHECK (R399), once per second: Q over the accepted frames and P over the power samples of the second, in µW,
with the P of the second before. A second without a frame or a sample counts no comparison (log 95). -/
def execHeatBalanceCheck (s : State) : Host.Outcome State Fault Refusal :=
  let x := s.thm
  if s.dev.st = .off || s.ticks - x.balAt < 1000 * tMs then .next s
  else
    let q := (x.balHeat * s.rf R.thmCool 0 13).fdiv (6 * (max x.balFrames 1 : Nat))
    let p := s.pw.secUw / max s.pw.secN 1
    let last := x.balP
    let skip := s.rf R.thmCtl 0 1 = 0 || x.balFrames = 0 || s.pw.secN = 0 || p < 400000000
      || 20 * ((p : Int) - (last : Int)).natAbs ≥ last
    let s := { s with thm := { x with balP := p, balAt := s.ticks, balHeat := 0, balFrames := 0 },
                      pw := { s.pw with secUw := 0, secN := 0 } }
    if skip then .next s
    else if 100 * (q - p).natAbs > 15 * p then
      let n := x.mis + 1
      let s := { s with thm := { s.thm with mis := min n 5, hit := 0, flagged := x.flagged || n ≥ 5 } }
      .next (if n = 5 then
          (s.flag R.thmStat 2 R.thmBalcnt 1).raise 0x510C srcSd 0 (q.fdiv 1000000 % 2 ^ 64).toNat (p / 1000000)
        else s)
    else
      let n := x.hit + 1
      .next { s with thm := { s.thm with mis := 0, hit := min n 5, flagged := x.flagged && n < 5 } }

/-! ### Wires (R398, R401) -/

/-- COOL_FAIL_N_ASSERT. -/
def execCoolFailNAssert (errs : Errs) (s : State) : Host.Outcome State Fault Refusal :=
  .next (if s.dev.st = .off then s else s.stopUnits 0x510B srcSd 0 errs)

/-- THERMTRIP (R401, R455): THERMTRIP_N stays low until VAUX is removed; the management path records the STOP event, which
has no record in the ring. -/
def execThermtrip (s : State) : Host.Outcome State Fault Refusal :=
  if s.dev.st = .off || s.pins.trip then .next s
  else
    let s := { s with pins := { s.pins with trip := true }, dev := { s.dev with faultCold := true } }
    .next (s.recordStop 0x510D srcSd).enterFault

end Sys2Proof.Machine
end

