-- ==== Sys2Proof/Machine/Setup.lean ====
section
/-!
DEFINITION. The set-up path (R17 to R21, R411, R413, R451 to R457): one write of a register, with what follows it, and
the accesses that a stopped region holds.
-/

namespace Sys2Proof.Machine

/-! ### Registers as software sees them -/

/-- Address of a register's first byte. -/
def Hit.base (h : Hit) : Nat :=
  let st := if h.reg.stride = 0 then h.reg.width / 8 else h.reg.stride
  h.blk.place.1 + h.inst * h.blk.place.2.1 + h.reg.off + h.idx * st

/-- A field is writable by software (R17, R457). -/
def Acc.writable : Acc → Bool
  | .ro => false
  | .ros => false
  | _ => true

/-- Ranges outside of which a write stores the nearer limit, by block, offset and low bit of the field. -/
def limits (b : Blk) (off lo : Nat) : Option (Nat × Nat) :=
  match b, off, lo with
  | .seq, 0x28, 0 => some (64, 1023)
  | .mem, 0x100, 0 => some (1, 168)
  | .mem, 0x108, 0 => some (0, 639)
  | .shc, 0x0, 0 => some (8, 255)
  | .lnk, 0x0, 16 => some (1, 255)
  | .lnk, 0x0, 24 => some (1, 255)
  | .lnk, 0x20, 12 => some (1, 255)
  | .lnk, 0x100, 1 => some (1, 8)
  | .upd, 0x78, 0 => some (1, 15)
  | .thm, 0x4, 0 => some (2000, 5000)
  | .sec, 0x28, 0 => some (1, 255)
  | .sec, 0x28, 8 => some (1, 255)
  | .evt, 0x10, 0 => some (8, 20)
  | _, _, _ => none

/-- A field after a write (R17 to R20). -/
def Fld.after (b : Blk) (off : Nat) (f : Fld) (old v : Nat) : Nat :=
  let o := bitsOf old f.lo f.len
  let w := bitsOf v f.lo f.len
  match f.acc with
  | .rw | .rws => match limits b off f.lo with
    | some (lo, hi) => min (max w lo) hi
    | none => w
  | .w1c => Nat.xor o (Nat.land o w)
  | .w1s => Nat.lor o w
  | .cnt => if w = 0 then 0 else o
  | .ro | .ros => o
  | .wo => 0

/-- A register after a write. -/
def Hit.after (h : Hit) (old v : Nat) : Nat :=
  h.reg.flds.foldl (fun a f => a + f.after h.blk h.reg.off old v * 2 ^ f.lo) 0

/-! ### Ignored writes (R457) -/

/-- An ignored write is flagged, located and reported. -/
def State.ignore (s : State) (addr v : Nat) : State :=
  ((s.flag R.genStat 0 R.genIgncnt 1).wr R.genIgnloc (addr % 2 ^ 48 + 2 ^ 63)).raise 0x0101 srcSd 0 addr v

/-- Rules that refuse a write of a register in some state or setting. -/
def State.refuses (s : State) (a : Nat) (h : Hit) (v : Nat) : Bool :=
  (h.reg.lock && s.running) || !(h.reg.flds.any fun f => f.acc.writable)
  || ((a = R.evtBase || a = R.evtSize) && s.rf R.evtCtl 0 1 = 1)
  || ((a = R.stmCkbase || a = R.stmCktop) && s.rf R.stmCkctl 0 1 = 1)
  || (a = R.updRingtab && s.rf R.updCtl 0 1 = 1)
  || (a = R.evtCons && (s.rd R.evtProd + 2 ^ 32 - v % 2 ^ 32) % 2 ^ 32 > 2 ^ s.rf R.evtSize 0 5)
  || (a = R.memMgctl && bitsOf v 10 1 = 1 && s.dev.st != .standby)

/-! ### The event ring (R467 to R471) -/

/-- Bytes of a record (Table 16.8). -/
def EvRec.bytes (r : EvRec) (phase : Nat) : List Byte :=
  natLe 8 r.time.toNat ++ natLe 2 r.code.toNat ++ natLe 1 (r.sev.code + 8 * phase + (if r.lost then 16 else 0))
    ++ natLe 1 r.src.die ++ natLe 1 r.src.cluster ++ natLe 1 (r.src.kind * 32 + r.src.index) ++ natLe 2 r.arg.toNat
    ++ natLe 8 r.d0.toNat ++ natLe 8 r.d1.toNat

/-- The ring can take a record. -/
def State.evtRoom (s : State) : Bool :=
  s.rf R.evtCtl 0 1 = 1 && (s.rd R.evtProd + 2 ^ 32 - s.rd R.evtCons) % 2 ^ 32 < 2 ^ s.rf R.evtSize 0 5

/-- Record number EVT_PROD is written. -/
def State.evtPut (s : State) (r : EvRec) : State :=
  let k := s.rd R.evtProd
  let n := s.rf R.evtSize 0 5
  let s := (s.writeAll .steward [(s.rd R.evtBase + 32 * (k % 2 ^ n), r.bytes ((k / 2 ^ n + 1) % 2))] 0 []).2
  s.wr R.evtProd ((k + 1) % 2 ^ 32)

/-- When space returns the reserve is written in order, and then one record of the losses. -/
def State.evtDrain (s : State) : State :=
  let s := s.evt.reserve.foldl (fun s r =>
    if s.evtRoom then { s.evtPut r with evt := { s.evt with reserve := s.evt.reserve.drop 1 } } else s) s
  if s.evt.reserve.isEmpty && s.evt.lost > 0 && s.evtRoom then
    let r : EvRec := ⟨s.time.meridian, 0x0301, .notice, srcSd, 0, BitVec.ofNat 64 s.evt.lost, 0, true⟩
    { s.evtPut r with evt := { s.evt with lost := 0 } }
  else s

/-- EVENT_RECORD: the oldest record of a unit's queue reaches the writer (R468, R469). -/
def execEventRecord (unit : Nat) (s : State) : Host.Outcome State Fault Refusal :=
  match SMap.val [] s.evt.queues unit with
  | [] => .next s
  | r :: t =>
    let queues := if t.isEmpty then SMap.del unit s.evt.queues else SMap.put unit t s.evt.queues
    let s := ({ s with evt := { s.evt with queues } } : State).evtDrain
    if s.evt.reserve.isEmpty && s.evtRoom then .next (s.evtPut r)
    else if r.sev.code ≥ 2 && s.evt.reserve.length < 64 then
      .next { s with evt := { s.evt with reserve := s.evt.reserve ++ [r] } }
    else .next s.loseRec

/-! ### What follows a write -/

/-- A port is enabled or disabled (R304): disabled, its lasers go dark and its messages take other ports. -/
def State.portSwitch (s : State) (p : Nat) (on : Bool) : State :=
  let st := (s.port p).st
  if on then (if st = .off then s.onPort p fun x => { x with st := .dark, since := s.ticks } else s)
  else if st = .off then s
  else
    ((s.onPort p fun x => { x with st := .off, qual := false }).rerouteAll p).resetPort p .off

/-- A margin run begins (R229): no part of HBM can be relied on until it is cleared. -/
def State.marginStart (s : State) (v : Nat) : State :=
  let ch := bitsOf v 0 10
  let s := s.wf R.memMgctl 10 1 0
  if s.hbm.margin.isSome || ch ≥ 640 then s
  else
    let s := { s with hbm := { s.hbm with margin := some ch, spoiled := true } }
    s.wf R.memMgctl 11 2 1

/-- A rekey of every UP port (R316). -/
def State.rekeyAll (s : State) : State :=
  let s := s.wf R.lnkCtl 15 1 0
  (List.range 32).foldl (fun s p => if (s.port p).st = .up then s.onPort p fun x => x.rekeyed p s.ticks else s) s

/-! ### Epoch commands (R460, R461) -/

/-- CFG_FAIL image: block code, offset, reason and index of a failure (reason, register, index). -/
def failImage (f : Nat × Nat × Nat) : Nat :=
  let code := match (hitAt f.2.1).map (·.blk) with
    | some .gen => 0x01 | some .cfg => 0x02 | some .til => 0x10 | some .stmd => 0x14 | some .mem => 0x20
    | some .upd => 0x30 | some .lnk => 0x40 | some .pwr => 0x50 | _ => 0
  code + f.2.1 % 2 ^ 16 * 2 ^ 8 + f.1 * 2 ^ 24 + f.2.2 % 2 ^ 32 * 2 ^ 32

/-- An APPLY that is refused or fails at the instant (R461, R462). -/
def State.applyFail (s : State) (f : Nat × Nat × Nat) (t : BitVec 64) : State :=
  let s := (s.wr R.cfgFail (failImage f)).flag R.cfgStat 1 R.cfgApfcnt 1
  s.raise 0x0203 srcSd 0 (failImage f) t.toNat

/-- 100 µs in Meridian units. -/
def leadUnits : Nat := 100 * merUs

/-- A write of CFG_CMD (Table 16.5). -/
def State.cfgCmd (s : State) (v : Nat) : State :=
  let set := fun (p : EpochPhase) => { s with cfg := { s.cfg with phase := p } }
  let ph := s.cfg.phase
  let now := s.time.meridian.toNat
  match v % 4 with
  | 1 => if ph = .staged then set .checking else s.ignore R.cfgCmd v
  | 2 =>
    if ph != .checked then s.ignore R.cfgCmd v
    else
      let t := if s.rd R.cfgInstant = 0 then now + leadUnits else s.rd R.cfgInstant
      if t < now + leadUnits then s.applyFail (9, R.cfgInstant, 0) (BitVec.ofNat 64 t)
      else { s with cfg := { s.cfg with phase := .armed, at_ := BitVec.ofNat 64 t } }
  | 3 =>
    if ph = .staged || ph = .checked || (ph = .armed && now < s.cfg.at_.toNat) then s.dropEpoch
    else s.ignore R.cfgCmd v
  | _ => s

/-- Staged writes are taken in this phase (Table 16.5). -/
def EpochPhase.takes : EpochPhase → Bool
  | .checking => false
  | .armed => false
  | _ => true

/-- A staged value is written, and the epoch's phase follows. -/
def State.stage (s : State) (a v : Nat) : State :=
  let s := { s with regs := { s.regs with staged := SMap.put a (BitVec.ofNat 64 v) s.regs.staged } }
  if s.cfg.phase = .applying then s
  else { s with cfg := { s.cfg with phase := if s.differs then .staged else .idle } }

/-- What a write of a register that is not staged does besides storing it. -/
def State.follow (s : State) (a : Nat) (h : Hit) (old new v : Nat) : State :=
  if a = R.cfgCmd then s.cfgCmd v
  else if a = R.pwrConnclr then (if v % 2 = 1 then s.connClear else s)
  else if a = R.pwrEnvctl then (if bitsOf old 12 1 = 0 && bitsOf new 12 1 = 1 then s.envReset else s)
  else if a = R.memMgctl then (if bitsOf v 10 1 = 1 then s.marginStart v else s)
  else if a = R.evtCons || a = R.evtCtl then s.evtDrain
  else if h.blk = .lnk && h.reg.off = 0x100 then s.portSwitch h.idx (new % 2 = 1)
  else s

/-- One whole write of a register that accepts it or ignores it; `addr` is the access's own address. -/
def State.writeReg (s : State) (addr : Nat) (h : Hit) (v given : Nat) : State :=
  let a := h.base
  if s.refuses a h v then s.ignore addr given
  else if a = R.lnkCtl then
    let s := s.wr a (setBits (h.after (s.rd a) v) 0 12 (s.rf a 0 12))
    let s := if s.cfg.phase.takes then s.stage a (v % 2 ^ 12) else s
    if s.rf a 15 1 = 1 then s.rekeyAll else s
  else if h.reg.staged then
    if s.cfg.phase.takes then s.stage a (h.after (s.nextVal a) v) else s.ignore addr given
  else
    let old := s.rd a
    let new := h.after old v
    (s.wr a new).follow a h old new v

/-! ### Accesses (R411, R413, R453) -/

/-- The region of a block is in a frequency-change stop. -/
def State.inStop (s : State) (h : Hit) : Bool :=
  match h.blk with
  | .til | .vec | .seq | .stm => (s.clus h.inst).clk.stopAt.isSome
  | .syn | .shc => s.pw.dieClk[dieIx h.inst].stopAt.isSome
  | _ => false

/-- The block has no running clock (R413): the datapath's blocks outside Active, every block of a Dusk or Dark region. -/
def State.unclocked (s : State) (h : Hit) : Bool :=
  let r := (s.clus h.inst).region
  match h.blk with
  | .til | .vec | .stm => r != .active
  | .seq => r = .dusk || r = .dark
  | _ => false

/-- An access is aligned and of a size its register takes (R453). -/
def Hit.fits (h : Hit) (size : Nat) : Bool :=
  (h.byte = 0 && size = h.reg.width / 8) || (h.reg.width = 64 && size = 4 && (h.byte = 0 || h.byte = 4))

/-- The set-up path works (R453): not in OFF and not in steps 1 and 2 of a start, which end at 1.5 s (Table 15.5), with the
wait for RESET_N and the rails before them. -/
def State.setupOpen (s : State) : Bool :=
  match s.dev.st with
  | .off => false
  | .dawn => !s.dev.inReset && match s.dev.start with
    | some q => s.ticks - q.at_ ≥ 1500 * tMs
    | none => false
  | _ => !s.dev.inReset

/-- A write access that reaches its block. -/
def State.landWrite (s : State) (addr size : Nat) (v : Word) : State :=
  match hitAt addr with
  | none => s.ignore addr v.toNat
  | some h =>
    let a := h.base
    if !h.fits size || s.unclocked h then s.ignore addr v.toNat
    else if size = 8 || h.reg.width = 32 then s.writeReg addr h (v.toNat % 2 ^ h.reg.width) v.toNat
    else if h.byte = 0 then
      if h.reg.flds.any fun f => f.acc.writable then
        { s with regs := { s.regs with whold := SMap.put a (BitVec.ofNat 32 v.toNat) s.regs.whold } }
      else s.ignore addr v.toNat
    else
      let low := match SMap.find a s.regs.whold with
        | some w => w.toNat
        | none => s.nextVal a % 2 ^ 32
      let s := { s with regs := { s.regs with whold := SMap.del a s.regs.whold } }
      s.writeReg addr h (low + v.toNat % 2 ^ 32 * 2 ^ 32) v.toNat

/-- The set-up path takes a write: not in OFF or in a start's steps 1 and 2 (R453); behind a held access it waits, and a
region in its stop holds it (R411). -/
def State.regWrite (s : State) (addr size : Nat) (v : Word) : State :=
  if !s.setupOpen then s
  else
    let held := !s.regs.held.isEmpty || match hitAt addr with
      | some h => s.inStop h
      | none => false
    if held then { s with regs := { s.regs with held := s.regs.held ++ [(addr, size, v, s.ticks)] } }
    else s.landWrite addr size v

/-- Accesses that waited go on in order. -/
def State.unhold (s : State) (l : List (Nat × Nat × Word × Nat)) : State :=
  l.foldl (fun s p => s.regWrite p.1 p.2.1 p.2.2.1) { s with regs := { s.regs with held := [] } }

/-! ### Rows -/

/-- REGISTER_WRITE. -/
def execRegisterWrite (addr size : Nat) (value : Word) (s : State) : Host.Outcome State Fault Refusal :=
  .next (s.regWrite addr size value)

/-- STAGED_REGISTER_WRITE. -/
def execStagedRegisterWrite (addr size : Nat) (value : Word) (s : State) : Host.Outcome State Fault Refusal :=
  .next (s.regWrite addr size value)

/-- CHECK: CFG_CMD is written. -/
def execCheck (value : BitVec 32) (s : State) : Host.Outcome State Fault Refusal :=
  .next (s.regWrite R.cfgCmd 4 (value.setWidth 64))

/-- APPLY: CFG_CMD is written. -/
def execApply (value : BitVec 32) (s : State) : Host.Outcome State Fault Refusal :=
  .next (s.regWrite R.cfgCmd 4 (value.setWidth 64))

/-- DISCARD: CFG_CMD is written. -/
def execDiscard (value : BitVec 32) (s : State) : Host.Outcome State Fault Refusal :=
  .next (s.regWrite R.cfgCmd 4 (value.setWidth 64))

/-- EVT_CONS_WRITE. -/
def execEvtConsWrite (value : BitVec 32) (s : State) : Host.Outcome State Fault Refusal :=
  .next (s.regWrite R.evtCons 4 (value.setWidth 64))

/-- CONNECTION_CLEAR: PWR_CONNCLR is written. -/
def execConnectionClear (value : BitVec 32) (s : State) : Host.Outcome State Fault Refusal :=
  .next (s.regWrite R.pwrConnclr 4 (value.setWidth 64))

/-- PORT_ENABLE: LNK_PCTL of a port is written. -/
def execPortEnable (p : Port) (value : BitVec 32) (s : State) : Host.Outcome State Fault Refusal :=
  .next (s.regWrite (R.lnkPctl p.val) 4 (value.setWidth 64))

/-- LNK_CTL_REKEY: LNK_CTL is written. -/
def execLnkCtlRekey (value : BitVec 32) (s : State) : Host.Outcome State Fault Refusal :=
  .next (s.regWrite R.lnkCtl 4 (value.setWidth 64))

/-- MARGIN_RUN_START: MEM_MGCTL is written. -/
def execMarginRunStart (value : BitVec 32) (s : State) : Host.Outcome State Fault Refusal :=
  .next (s.regWrite R.memMgctl 4 (value.setWidth 64))

/-- FREQUENCY_STOP_RELEASE: the region runs again, and the accesses held for it go on. -/
def execFrequencyStopRelease (r : Region) (locked aligned : Bool) (s : State) : Host.Outcome State Fault Refusal :=
  let s := s.stopRelease r locked aligned
  .next (s.unhold s.regs.held)

/-- SETUP_ACCESS_TIMEOUT (R411): a held write without an answer for 10 µs is discarded, and those behind it go on. -/
def execSetupAccessTimeout (s : State) : Host.Outcome State Fault Refusal :=
  match s.regs.held with
  | [] => .next s
  | (addr, _, _, t) :: rest =>
    if s.ticks - t < 10 * tUs then .next s
    else
      let s := (s.flag R.clkStat 2 R.clkRegtmocnt 1).raise 0x5202 srcSd 0 addr 0
      .next (s.unhold rest)

/-- REFCLK_LOSS (R423): the PLLs hold over, and the unit stop runs on the held-over clocks. -/
def execRefclkLoss (errs : Errs) (s : State) : Host.Outcome State Fault Refusal :=
  if s.dev.st = .off || s.time.holdover then .next s
  else
    let s := { s with time := { s.time with holdover := true, slew := 0 } }
    .next ((s.flag R.clkStat 0 R.clkRefcnt 1).stopUnits 0x5204 srcSd 0 errs)

/-- MARGIN_RUN_DONE (R228, R229): the windows of the run are reported. What it wrote can be relied on no more than before. -/
def execMarginRunDone (rdt wrt rdv wrv vddq : BitVec 8) (s : State) : Host.Outcome State Fault Refusal :=
  match s.hbm.margin with
  | none => .next s
  | some ch =>
    let w := rdt.toNat + wrt.toNat * 2 ^ 8 + rdv.toNat * 2 ^ 16 + wrv.toNat * 2 ^ 24 + vddq.toNat * 2 ^ 32
    let s := { s with hbm := { s.hbm with margin := none, spoiled := true } }
    let s := (s.wr R.memMgres (marginImage ch w)).wf R.memMgctl 11 2 2
    .next (if marginPass w then s else s.marginLow ch w)

end Sys2Proof.Machine
end

