-- ==== Sys2Proof/Machine/Epoch.lean ====
section
/-!
DEFINITION. Configuration epochs (R458 to R465): the consistency check in the order of Table 16.4, what an applied epoch
installs, field repairs (R113 to R116), admission (R170, R171), and a channel map-out (R223 to R225).
-/

namespace Sys2Proof.Machine

/-- A failure: reason, address of the register and index (CFG_FAIL of Table 16.7). -/
abbrev Fail := Nat × Nat × Nat

def failIf (b : Bool) (reason reg index : Nat) : Option Fail := if b then some (reason, reg, index) else none

/-- The first failure. -/
def firstFail : List (Option Fail) → Option Fail
  | [] => none
  | some f :: _ => some f
  | none :: t => firstFail t

/-! ### The state that the epoch would leave -/

/-- Every staged value installed. -/
def State.installed (s : State) : State :=
  let t := s.regs.staged.foldl (fun t p => t.wr p.1 (s.nextVal p.1)) s
  { t with regs := { t.regs with staged := [] } }

/-- Channels that MEM_MAPMASK takes out of the map: those it names that are live and not leaving already (R223). -/
def State.leaving (s : State) : List Nat :=
  let now := match s.hbm.mapOut with
    | some m => if m.flushed then [] else m.chans
    | none => []
  (List.range 640).filter fun c =>
    (s.nextVal (R.memMapmask (c / 64))).testBit (c % 64) && s.chanLive c && !now.contains c

/-- First address above HBM after the epoch (R456). -/
def State.newTop (s : State) : Nat := s.hbmTop - s.leaving.length * 2 ^ 31

/-- Channels live after the epoch. -/
def State.newLive (s : State) : Nat := s.newTop / 2 ^ 31

/-- A table lies in populated memory after the epoch (R8, R459). -/
def State.holds (s : State) (a n : Nat) : Bool := a + n ≤ s.newTop || s.inHost a n

/-! ### Field repairs (R113 to R116) -/

/-- The spare that a repair of a cluster needs is in use. -/
def State.spareUsed (s : State) (c kind tile : Nat) : Bool :=
  match kind with
  | 1 => s.rf (R.tilCellmap c tile) 5 1 = 1
  | 2 => s.rf (R.tilCellmap c tile) 13 1 = 1
  | 3 => s.rf (R.tilSpare c) 5 1 = 1
  | _ => false

/-- The repair that the next epoch makes in a cluster: its kind, tile and index. An applied repair that TIL_REPAIR still
names is not made again. -/
def State.repair (s : State) (c : Nat) : Option (Nat × Nat × Nat) :=
  let v := s.nextVal (R.tilRepair c)
  if v = s.rd (R.tilRepair c) then none
  else if bitsOf v 0 3 = 0 then none
  else some (bitsOf v 0 3, bitsOf v 3 5, bitsOf v 8 5)

/-- R114 on the repair of a cluster. -/
def State.repairFail (s : State) (c : Nat) : Option Fail :=
  let v := s.nextVal (R.tilRepair c)
  let kind := bitsOf v 0 3
  let a := R.tilRepair c
  let made := (s.repair c).isSome
  firstFail [failIf (made && s.running) 4 a c, failIf (made && s.spareUsed c kind (bitsOf v 3 5)) 6 a c,
    failIf (kind ≥ 5 || (kind != 1 && kind != 2 && bitsOf v 8 5 != 0)) 1 a c,
    failIf (made && (s.clus c).region = .dark) 11 a c]

/-- A logical tile's store is cleared and its banks are free (R115); its bindings end (R184) and its decoders hold no tables
(R98). -/
def State.clearTile (s : State) (c t : Nat) : State :=
  (s.onTile c t fun y => { y with store := [], bank := #v[.free, .free], tables := none }).onClus c fun x =>
    { x with tileLive := SMap.del t x.tileLive, tileShadow := SMap.del t x.tileShadow }

/-- A repair is applied (R113, R115, R116). -/
def State.doRepair (s : State) (c kind tile index : Nat) : State :=
  let m := R.tilCellmap c tile
  match kind with
  | 1 => ((s.wf m 0 5 index).wf m 5 2 3).clearTile c tile
  | 2 => ((s.wf m 8 5 index).wf m 13 2 3).clearTile c tile
  | 3 =>
    let s := s.wr (R.tilSpare c) (tile + 2 ^ 5 + 2 ^ 6)
    let spare := (SMap.val 0 s.fuse.spareMap c).toNat
    (s.wr m (setBits spare 15 1 (s.rf m 15 1))).clearTile c tile
  | 4 =>
    let mask := s.rf (R.tilAvail c) 0 32
    let mask := if mask.testBit tile then mask - 2 ^ tile else mask
    let img := mask + (maskTiles mask).length * 2 ^ 32
    let s := (s.wf m 15 1 1).wr (R.tilAvail c) img
    s.raise 0x1003 (srcCl c 0 0) 0 img 0
  | _ => s

/-! ### Reservations (Table 6.5, R170, R171) -/

/-- An entry of the reservation table. -/
def State.resEntry (s : State) (base i : Nat) : Block16 := BitVec.ofNat 128 (leNat (s.mem.bytes (base + 16 * i) 16))

/-- An entry breaks Table 6.5, or names a Dark cluster as its owner (R363). -/
def State.resBad (s : State) (e : Block16) : Bool :=
  let kind := fld e 32 2
  let inst := fld e 40 7
  let lim := [0, 3, 3, 31].getD kind 0
  fld e 0 32 = 0 || inst > lim || (kind = 0 && fld e 47 1 = 1) || fld e 48 7 > 100
    || !zeroBits e [(34, 6), (55, 1), (56, 72)] || (fld e 48 7 < 96 && s.isDark (fld e 48 7))

/-- The set that the epoch leaves installed, and whether it changes. -/
def State.newRes (s : State) : SMap Block16 × Bool :=
  let base := s.nextVal R.stmResbase
  let n := bitsOf (s.nextVal R.stmRescnt) 0 11
  if base = s.rd R.stmResbase && s.nextVal R.stmRescnt = s.rd R.stmRescnt then (s.resTab, false)
  else (((List.range n).drop 1).map fun i => (i, s.resEntry base i), true)

/-- Charge of a set on a resource that is not the HBM pool (R170). -/
def chargeOf (m : SMap Block16) (kind inst dir : Nat) : Nat :=
  m.foldl (fun a p =>
    if fld p.2 32 2 = kind && fld p.2 40 7 = inst && fld p.2 47 1 = dir then a + fld p.2 0 32 else a) 0

/-- Charge of a set on every live channel, for L live channels (R170). -/
def poolCharge (m : SMap Block16) (l : Nat) : Nat :=
  m.foldl (fun a p => if fld p.2 32 2 = 0 then a + ceilDiv (17 * fld p.2 0 32) (16 * l) else a) 0

/-- Ceilings of Table 5.11 by KIND. -/
def ceilingOf (kind : Nat) : Nat := [87040, 870400, 3400000, 170000].getD kind 0

/-- The first resource whose ceiling the set that the epoch leaves exceeds: its KIND and instance as CFG_FAIL.INDEX, and
the charge (R171). -/
def State.exceeds (s : State) : Option (Nat × Nat) :=
  let m := (s.newRes).1
  let gone := s.leaving
  let ch := ((List.range 640).find? fun c => s.chanLive c && !gone.contains c).getD 0
  let rest := [(1, 8), (2, 8), (3, 64)].flatMap fun (k : Nat × Nat) =>
    (List.range k.2).map fun n => (k.1, n, chargeOf m k.1 (n / 2) (n % 2))
  (((0, ch, poolCharge m s.newLive) :: rest).find? fun r => r.2.2 > ceilingOf r.1).map fun r =>
    (r.1 * 2 ^ 30 + r.2.1, r.2.2)

/-- Admission takes part in the epoch (R171). -/
def State.readmits (s : State) : Bool := (s.newRes).2 || !s.leaving.isEmpty

/-- Table 6.5, R170 and R171 on the reservation set. -/
def State.resFail (s : State) : Option Fail :=
  let base := s.nextVal R.stmResbase
  let n := bitsOf (s.nextVal R.stmRescnt) 0 11
  let bad := ((List.range n).drop 1).find? fun i => s.resBad (s.resEntry base i)
  firstFail [failIf (n > 0 && !s.holds base (16 * n)) 2 R.stmResbase 0, failIf (n > 1024) 2 R.stmRescnt 0,
    bad.map fun i => (7, R.stmResbase, i),
    if (s.newRes).2 && s.leaving.isEmpty then s.exceeds.map fun r => (5, R.stmResbase, r.1) else none]

/-! ### The other tables -/

/-- Bases must lie in the host window (Tables 9.12). A base of 0 names no table. -/
def hostTable (s : State) (a n : Nat) : Option Fail := failIf (!s.inHost (s.nextVal a) n) 2 a 0

/-- A shard table entry breaks Table 9.5; `t` has the staged values installed. -/
def shardBad (t : State) (i : Nat) : Bool :=
  let y := t.shard i
  let wsBad := [y.ws 0, y.ws 1].any fun a => a % 64 != 0 || !t.inHost a (4 * y.nelem)
  !y.resOk || y.nelem = 0 || y.nelem % 4096 != 0 || wsBad
    || (y.noise != 0 && (y.noise % 64 != 0 || !t.inHost y.noise (64 + 8 * y.nelem)))

/-- Second moments are zero unless the rule is 1 (Table 9.5). -/
def shardClash (t : State) (i : Nat) : Bool :=
  let y := t.shard i
  (t.pset y.pset).rule != 1 && (y.m2h 0 != 0 || y.m2h 1 != 0)

def shardFail (s t : State) : Option Fail :=
  let n := t.shardCnt
  if n = 0 then none
  else firstFail [hostTable s R.updShtab (128 * n),
    ((List.range n).find? (shardBad t)).map fun i => (7, R.updShtab, i),
    ((List.range n).find? (shardClash t)).map fun i => (8, R.updShtab, i)]

/-- A parameter set breaks Table 9.6. -/
def psetBad (b : Block64) : Bool :=
  let p := psetOf b
  p.rule = 3 || p.mrmode > 1 || p.b1 > 2 ^ 30 || p.b2 > 2 ^ 30 || p.wd > 2 ^ 30 || p.lrmul ≥ 2 ^ 31 || p.epsm ≥ 2 ^ 31
    || (if p.rule = 1 then p.epsm = 0 else p.epsm != 0) || !zeroBits b [(4, 28), (200, 56), (320, 192)]

/-- The first part of the schedule table that breaks Table 9.7: 0 its header, i + 1 breakpoint i. -/
def schedBad (bs : List Byte) : Option Nat :=
  let n := leAt bs 0 1
  if n = 0 || n > 64 || leAt bs 3 1 != 0 || leAt bs 4 4 ≥ 2 ^ 31 || leAt bs 8 8 != 0 then some 0
  else
    ((List.range n).find? fun i =>
      leAt bs (24 + 16 * i) 4 ≥ 2 ^ 31 || leAt bs (28 + 16 * i) 4 != 0
        || (i > 0 && leAt bs (16 + 16 * i) 8 ≤ leAt bs (16 * i) 8)).map (· + 1)

/-- R283 on the parameter table and the schedule table. -/
def schedFail (s : State) : Option Fail :=
  let p := s.nextVal R.updPartab
  let l := s.nextVal R.updLrtab
  let n := leNat (s.mem.bytes l 1)
  firstFail [
    if p = 0 then none
    else firstFail [hostTable s R.updPartab 4096,
      ((List.range 64).find? fun i => psetBad (s.peek64 (p + 64 * i))).map fun i => (7, R.updPartab, i)],
    if l = 0 then none
    else firstFail [hostTable s R.updLrtab (16 + 16 * n),
      (schedBad (s.mem.bytes l schedLen)).map fun i => (7, R.updLrtab, i)]]

/-- R318 on the route table. -/
def routeFail (s t : State) : Option Fail :=
  firstFail [failIf (!s.holds (s.nextVal R.lnkRtbase) 32768) 2 R.lnkRtbase 0,
    ((List.range 4096).find? fun n => t.route n / 2 ^ 35 != 0).map fun n => (7, R.lnkRtbase, n)]

/-- Ranks and twins of a group's member list. -/
def members (t : State) (g : Group) : List (Nat × Nat) :=
  (List.range g.n).map fun i => (t.memberRank g i, t.memberTwin g i)

/-- No rank stands twice in a list. -/
def distinctRanks : List Nat → Bool
  | [] => true
  | r :: t => !t.contains r && distinctRanks t

/-- A group entry breaks R322 or R339. -/
def groupBad (s t : State) (i : Nat) : Bool :=
  let g := t.group i
  let ms := members t g
  let own := t.rf R.lnkCtl 0 12
  let pos := (ms.findIdx? fun m => m.1 = own).getD 0xFFFF
  !g.ok || !s.holds g.mlist (4 * g.n) || !distinctRanks (ms.map (·.1)) || g.pos != pos
    || ms.any fun m => m.2 != 0xFFFF && !ms.any fun k => k.1 = m.2 && k.2 = m.1

/-- A group names a rank that is not VALID in the route table (R322). -/
def groupClash (t : State) (i : Nat) : Bool :=
  (members t (t.group i)).any fun m => m.1 ≥ 4096 || !routeValid (t.route m.1)

/-- R322 and R339 on the group table. -/
def groupFail (s t : State) : Option Fail :=
  let b := s.nextVal R.lnkGtbase
  firstFail [failIf (!s.holds b 16384) 2 R.lnkGtbase 0,
    ((List.range 256).find? (groupBad s t)).map fun i => (7, R.lnkGtbase, i),
    ((List.range 256).find? (groupClash t)).map fun i => (8, R.lnkGtbase, i)]

/-- R314 on the credits of a port. -/
def creditBad (v : Nat) : Bool :=
  let ds := (List.range 4).map fun k => bitsOf v (8 * k) 8
  ds.any (· < 16) || ds.foldl (· + ·) 0 > 512

/-- The PWR block's rules on the limits, the ranking, the phase table and Dusk (R234, R367, Table 12.11). -/
def powerFail (s : State) : Option Fail :=
  let cap := s.nextVal R.pwrCap
  let cont := bitsOf cap 0 12
  let exc := bitsOf cap 12 12
  let prio := s.nextVal R.pwrPrio
  let lever := (List.range 3).map fun k => bitsOf prio (2 * k) 2
  let ph := s.nextVal R.pwrPhtab
  let phBad := fun (i : Nat) =>
    let e := leNat (s.mem.bytes (ph + 4 * i) 4)
    bitsOf e 4 4 > 6 || e / 2 ^ 8 != 0
  let moved := fun (a : Nat) => s.nextVal a != s.rd a && s.running
  firstFail [failIf (cont < 600 || cont > 2600 || exc < cont || exc > 3000) 2 R.pwrCap 0,
    failIf (lever.contains 3) 1 R.pwrPrio 0, failIf (!distinctRanks lever) 2 R.pwrPrio 0,
    failIf (!s.holds ph 1024) 2 R.pwrPhtab 0,
    ((List.range 256).find? phBad).map fun i => (7, R.pwrPhtab, i),
    failIf (moved R.pwrDusk) 4 R.pwrDusk 0, failIf (moved R.pwrDuskhi) 4 R.pwrDuskhi 0]

/-! ### The check (R458) -/

/-- R223 on the map-out. -/
def mapFail (s : State) : Option Fail :=
  match s.leaving with
  | [] => none
  | c :: _ => firstFail [failIf s.running 4 (R.memMapmask (c / 64)) 0,
      failIf (s.newLive = 0) 10 (R.memMapmask (c / 64)) 0]

/-- The first failure of the consistency check. -/
def State.epochFail (s : State) : Option Fail :=
  let t := s.installed
  firstFail ([failIf (s.nextVal R.genStattab + 524288 > s.newTop) 2 R.genStattab 0]
    ++ (List.range 96).map s.repairFail
    ++ [s.resFail, mapFail s, shardFail s t, schedFail s, routeFail s t, groupFail s t]
    ++ ((List.range 32).map fun p => failIf (creditBad (s.nextVal (R.lnkCredit p))) 2 (R.lnkCredit p) 0)
    ++ [powerFail s])

/-- The tables that the staged bases name (R459), where they lie in populated memory. -/
def State.tables (s : State) : Ranges :=
  let t := s.installed
  let lists := (List.range 256).map fun i => ((t.group i).mlist, 4 * (t.group i).n)
  let named := fun (r : Nat) (n : Nat) => if s.nextVal r = 0 then [] else [(s.nextVal r, n)]
  ([(s.nextVal R.stmResbase, 16 * bitsOf (s.nextVal R.stmRescnt) 0 11), (s.nextVal R.updShtab, 128 * t.shardCnt)]
    ++ named R.updPartab 4096 ++ named R.updLrtab schedLen ++ [(s.nextVal R.lnkRtbase, 32768), (s.nextVal R.lnkGtbase, 16384)]
    ++ lists ++ [(s.nextVal R.pwrPhtab, 1024)]).filter fun r => r.2 != 0 && s.holds r.1 r.2 && s.dataOk r.1 r.2

/-- The steward reads tables (R208, R209): open combining entries are applied, and an uncorrectable codeword reads as the zeros
that it leaves (log 87). -/
def State.readTables (s : State) (rs : Ranges) (errs : Errs) : State :=
  rs.foldl (fun s r => (s.memRead .steward 0 r.1 r.2 errs).2) s

/-- EPOCH_CHECK_COMPLETE: CHECKED, or back to STAGED with CFG_FAIL (R460). -/
def execEpochCheckComplete (errs : Errs) (s : State) : Host.Outcome State Fault Refusal :=
  if s.cfg.phase != .checking then .next s
  else
    let s := s.readTables s.tables errs
    match s.epochFail with
    | none => .next { s with cfg := { s.cfg with phase := .checked } }
    | some f =>
      let s := { s with cfg := { s.cfg with phase := .staged } }
      let s := (s.wr R.cfgFail (failImage f)).flag R.cfgStat 0 R.cfgChkcnt 1
      .next (s.raise 0x0202 srcSd 0 (failImage f) 0)

/-! ### The instant (R462, R463) -/

/-- The rules checked again at the instant. -/
def State.lateFail (s : State) : Option Fail :=
  let late := fun (c : Nat) =>
    match s.repair c with
    | none => none
    | some (kind, tile, _) => firstFail [failIf s.running 4 (R.tilRepair c) c,
        failIf (s.spareUsed c kind tile) 6 (R.tilRepair c) c,
        failIf ((s.clus c).region = .dark) 11 (R.tilRepair c) c]
  let moved := fun (a : Nat) => s.nextVal a != s.rd a && s.running
  firstFail ((List.range 96).map late
    ++ [match s.leaving with
        | [] => none
        | c :: _ => failIf s.running 4 (R.memMapmask (c / 64)) 0,
      failIf (moved R.pwrDusk) 4 R.pwrDusk 0, failIf (moved R.pwrDuskhi) 4 R.pwrDuskhi 0])

/-- The installed phase table is the one PWR_PHTAB names (R234). -/
def State.loadPhases (s : State) : State :=
  let b := s.rd R.pwrPhtab
  let m : SMap (BitVec 8) := (List.range 256).filterMap fun i =>
    match s.mem.byte (b + 4 * i) with
    | 0 => none
    | v => some (i, v)
  { s with phtab := m }

/-- A region named in PWR_DUSK enters Dusk once none of its tiles holds a pass in flight or an undrained bank (R110, R367); a
Dark one stays Dark. -/
def State.settleDusk (s : State) (c : Nat) : State :=
  if (s.clus c).region = .dark || (s.clus c).quiet then
    { s.onClus c Cl.dusk with cfg := { s.cfg with tailDusk := s.cfg.tailDusk.filter (· != c) } }
  else s

/-- Regions that an epoch puts into Dusk, and regions that it takes out of it (R367, R368). -/
def State.moveDusk (s old : State) : State :=
  (List.range 96).foldl (fun s c =>
    if s.duskNamed c && !old.duskNamed c then
      { s with cfg := { s.cfg with tailDusk := s.cfg.tailDusk ++ [c] } }.settleDusk c
    else if !s.duskNamed c && old.duskNamed c && (s.clus c).region = .dusk then
      let s := s.onClus c fun x => { x with dawnReq := some s.ticks }
      { s with cfg := { s.cfg with tailDusk := s.cfg.tailDusk ++ [c] } }
    else s) s

/-- Regions of the tail that an applied epoch named for Dusk and that can enter it now. -/
def State.settle (s : State) : State :=
  if s.cfg.tailDusk.isEmpty then s
  else (s.cfg.tailDusk.foldl (fun s c => if s.duskNamed c then s.settleDusk c else s) s).tailEnd

/-- A map-out begins (Table 7.5, step 1). -/
def State.startMapOut (s : State) (chans : List Nat) : State :=
  let now := match s.hbm.mapOut with
    | some m => if m.flushed then [] else m.chans
    | none => []
  let s := (List.range 10).foldl (fun s n => s.wr (R.memMapmask n) 0) s
  if chans.isEmpty then s
  else { s with hbm := { s.hbm with mapOut := some ⟨now ++ chans, false, s.order⟩ },
                cfg := { s.cfg with tailMap := true } }

/-- What the set of reservations becomes (R171). -/
def State.installSet (s old : State) : State :=
  if !old.readmits then s
  else
    let s := { s with resTab := (old.newRes).1, resSuspended := old.exceeds.isSome }
    match old.exceeds with
    | some r => s.raise 0x1303 srcSd 0 r.1 r.2
    | none => s

/-- A drain ends at the first epoch after its commit (R352, R425). -/
def State.detach (s : State) : State :=
  if s.dev.st = .draining && s.dev.drained then
    { s with dev := { s.dev with st := .detached, holdPending := false, drained := false },
             sec := { s.sec with lastCmd := s.ticks } }
  else s

/-- Descriptors and commands accepted before the instant have all completed (Table 7.5, step 2). -/
def State.oldDone (s : State) (ord : Nat) : Bool :=
  (s.cl.all fun p => (p.2.flight.all fun j => ord ≤ j.ord) && p.2.queue.toList.all fun l => l.all fun j => ord ≤ j.ord)
  && (s.stw.jobs.all fun j => ord ≤ j.ord) && s.lnk.eng.all fun p => p.2.jobs.all fun j => ord ≤ j.ord

/-- What the epoch replaces is kept while work accepted before it has not completed (R463). -/
def State.keepOld (s : State) : State :=
  let vals : SMap Word := workRegs.map fun a => (a, BitVec.ofNat 64 (s.rd a))
  { s with cfg := { s.cfg with old := (s.cfg.old ++ [(s.order, vals)]).filter fun p => !s.oldDone p.1 } }

/-- Every staged value is installed at once, with what follows from it. -/
def State.applyEpoch (s : State) : State :=
  let s := s.causesAll.keepOld
  let old := s
  let t := s.cfg.at_.toNat
  let s := s.installed
  let s := s.loadPhases
  let s := (List.range 96).foldl (fun s c =>
    match old.repair c with
    | some (kind, tile, index) => s.doRepair c kind tile index
    | none => s) s
  let s := ((s.startMapOut old.leaving).installSet old).moveDusk old
  let n := (s.rd R.cfgEpoch + 1) % 2 ^ 32
  let s := ((s.wr R.cfgEpoch n).wr R.cfgLast t).flag R.cfgStat 2 R.cfgAppcnt 1
  let s := s.raise 0x0201 srcSd 0 n t
  let s := s.detach
  ({ s with cfg := { s.cfg with phase := .applying } }).tailEnd

/-- EPOCH_INSTANT (R418, R462): Meridian has reached the armed instant. -/
def execEpochInstant (errs : Errs) (s : State) : Host.Outcome State Fault Refusal :=
  if s.cfg.phase != .armed || s.time.meridian.toNat < s.cfg.at_.toNat then .next s
  else match s.lateFail with
    | some f => .next (({ s with cfg := { s.cfg with phase := .staged } }).applyFail f s.cfg.at_)
    | none =>
      let used := s.tables.filter fun r => r.1 = s.nextVal R.pwrPhtab || r.1 = s.nextVal R.stmResbase
      .next (s.readTables used errs).applyEpoch

/-! ### The rest of a map-out (Table 7.5) -/

/-- MAPOUT_FLUSH (steps 3 and 4): every slice writes back and is empty, the channels leave the map, and the flash records
them (R225). From here to the end of step 5 the contents of HBM are those of no rule. -/
def execMapoutFlush (errs : Errs) (s : State) : Host.Outcome State Fault Refusal :=
  match s.hbm.mapOut with
  | none => .next s
  | some m =>
    if m.flushed || !s.oldDone m.ord then .next s
    else
      let s := s.flushSlices errs
      let s := m.chans.foldl (fun s c => s.setChan c { s.chan c with st := .mapped, due := [] }) s
      let rec_ := sortBy (fun a b => decide (a ≤ b)) (s.hbm.mapRec ++ m.chans.filter fun c => !s.hbm.mapRec.contains c)
      let s := { s with hbm := { s.hbm with mapRec := rec_, mapOut := some { m with flushed := true }, spoiled := true } }
      .next (s.wf R.stmCkctl 0 1 0)

/-- MEM_LIVECNT (Table 7.10). -/
def State.liveImage (s : State) : Nat :=
  s.liveAll + s.liveCnt 0 * 2 ^ 16 + s.liveCnt 1 * 2 ^ 24 + s.liveCnt 2 * 2 ^ 32 + s.liveCnt 3 * 2 ^ 40

/-- MAPOUT_DONE (steps 5 and 6): every live channel reads zero, and held descriptors dispatch. -/
def execMapoutDone (s : State) : Host.Outcome State Fault Refusal :=
  match s.hbm.mapOut with
  | none => .next s
  | some m =>
    if !m.flushed then .next s
    else
      let s := s.clearHbm
      let s := { s with hbm := { s.hbm with mapOut := none }, cfg := { s.cfg with tailMap := false } }
      let s := (s.flag R.memStat 5 R.memMapcnt 1).raise 0x2006 srcSd 0 s.liveImage (s.hbmEnd - 1)
      .next s.tailEnd

end Sys2Proof.Machine
end

