-- ==== Sys2Proof/Machine/TapPort.lean ====
section
/-!
DEFINITION. The test access port (R491 to R496): one operation for each instruction of Table 17.9. The port runs from VAUX
and without it does nothing.
-/

namespace Sys2Proof.Machine

/-- The compliance enable (R492): RESET_N is low and every core rail is in range. -/
def State.compliance (s : State) : Bool := s.dev.inReset && s.coreUp

/-- An entry point of Table 17.11 is open: the compliance enable holds and release classes are not enforced (R495). -/
def State.testOpen (s : State) : Bool := s.compliance && !s.sec.sealMem

/-- Value that the instruction register captures (R491). -/
def State.tapCapture (s : State) : Nat := 1 + (if s.compliance then 4 else 0) + (if s.tap.refused then 8 else 0)

/-- An instruction is loaded: the pins have their function again unless it drives them. -/
def State.tapLoad (s : State) (code : BitVec 8) : State :=
  { s with tap := { s.tap with instr := code, refused := false, drives := false, highz := false,
                               sel := if code = 0x21 then s.tap.sel else none } }

/-- A code whose condition fails acts as BYPASS and is noted for the next capture (R492). -/
def State.tapRefuse (s : State) : State :=
  { s with tap := { s.tap with instr := 0xFF, refused := true, drives := false, highz := false, sel := none } }

/-- An instruction under its condition; one that is not available is refused. -/
def State.tapRun (s : State) (code : BitVec 8) (ok : Bool) (f : State → State) : Host.Outcome State Fault Refusal :=
  if !s.pins.rail[(0 : Fin 13)] then .next s
  else if ok then .next (f (s.tapLoad code))
  else .next s.tapRefuse

/-- The next start is cold (R494). -/
def State.forceCold (s : State) : State := s.wf R.secBoot 4 1 1

/-- IDCODE. -/
def execIdcode (s : State) : Host.Outcome State Fault Refusal :=
  s.tapRun 0x01 true fun s => { s with tap := { s.tap with data := 0xBE020A5B } }

/-- SAMPLE/PRELOAD: the cells capture the pins and hold what is shifted in. -/
def execSamplePreload (pins scanIn : BitVec 1208) (s : State) : Host.Outcome State Fault Refusal :=
  s.tapRun 0x02 true fun s => { s with tap := { s.tap with captured := pins, latched := scanIn } }

/-- The cells drive the pins and capture them (R493, R494). -/
def State.interconnect (s : State) (code : BitVec 8) (pins : BitVec 1208) : Host.Outcome State Fault Refusal :=
  s.tapRun code s.testOpen fun s => ({ s with tap := { s.tap with captured := pins, drives := true } }).forceCold

/-- EXTEST. -/
def execExtest (pins : BitVec 1208) (s : State) : Host.Outcome State Fault Refusal := s.interconnect 0x03 pins
/-- EXTEST_PULSE. -/
def execExtestPulse (pins : BitVec 1208) (s : State) : Host.Outcome State Fault Refusal := s.interconnect 0x04 pins
/-- EXTEST_TRAIN. -/
def execExtestTrain (pins : BitVec 1208) (s : State) : Host.Outcome State Fault Refusal := s.interconnect 0x05 pins

/-- CLAMP: the cells drive the pins, the bypass register is selected. -/
def execClamp (s : State) : Host.Outcome State Fault Refusal :=
  s.tapRun 0x06 s.testOpen fun s => ({ s with tap := { s.tap with drives := true } }).forceCold

/-- HIGHZ: no pin is driven. -/
def execHighz (s : State) : Host.Outcome State Fault Refusal :=
  s.tapRun 0x07 s.testOpen fun s => ({ s with tap := { s.tap with highz := true } }).forceCold

/-- MBIST: the counts of failing and repairable arrays are returned, and the SRAM contents of the unit are lost (R495).
What is left in the stores, buffers and memories of a die's clusters is not given (log 1); the cold start that must follow
clears them with the rest of the unit. -/
def execMbist (unit : Fin 5) (failing repairable : BitVec 16) (s : State) : Host.Outcome State Fault Refusal :=
  s.tapRun 0x20 s.testOpen fun s =>
    let data := failing.setWidth 64 ||| (repairable.setWidth 64 <<< 16)
    ({ s with tap := { s.tap with data, wiped := if s.tap.wiped.contains unit then s.tap.wiped else unit :: s.tap.wiped } }).forceCold

/-- A RETREAD may name its store (R496): a Dark cluster's tile stores, buffer or control-core memories. -/
def State.retreadOk (s : State) (sel : BitVec 16) : Bool :=
  let c := fld sel 0 7
  s.testOpen && c < 96 && (s.clus c).region = .dark && fld sel 8 2 < 3

/-- Word `n` of a store in ascending address order: tile stores of 256 KiB one after the other, the cluster buffer of
6 MiB, or instruction and data memory of 64 KiB each. A word beyond the end, and every word after a memory self-test of the
die, is a free value (log 1). -/
def State.retreadWord (s : State) (sel : BitVec 16) (n : Nat) : BitVec 64 :=
  let c := fld sel 0 7
  let x := s.clus c
  let word := fun (m : Mem) (k : Nat) => BitVec.ofNat 64 (leNat (m.bytes (8 * k) 8))
  let len := [32 * 32768, 786432, 16384].getD (fld sel 8 2) 0
  if n ≥ len || s.tap.wiped.contains (Fin.ofNat 5 (dieOf c)) then
    BitVec.ofInt 64 (Config.unstated 496 (n * 2 ^ 16 + sel.toNat))
  else match fld sel 8 2 with
    | 0 => word (x.tileAt (n / 32768)).store (n % 32768)
    | 1 => word x.buf n
    | _ => if n < 8192 then word x.imem n else word x.dmem (n - 8192)

/-- RETREAD: the first scan selects the cluster and the store, and each later one returns the next word. -/
def execRetread (sel : BitVec 16) (s : State) : Host.Outcome State Fault Refusal :=
  let w := s.tap.sel.getD sel
  s.tapRun 0x21 (s.retreadOk w) fun s =>
    match s.tap.sel with
    | none => { s with tap := { s.tap with sel := some sel, pos := 0 } }
    | some w => { s with tap := { s.tap with data := s.retreadWord w s.tap.pos, pos := s.tap.pos + 1 } }

/-- SCAN: production only; the scan chains are not given. -/
def execScan (s : State) : Host.Outcome State Fault Refusal :=
  s.tapRun 0x22 (s.testOpen && s.fuse.debugOpen) State.forceCold

/-- BYPASS, and every code that Table 17.9 does not list: it acts as BYPASS and is noted for the next capture (R492). -/
def execBypass (code : BitVec 8) (s : State) : Host.Outcome State Fault Refusal := s.tapRun 0xFF (code = 0xFF) id

end Sys2Proof.Machine
end

