-- ==== Sys2Proof/Machine/Views.lean ====
section
/-!
DEFINITION. What a read of the set-up path returns (R453, R458): staged values, the RO registers that show other parts of
the state, and the read latch. No row of the table reads a register; these are the values that software sees.
-/

namespace Sys2Proof.Machine

/-- MEM_CHINFO (Table 7.12). -/
def State.chInfo (s : State) (c : Nat) : Nat :=
  let x := s.chan c
  let st := match x.st with | .live => 0 | .failing => 1 | .mapped => 2 | .notLive => 3
  let used := (x.spares.filter fun p => match p.2 with | .inUse _ => true | .retired _ => false).length
  st + (48 - x.spares.length) * 2 ^ 2 + used * 2 ^ 8 + (x.spares.length - used) * 2 ^ 14 + min x.cecur 4095 * 2 ^ 20
    + min x.uetot 0xFFFFFFFF * 2 ^ 32

/-- MEM_LIVE[n]. -/
def State.liveWord (s : State) (n : Nat) : Nat :=
  (List.range 64).foldl (fun a i => a + if s.chanLive (64 * n + i) then 2 ^ i else 0) 0

/-- PWR_LEVER (Table 12.12). -/
def State.leverImage (s : State) : Nat :=
  let p := s.pw
  let step := ((List.range 11).find? fun k => memPct k = p.mem).getD 0
  p.compute[0].val + p.compute[1].val * 2 ^ 4 + p.compute[2].val * 2 ^ 8 + p.compute[3].val * 2 ^ 12 + step * 2 ^ 16
    + p.parked.length * 2 ^ 20 + (if p.shedCap.isSome then 2 ^ 28 else 0)
    + (List.range 4).foldl (fun a d => a + if p.vrOn[dieIx d] then 2 ^ (29 + d) else 0) 0

/-- PWR_CLUSTER[c] (Table 12.14). -/
def State.clusterImage (s : State) (c : Nat) : Nat :=
  let x := s.clus c
  let st := match x.region with | .active => 0 | .twilight => 1 | .dusk => 2 | .dark => 3 | .dawn => 4
  x.phfail.toNat + st * 2 ^ 16 + x.clk.op.val * 2 ^ 20 + min (phaseCeil x.phfail) x.connCeil.val * 2 ^ 24

/-- The event interrupt, source 1 of the steward's controller (R471). -/
def State.evtIrq (s : State) : Bool := s.rf R.evtCtl 1 1 = 1 && s.rd R.evtProd != s.rd R.evtCons

/-- Endpoint reset PCIEp_PERST_N is high: from step 3 of a start (Table 17.3). -/
def State.perstHigh (s : State) : Bool := s.setupOpen

/-- The in-band interrupt of the I3C target: a completion record is ready (R429). -/
def State.inBandIrq (s : State) : Bool := s.sec.resp.isSome

/-- PLL multiplier of a point (Table 14.2). -/
def pllN (op : Nat) : Nat := [32, 40, 52, 32, 38, 44, 52, 60].getD op 60

/-- The bits that CLK_DIE and CLK_RSTAT share (Table 14.7). -/
def ClkSt.image (k : ClkSt) : Nat :=
  k.op.val + (if k.stopAt.isSome then 8 else 0) + (if k.aligned then 16 else 0)

/-- CLK_RSTAT[c] (Table 14.7). -/
def State.regionImage (s : State) (c : Nat) : Nat :=
  let x := s.clus c
  x.clk.image + (if x.region != .active || x.clk.stopAt.isSome then 32 else 0) + pllN x.clk.op.val * 2 ^ 8
    + (if x.clk.op.val < 3 then 2 ^ 14 else 0)

/-- CLK_MINC.INC (R334, R415, R416): 160, moved by 1 or by 80 while a correction is slewed. -/
def State.inc (s : State) : Nat :=
  let r := s.time.slew
  if r = 0 then 160
  else if r.natAbs ≤ 16000 then (if r > 0 then 161 else 159)
  else (if r > 0 then 240 else 80)

/-- Seconds of refusal left on a channel (Table 15.15). -/
def State.lockLeft (s : State) (ch : Fin 2) : Nat :=
  match s.sec.refuse[ch] with
  | some t => (t - s.ticks + tSec - 1) / tSec
  | none => 0

/-- CFG_STATE.PHASE. -/
def EpochPhase.code : EpochPhase → Nat
  | .idle => 0 | .staged => 1 | .checking => 2 | .checked => 3 | .armed => 4 | .applying => 5

/-- Value of the register at a base address, as a read returns it; WO registers read 0 (R17). -/
def State.regView (s : State) (h : Hit) : Nat :=
  let a := h.base
  let c := h.inst
  let i := h.idx
  match h.blk, h.reg.off with
  | .seq, 0x10 => (List.range 8).foldl (fun v q => v + ((s.clus c).qAt (Fin.ofNat 8 q)).length * 2 ^ (8 * q)) 0
  | .seq, 0x18 => (s.clus c).flight.length
  | .stm, 0x18 => (s.clus c).bufLive.length
  | .mem, 0x20 => s.hbmEnd - 1
  | .mem, 0x28 => s.liveImage
  | .mem, 0x40 => s.liveWord i
  | .mem, 0x110 => s.chInfo (s.rf R.memChsel 0 10)
  | .lnk, 0x28 => s.tstat
  | .lnk, 0x108 => (s.port i).image
  | .pwr, 0x40 => s.leverImage
  | .pwr, 0x84 => 0
  | .pwr, 0x100 => s.clusterImage i
  | .pwr, 0x400 => s.demand (i / 128) (2 * (i % 128)) + s.demand (i / 128) (2 * (i % 128) + 1) * 2 ^ 16
  | .thm, 0x8 => Nat.lor (s.rd a) (if s.thm.coolCap.isSome then 16 else 0)
  | .thm, 0x40 => s.coolImage
  | .thm, 0x48 => s.ceilImage
  | .thm, 0x100 => s.hsImage i
  | .thm, 0x400 => s.hsImage 96
  | .thm, 0x408 => s.stackImage i
  | .clk, 0x18 => s.time.meridian.toNat
  | .clk, 0x20 => s.inc + (if s.time.holdover then 256 else 0)
  | .clk, 0x28 => s.pw.dieClk[dieIx i].image
  | .clk, 0x100 => s.regionImage i
  | .sec, 0x20 => s.sessImage
  | .sec, 0x2c => s.lockLeft 0 + s.lockLeft 1 * 2 ^ 16
  | .gen, 0x4 => s.dev.st.code
  | .cfg, 0x0 => 0
  | .cfg, 0x10 => s.cfg.phase.code
  | .evt, 0x28 => s.evt.reserve.length
  | _, _ => if h.reg.staged then s.nextVal a else s.rd a

/-- A read of the set-up path (R453, R411, R413): a 32-bit read of a low word loads the read latch with the high word, a
read of the high word empties it; an access that does not fit, and one of a region without a running clock, reads 0. -/
def State.regRead (s : State) (addr size : Nat) : Nat × State :=
  if !s.setupOpen then (0, s)
  else match hitAt addr with
  | none => (0, s)
  | some h =>
    if !h.fits size || s.unclocked h then (0, s)
    else
      let v := s.regView h
      if size = 8 || h.reg.width = 32 then (v, s)
      else if h.byte = 0 then
        (v % 2 ^ 32, { s with regs := { s.regs with rlatch := SMap.put h.base (BitVec.ofNat 32 (v / 2 ^ 32)) s.regs.rlatch } })
      else
        (((SMap.find h.base s.regs.rlatch).map BitVec.toNat).getD (v / 2 ^ 32),
          { s with regs := { s.regs with rlatch := SMap.del h.base s.regs.rlatch } })

end Sys2Proof.Machine
end

