-- ==== Sys2Proof/Machine/Core32.lean ====
section
/-!
DEFINITION. The control core (R150 to R153): one instruction of RV32IMC in machine mode, over the local map of Table 5.2, the
queue port and core registers of Table 5.3 and the summary port of Table 4.3. PRESUMED (log 88): the encodings and effects of
RV32IMC, the machine-mode registers and the trap causes are those of the RISC-V architecture that R150 names.
-/

namespace Sys2Proof.Machine

/-! ### Instructions -/

/-- An instruction; `f` is its funct3 field. A compressed one is the instruction that it stands for. -/
inductive Rv where
  | lui (rd : Nat) (imm : Int)
  | auipc (rd : Nat) (imm : Int)
  | jal (rd : Nat) (imm : Int)
  | jalr (rd a : Nat) (imm : Int)
  | branch (f a b : Nat) (imm : Int)
  | load (f rd a : Nat) (imm : Int)
  | store (f a b : Nat) (imm : Int)
  | opImm (f : Nat) (alt : Bool) (rd a : Nat) (imm : Int)
  | op (f : Nat) (alt : Bool) (rd a b : Nat)
  | mul (f rd a b : Nat)
  | csr (f rd a n : Nat)
  | nop | mret | ecall | ebreak
  deriving DecidableEq, Repr

/-- The immediates of the base encodings. -/
def immI (w : Nat) : Int := sx 12 (bitsOf w 20 12)
def immS (w : Nat) : Int := sx 12 (bitsOf w 25 7 * 2 ^ 5 + bitsOf w 7 5)
def immB (w : Nat) : Int :=
  sx 13 (bitsOf w 31 1 * 2 ^ 12 + bitsOf w 7 1 * 2 ^ 11 + bitsOf w 25 6 * 2 ^ 5 + bitsOf w 8 4 * 2)
def immU (w : Nat) : Int := (bitsOf w 12 20 * 2 ^ 12 : Nat)
def immJ (w : Nat) : Int :=
  sx 21 (bitsOf w 31 1 * 2 ^ 20 + bitsOf w 12 8 * 2 ^ 12 + bitsOf w 20 1 * 2 ^ 11 + bitsOf w 21 10 * 2)

/-- A 32-bit instruction; none where it is illegal. -/
def rv32 (w : Nat) : Option Rv :=
  let rd := bitsOf w 7 5
  let f := bitsOf w 12 3
  let a := bitsOf w 15 5
  let b := bitsOf w 20 5
  let f7 := bitsOf w 25 7
  match bitsOf w 0 7 with
  | 0x37 => some (.lui rd (immU w))
  | 0x17 => some (.auipc rd (immU w))
  | 0x6F => some (.jal rd (immJ w))
  | 0x67 => if f = 0 then some (.jalr rd a (immI w)) else none
  | 0x63 => if f = 2 || f = 3 then none else some (.branch f a b (immB w))
  | 0x03 => if f = 3 || f > 5 then none else some (.load f rd a (immI w))
  | 0x23 => if f > 2 then none else some (.store f a b (immS w))
  | 0x13 =>
    if f = 1 then (if f7 = 0 then some (.opImm f false rd a b) else none)
    else if f = 5 then (if f7 = 0 || f7 = 0x20 then some (.opImm f (f7 = 0x20) rd a b) else none)
    else some (.opImm f false rd a (immI w))
  | 0x33 =>
    if f7 = 1 then some (.mul f rd a b)
    else if f7 = 0 then some (.op f false rd a b)
    else if f7 = 0x20 && (f = 0 || f = 5) then some (.op f true rd a b)
    else none
  | 0x0F => if f = 0 then some .nop else none
  | 0x73 =>
    if f = 0 then match w with
      | 0x00000073 => some .ecall
      | 0x00100073 => some .ebreak
      | 0x30200073 => some .mret
      | 0x10500073 => some .nop
      | _ => none
    else if f = 4 then none
    else some (.csr f rd a (bitsOf w 20 12))
  | _ => none

/-- A compressed instruction as the instruction it stands for; none where it is illegal. -/
def rv16 (w : Nat) : Option Rv :=
  let rd := bitsOf w 7 5
  let b := bitsOf w 2 5
  let rs' := 8 + bitsOf w 7 3
  let rt' := 8 + bitsOf w 2 3
  let imm6 := sx 6 (bitsOf w 12 1 * 2 ^ 5 + b)
  let lw : Int := (bitsOf w 10 3 * 2 ^ 3 + bitsOf w 6 1 * 2 ^ 2 + bitsOf w 5 1 * 2 ^ 6 : Nat)
  let jump := sx 12 (bitsOf w 12 1 * 2 ^ 11 + bitsOf w 11 1 * 2 ^ 4 + bitsOf w 9 2 * 2 ^ 8 + bitsOf w 8 1 * 2 ^ 10
    + bitsOf w 7 1 * 2 ^ 6 + bitsOf w 6 1 * 2 ^ 7 + bitsOf w 3 3 * 2 + bitsOf w 2 1 * 2 ^ 5)
  let br := sx 9 (bitsOf w 12 1 * 2 ^ 8 + bitsOf w 10 2 * 2 ^ 3 + bitsOf w 5 2 * 2 ^ 6 + bitsOf w 3 2 * 2
    + bitsOf w 2 1 * 2 ^ 5)
  match bitsOf w 0 2, bitsOf w 13 3 with
  | 0, 0 =>
    let n : Nat := bitsOf w 11 2 * 2 ^ 4 + bitsOf w 7 4 * 2 ^ 6 + bitsOf w 6 1 * 2 ^ 2 + bitsOf w 5 1 * 2 ^ 3
    if n = 0 then none else some (.opImm 0 false rt' 2 (n : Nat))
  | 0, 2 => some (.load 2 rt' rs' lw)
  | 0, 6 => some (.store 2 rs' rt' lw)
  | 1, 0 => some (.opImm 0 false rd rd imm6)
  | 1, 1 => some (.jal 1 jump)
  | 1, 2 => some (.opImm 0 false rd 0 imm6)
  | 1, 3 =>
    if rd = 2 then
      let n := sx 10 (bitsOf w 12 1 * 2 ^ 9 + bitsOf w 6 1 * 2 ^ 4 + bitsOf w 5 1 * 2 ^ 6 + bitsOf w 3 2 * 2 ^ 7
        + bitsOf w 2 1 * 2 ^ 5)
      if n = 0 then none else some (.opImm 0 false 2 2 n)
    else if imm6 = 0 then none
    else some (.lui rd (imm6 * 4096))
  | 1, 4 =>
    match bitsOf w 10 2 with
    | 0 => if bitsOf w 12 1 = 1 then none else some (.opImm 5 false rs' rs' b)
    | 1 => if bitsOf w 12 1 = 1 then none else some (.opImm 5 true rs' rs' b)
    | 2 => some (.opImm 7 false rs' rs' imm6)
    | _ => if bitsOf w 12 1 = 1 then none
      else match bitsOf w 5 2 with
        | 0 => some (.op 0 true rs' rs' rt')
        | 1 => some (.op 4 false rs' rs' rt')
        | 2 => some (.op 6 false rs' rs' rt')
        | _ => some (.op 7 false rs' rs' rt')
  | 1, 5 => some (.jal 0 jump)
  | 1, 6 => some (.branch 0 rs' 0 br)
  | 1, 7 => some (.branch 1 rs' 0 br)
  | 2, 0 => if bitsOf w 12 1 = 1 then none else some (.opImm 1 false rd rd b)
  | 2, 2 =>
    if rd = 0 then none
    else some (.load 2 rd 2 (bitsOf w 12 1 * 2 ^ 5 + bitsOf w 4 3 * 2 ^ 2 + bitsOf w 2 2 * 2 ^ 6 : Nat))
  | 2, 4 =>
    if bitsOf w 12 1 = 0 then
      (if b != 0 then some (.op 0 false rd 0 b) else if rd = 0 then none else some (.jalr 0 rd 0))
    else if b != 0 then some (.op 0 false rd rd b)
    else if rd = 0 then some .ebreak
    else some (.jalr 1 rd 0)
  | 2, 6 => some (.store 2 2 b (bitsOf w 9 4 * 2 ^ 2 + bitsOf w 7 2 * 2 ^ 6 : Nat))
  | _, _ => none

/-- Arithmetic of OP and OP-IMM; `alt` is bit 30. -/
def rvAlu (f : Nat) (alt : Bool) (a b : BitVec 32) : BitVec 32 :=
  let n := b.toNat % 32
  match f with
  | 0 => if alt then a - b else a + b
  | 1 => a <<< n
  | 2 => if a.toInt < b.toInt then 1 else 0
  | 3 => if a.toNat < b.toNat then 1 else 0
  | 4 => a ^^^ b
  | 5 => if alt then a.sshiftRight n else a >>> n
  | 6 => a ||| b
  | _ => a &&& b

/-- Multiplication and division. Division by zero and the overflow of a signed division have results. -/
def rvMul (f : Nat) (a b : BitVec 32) : BitVec 32 :=
  let hi := fun (x : Int) => BitVec.ofInt 32 (x.fdiv (2 ^ 32))
  match f with
  | 0 => a * b
  | 1 => hi (a.toInt * b.toInt)
  | 2 => hi (a.toInt * b.toNat)
  | 3 => hi ((a.toNat * b.toNat : Nat))
  | 4 => if b = 0 then BitVec.ofInt 32 (-1) else BitVec.ofInt 32 (a.toInt.tdiv b.toInt)
  | 5 => if b = 0 then BitVec.ofInt 32 (-1) else BitVec.ofNat 32 (a.toNat / b.toNat)
  | 6 => if b = 0 then a else BitVec.ofInt 32 (a.toInt.tmod b.toInt)
  | _ => if b = 0 then a else BitVec.ofNat 32 (a.toNat % b.toNat)

def rvTaken (f : Nat) (a b : BitVec 32) : Bool :=
  match f with
  | 0 => a = b
  | 1 => a != b
  | 4 => a.toInt < b.toInt
  | 5 => a.toInt ≥ b.toInt
  | 6 => a.toNat < b.toNat
  | _ => a.toNat ≥ b.toNat

/-! ### The local map (Table 5.2) -/

def Cl.xr (x : Cl) (i : Nat) : BitVec 32 := if i = 0 then 0 else x.ccX[Fin.ofNat 32 i]
/-- Register 0 takes no value. -/
def Cl.setX (x : Cl) (i : Nat) (v : BitVec 32) : Cl :=
  if i = 0 then x else { x with ccX := x.ccX.set (Fin.ofNat 32 i) v }

/-- Lines of the core's interrupt: records to read, a local wait met or stale, summaries (Tables 4.3 and 5.3). -/
def Cl.irq (x : Cl) : Bool :=
  (x.cqIen && x.cqProd != x.cqCons) || (x.swIen && (x.met || x.swStale))
    || (List.range 4).any fun v => x.sumIen.getLsbD v && !(x.veAt v).sumq.isEmpty

/-- A word of the queue port and core registers (Table 5.3). A read of the low word of MERIDIAN latches the high word. -/
def State.portRead (s : State) (c o : Nat) : BitVec 32 × State :=
  let x := s.clus c
  let occ := fun (q : Nat) => (List.range 4).foldl (fun v i => v + (x.qAt (Fin.ofNat 8 (q + i))).length * 2 ^ (8 * i)) 0
  let bit := fun (b : Bool) (k : Nat) => if b then 2 ^ k else 0
  let n := BitVec.ofNat 32
  match o with
  | 0x44 => (n (x.result.toNat + x.status.toNat * 2 ^ 8), s)
  | 0x48 => (n (occ 0), s)
  | 0x4C => (n (occ 4), s)
  | 0x50 => (n x.cqProd.toNat, s)
  | 0x54 => (n x.cqCons.toNat, s)
  | 0x58 => (n (bit x.cqIen 0), s)
  | 0x60 => (n s.runGen.toNat, s)
  | 0x68 => (n s.time.meridian.toNat, s.setClus c { x with merHi := n (s.time.meridian.toNat / 2 ^ 32) })
  | 0x6C => (x.merHi, s)
  | 0x80 => (n (x.swObj.toNat + x.swGen.toNat * 2 ^ 16), s)
  | 0x84 => (x.swThr, s)
  | 0x88 => (n (bit x.arm 0 + bit x.met 1 + bit x.swStale 2 + bit x.swIen 3), s)
  | _ => (0, s)

/-- A word of the summary port (Table 4.3). -/
def Cl.sumRead (x : Cl) (o : Nat) : BitVec 32 :=
  let q := (x.veAt (o / 16)).sumq
  let n := BitVec.ofNat 32
  let h := fun (f : SumEntry → Nat) => match q with | e :: _ => f e | [] => 0
  if o = 0x40 then
    n ((List.range 4).foldl (fun a v => a + if (x.veAt v).sumq.isEmpty then 0 else 2 ^ v) 0 + x.sumIen.toNat * 2 ^ 4)
  else if o ≥ 0x40 then 0
  else match o % 16 with
    | 0 => n (h fun e => e.v.toNat)
    | 4 => n (h fun e => e.v.toNat / 2 ^ 32)
    | 8 => n (h fun e => e.tag.toNat + e.rx.toNat * 2 ^ 16)
    | _ => n (q.length + h (fun e => if e.flag then 16 else 0) + if q.isEmpty then 0 else 32)

/-- An aligned word of the local map below the memories and of what lies above them; none outside the ranges of Table 5.2. -/
def State.wordAt (s : State) (c a : Nat) : Option (BitVec 32 × State) :=
  let x := s.clus c
  let n := BitVec.ofNat 32
  if a < 0x10000 then some (n (leNat (x.imem.bytes a 4)), s)
  else if a < 0x20000 then some (n (leNat (x.dmem.bytes (a - 0x10000) 4)), s)
  else if a < 0x20100 then some (s.portRead c (a - 0x20000))
  else if 0x21000 ≤ a && a < 0x22000 then
    some (n (fld (SMap.val 0 x.cq ((a - 0x21000) / 16)) (8 * (a % 16)) 32), s)
  else if 0x30000 ≤ a && a < 0x30100 then some (x.sumRead (a - 0x30000), s)
  else if 0x40000 ≤ a && a < 0x60000 then
    let o := s.obj ((a - 0x40000) / 8)
    some (if a % 8 = 0 then o.count else n o.gen.toNat, s)
  else none

/-- A load of 1, 2 or 4 bytes, or the cause of its trap. -/
def State.ccLoadAt (s : State) (c a n : Nat) : Except Nat (Nat × State) :=
  if a % n != 0 then .error 4
  else match s.wordAt c (a / 4 * 4) with
    | some (w, s) => .ok (bitsOf w.toNat (8 * (a % 4)) (8 * n), s)
    | none => .error 5

/-- A word written to the queue port and core registers (Table 5.3). -/
def State.portWrite (s : State) (c o v : Nat) : State :=
  match o with
  | 0x40 => s.queueWrite c (Fin.ofNat 8 v) (s.clus c).stage []
  | 0x54 => s.onClus c fun x => x.consume (BitVec.ofNat 8 v)
  | 0x58 => s.onClus c fun x => { x with cqIen := v.testBit 0 }
  | 0x80 => s.onClus c fun x => { x with swObj := BitVec.ofNat 14 v, swGen := BitVec.ofNat 16 (v / 2 ^ 16) }
  | 0x84 => s.onClus c fun x => { x with swThr := BitVec.ofNat 32 v }
  | 0x88 =>
    let s := s.onClus c fun x => { x with swIen := v.testBit 3 }
    let x := s.clus c
    if v.testBit 0 then s.armWait c x.swObj x.swGen x.swThr else s
  | _ => s

/-- A word written to the summary port (Table 4.3). -/
def State.sumWrite (s : State) (c o v : Nat) : State :=
  if o = 0x40 then s.onClus c fun x => { x with sumIen := BitVec.ofNat 4 (v / 2 ^ 4) }
  else if o < 0x40 && o % 16 = 12 && v.testBit 8 then s.popSummary c (o / 16)
  else s

/-- A store of 1, 2 or 4 bytes, or the cause of its trap. A store to a port of less than a word writes the rest of the word as
it reads (log 88); what is read only takes no value. -/
def State.ccStoreAt (s : State) (c a n v : Nat) : Except Nat State :=
  let bs := natLe n v
  if a % n != 0 then .error 6
  else if a < 0x10000 then .ok (s.onClus c fun x => { x with imem := x.imem.write a bs })
  else if a < 0x20000 then .ok (s.onClus c fun x => { x with dmem := x.dmem.write (a - 0x10000) bs })
  else if a < 0x20040 then
    .ok (s.onClus c fun x => { x with stage := BitVec.ofNat 512 (setBits x.stage.toNat (8 * (a - 0x20000)) (8 * n) v) })
  else match s.wordAt c (a / 4 * 4) with
    | none => .error 7
    | some (w, _) =>
      let word := setBits w.toNat (8 * (a % 4)) (8 * n) v
      if a < 0x20100 then .ok (s.portWrite c (a / 4 * 4 - 0x20000) word)
      else if 0x30000 ≤ a && a < 0x30100 then .ok (s.sumWrite c (a / 4 * 4 - 0x30000) word)
      else .ok s

/-! ### Machine mode -/

/-- The machine-mode registers that hold a value of their own. -/
def csrHeld (n : Nat) : Bool :=
  n = 0x300 || n = 0x304 || n = 0x305 || n = 0x340 || n = 0x341 || n = 0x342 || n = 0x343

/-- Value of a machine-mode register; none where the core has no register of the number. -/
def Cl.csrRead (x : Cl) (n : Nat) : Option (BitVec 32) :=
  let v := SMap.val 0 x.ccCsr n
  if n = 0x300 then some (v ||| 0x1800)
  else if csrHeld n then some v
  else if n = 0x301 then some 0x40001104
  else if n = 0x344 then some (if x.irq then 0x800 else 0)
  else if n = 0xF11 || n = 0xF12 || n = 0xF13 || n = 0xF14 then some 0
  else none

/-- Bits of a machine-mode register that a write changes. -/
def csrMask (n : Nat) : BitVec 32 :=
  if n = 0x300 then 0x88 else if n = 0x304 then 0x800 else if n = 0x305 then 0xFFFFFFFD else if n = 0x341 then 0xFFFFFFFE
  else 0xFFFFFFFF

def Cl.csrWrite (x : Cl) (n : Nat) (v : BitVec 32) : Cl :=
  if !csrHeld n then x
  else
    let v := v &&& csrMask n
    { x with ccCsr := if v = 0 then SMap.del n x.ccCsr else SMap.put n v x.ccCsr }

/-- The external interrupt is taken: it is enabled and a line is high. -/
def Cl.irqTaken (x : Cl) : Bool :=
  x.irq && (SMap.val 0 x.ccCsr 0x300).getLsbD 3 && (SMap.val 0 x.ccCsr 0x304).getLsbD 11

/-- Entry into the interrupt handler that mtvec names. -/
def Cl.enterIrq (x : Cl) : Cl :=
  let tv := SMap.val 0 x.ccCsr 0x305
  let x := ((x.csrWrite 0x341 x.ccPc).csrWrite 0x342 0x8000000B).csrWrite 0x300 0x80
  { x with ccPc := (tv &&& 0xFFFFFFFC) + if tv.getLsbD 0 then 44 else 0 }

/-- Return from the handler. -/
def Cl.leaveIrq (x : Cl) : Cl :=
  let on := (SMap.val 0 x.ccCsr 0x300).getLsbD 7
  let x := x.csrWrite 0x300 (if on then 0x88 else 0x80)
  { x with ccPc := SMap.val 0 x.ccCsr 0x341 }

/-! ### One instruction -/

/-- What an instruction does; `n` is its length. A trap stops the core (R153). -/
def State.coreDo (s : State) (c : Nat) (i : Rv) (n : Nat) : State :=
  let x := s.clus c
  let pc := x.ccPc
  let next := pc + BitVec.ofNat 32 n
  let trap := fun (k : Nat) => s.ccTrap c pc k
  let goTo := fun (x : Cl) (a : BitVec 32) => s.setClus c { x with ccPc := a }
  let rel := fun (imm : Int) => pc + BitVec.ofInt 32 imm
  let addr := fun (a : Nat) (imm : Int) => (x.xr a + BitVec.ofInt 32 imm).toNat
  match i with
  | .lui rd imm => goTo (x.setX rd (BitVec.ofInt 32 imm)) next
  | .auipc rd imm => goTo (x.setX rd (rel imm)) next
  | .jal rd imm => goTo (x.setX rd next) (rel imm)
  | .jalr rd a imm => goTo (x.setX rd next) ((x.xr a + BitVec.ofInt 32 imm) &&& 0xFFFFFFFE)
  | .branch f a b imm => goTo x (if rvTaken f (x.xr a) (x.xr b) then rel imm else next)
  | .load f rd a imm =>
    match s.ccLoadAt c (addr a imm) (2 ^ (f % 4)) with
    | .error k => trap k
    | .ok (v, t) =>
      let w := if f < 4 then BitVec.ofInt 32 (sx (8 * 2 ^ f) v) else BitVec.ofNat 32 v
      t.onClus c fun x => { x.setX rd w with ccPc := next }
  | .store f a b imm =>
    match (goTo x next).ccStoreAt c (addr a imm) (2 ^ f) (x.xr b).toNat with
    | .error k => trap k
    | .ok t => t
  | .opImm f alt rd a imm => goTo (x.setX rd (rvAlu f alt (x.xr a) (BitVec.ofInt 32 imm))) next
  | .op f alt rd a b => goTo (x.setX rd (rvAlu f alt (x.xr a) (x.xr b))) next
  | .mul f rd a b => goTo (x.setX rd (rvMul f (x.xr a) (x.xr b))) next
  | .csr f rd a k =>
    let v := if f < 4 then x.xr a else BitVec.ofNat 32 a
    let writes := f % 4 = 1 || a != 0
    match x.csrRead k with
    | none => trap 2
    | some old =>
      if writes && k ≥ 0xC00 then trap 2
      else
        let new := if f % 4 = 1 then v else if f % 4 = 2 then old ||| v else old &&& ~~~v
        goTo ((if writes then x.csrWrite k new else x).setX rd old) next
  | .nop => goTo x next
  | .mret => s.setClus c x.leaveIrq
  | .ecall => trap 11
  | .ebreak => trap 3

/-- The instruction at the program counter with its length, or the cause of a trap. -/
def Cl.fetch (x : Cl) : Except Nat (Rv × Nat) :=
  let pc := x.ccPc.toNat
  let half := fun (a : Nat) => leNat (if a < 0x10000 then x.imem.bytes a 2 else x.dmem.bytes (a - 0x10000) 2)
  let got := fun (o : Option Rv) (n : Nat) => match o with | some i => Except.ok (i, n) | none => Except.error 2
  if pc + 2 > 0x20000 then .error 1
  else if half pc % 4 != 3 then got (rv16 (half pc)) 2
  else if pc + 4 > 0x20000 then .error 1
  else got (rv32 (half pc + half (pc + 2) * 2 ^ 16)) 4

/-- One instruction of a cluster's control core. It runs while the core does, its region's clock runs and the device is not in
FAULT. -/
def State.coreStep (s : State) (c : Nat) : State :=
  let x := s.clus c
  if x.cc != .running || x.clk.stopAt.isSome || s.dev.st = .fault then s
  else if x.irqTaken then s.setClus c x.enterIrq
  else match x.fetch with
    | .error k => s.ccTrap c x.ccPc k
    | .ok (i, n) => s.coreDo c i n

/-- One instruction of every control core (log 88). -/
def State.coreSteps (s : State) : State := (s.cl.map (·.1)).foldl (fun s c => s.coreStep c) s

end Sys2Proof.Machine
end

