-- ==== Sys2Proof/Machine/Tick.lean ====
section
/-!
DEFINITION. What passes with time when no command waits: one tick of the reference clock (R24, log 2).
-/

namespace Sys2Proof.Machine

/-- Quarters of a fabric cycle and half core cycles in one reference tick at an operating point (Table 12.2). -/
def tickCycles (op : Nat) : Nat := [8, 10, 13, 16, 19, 22, 26, 30].getD op 30

/-- Cycles of a region in one reference tick: none while it is in a stop (R409). -/
def ClkSt.cycles (k : ClkSt) : Nat := if k.stopAt.isSome then 0 else tickCycles k.op.val

/-- The Meridian counter advances by the increment of R334 and R415 while the steward die has power (R416), and what is
left of a correction shrinks by the part slewed. -/
def State.tickTime (s : State) : Time :=
  if s.pins.rail[(2 : Fin 13)] then
    { s.time with meridian := s.time.meridian + BitVec.ofNat 64 s.inc, slew := s.time.slew - ((s.inc : Int) - 160) }
  else s.time

/-- Open combining entries count their idle time in the fabric cycles of their die (R213). -/
def State.tickComb (s : State) : SMap (List Comb) :=
  s.shc.comb.map fun (p : Nat × List Comb) =>
    (p.1, p.2.map fun e => { e with idle := e.idle + s.pw.dieClk[dieIx (p.1 / 32)].cycles })

/-- A load-step notice counts its lead in core cycles (R173). -/
def Cl.tick (x : Cl) : Cl :=
  { x with notice := x.notice.map fun n => { n with half := n.half + x.clk.cycles } }

/-- One reference tick of 10 ns: counters advance, every running control core does an instruction (log 88), and regions that an
epoch named for Dusk enter it when they can (R110, R367). -/
def State.tick (s : State) : State :=
  ({ s with ticks := s.ticks + 1, time := s.tickTime, shc := { s.shc with comb := s.tickComb },
            cl := s.cl.map fun (p : Nat × Cl) => (p.1, p.2.tick) } : State).coreSteps.settle

end Sys2Proof.Machine
end

