-- ==== Sys2Proof/Machine/Dispatch.lean ====
section
/-!
DEFINITION. The meaning of every command: one arm for each constructor of Instr.
-/

namespace Sys2Proof.Machine

def exec (i : Instr) (s : State) : Host.Outcome State Fault Refusal :=
  match i with
  | .issue c q desc errs => Sys2Proof.Machine.execIssue c q desc errs s
  | .tileOp c n => Sys2Proof.Machine.execTileOp c n s
  | .tileCmp c n => Sys2Proof.Machine.execTileCmp c n s
  | .vecProg c n errs => Sys2Proof.Machine.execVecProg c n errs s
  | .copy c n errs => Sys2Proof.Machine.execCopy c n errs s
  | .place c n errs => Sys2Proof.Machine.execPlace c n errs s
  | .gather c n errs => Sys2Proof.Machine.execGather c n errs s
  | .scatter c n errs => Sys2Proof.Machine.execScatter c n errs s
  | .ckbuild c n errs => Sys2Proof.Machine.execCkbuild c n errs s
  | .comet c n errs => Sys2Proof.Machine.execComet c n errs s
  | .sync c n => Sys2Proof.Machine.execSync c n s
  | .syncReset c n => Sys2Proof.Machine.execSyncReset c n s
  | .cbLoad c n errs => Sys2Proof.Machine.execCbLoad c n errs s
  | .codebookSwitch => Sys2Proof.Machine.execCodebookSwitch s
  | .phase c q desc => Sys2Proof.Machine.execPhase c q desc s
  | .collRs d k fault errs => Sys2Proof.Machine.execCollRs d k fault errs s
  | .collAg d k errs => Sys2Proof.Machine.execCollAg d k errs s
  | .collA2a d k errs => Sys2Proof.Machine.execCollA2a d k errs s
  | .collAllred d k fault errs => Sys2Proof.Machine.execCollAllred d k fault errs s
  | .collPut d k report errs => Sys2Proof.Machine.execCollPut d k report errs s
  | .collSignal d k errs => Sys2Proof.Machine.execCollSignal d k errs s
  | .dispatch c q errs => Sys2Proof.Machine.execDispatch c q errs s
  | .descriptorComplete c n busy => Sys2Proof.Machine.execDescriptorComplete c n busy s
  | .noticeWithdrawal c => Sys2Proof.Machine.execNoticeWithdrawal c s
  | .forecastCoverMature c => Sys2Proof.Machine.execForecastCoverMature c s
  | .decoderTableLoad c t => Sys2Proof.Machine.execDecoderTableLoad c t s
  | .preload c t => Sys2Proof.Machine.execPreload c t s
  | .passStart c t fault => Sys2Proof.Machine.execPassStart c t fault s
  | .passEnd c t => Sys2Proof.Machine.execPassEnd c t s
  | .tileClockGate c t => Sys2Proof.Machine.execTileClockGate c t s
  | .passDrain c t => Sys2Proof.Machine.execPassDrain c t s
  | .requantiseUnit c n fault errs => Sys2Proof.Machine.execRequantiseUnit c n fault errs s
  | .vld c v => Sys2Proof.Machine.execVld c v s
  | .vldq c v => Sys2Proof.Machine.execVldq c v s
  | .vdrn c v => Sys2Proof.Machine.execVdrn c v s
  | .vstq c v bad => Sys2Proof.Machine.execVstq c v bad s
  | .vldx c v => Sys2Proof.Machine.execVldx c v s
  | .vstx c v bad => Sys2Proof.Machine.execVstx c v bad s
  | .vmov c v => Sys2Proof.Machine.execVmov c v s
  | .vbcast c v => Sys2Proof.Machine.execVbcast c v s
  | .vins c v => Sys2Proof.Machine.execVins c v s
  | .viota c v => Sys2Proof.Machine.execViota c v s
  | .vscale c v => Sys2Proof.Machine.execVscale c v s
  | .vadd c v => Sys2Proof.Machine.execVadd c v s
  | .vsub c v => Sys2Proof.Machine.execVsub c v s
  | .vmul c v => Sys2Proof.Machine.execVmul c v s
  | .vmull c v => Sys2Proof.Machine.execVmull c v s
  | .vmad c v => Sys2Proof.Machine.execVmad c v s
  | .vmax c v => Sys2Proof.Machine.execVmax c v s
  | .vmin c v => Sys2Proof.Machine.execVmin c v s
  | .vabs c v => Sys2Proof.Machine.execVabs c v s
  | .vneg c v => Sys2Proof.Machine.execVneg c v s
  | .valign c v bad => Sys2Proof.Machine.execValign c v bad s
  | .vnarw c v bad => Sys2Proof.Machine.execVnarw c v bad s
  | .vwide c v => Sys2Proof.Machine.execVwide c v s
  | .vunpk c v => Sys2Proof.Machine.execVunpk c v s
  | .vcmp c v => Sys2Proof.Machine.execVcmp c v s
  | .vsel c v => Sys2Proof.Machine.execVsel c v s
  | .vmset c v => Sys2Proof.Machine.execVmset c v s
  | .vmop c v => Sys2Proof.Machine.execVmop c v s
  | .vexp2 c v bad => Sys2Proof.Machine.execVexp2 c v bad s
  | .vrcp c v bad => Sys2Proof.Machine.execVrcp c v bad s
  | .vrsq c v bad => Sys2Proof.Machine.execVrsq c v bad s
  | .vsqrt c v bad => Sys2Proof.Machine.execVsqrt c v bad s
  | .vrsum c v bad => Sys2Proof.Machine.execVrsum c v bad s
  | .vrssq c v bad => Sys2Proof.Machine.execVrssq c v bad s
  | .vrmv c v bad => Sys2Proof.Machine.execVrmv c v bad s
  | .vrmax c v bad => Sys2Proof.Machine.execVrmax c v bad s
  | .vrmin c v bad => Sys2Proof.Machine.execVrmin c v bad s
  | .vramax c v bad => Sys2Proof.Machine.execVramax c v bad s
  | .vrcnt c v => Sys2Proof.Machine.execVrcnt c v s
  | .smovi c v => Sys2Proof.Machine.execSmovi c v s
  | .sscale c v => Sys2Proof.Machine.execSscale c v s
  | .sadd c v => Sys2Proof.Machine.execSadd c v s
  | .ssub c v => Sys2Proof.Machine.execSsub c v s
  | .smul c v => Sys2Proof.Machine.execSmul c v s
  | .smax c v => Sys2Proof.Machine.execSmax c v s
  | .smin c v => Sys2Proof.Machine.execSmin c v s
  | .saddi c v => Sys2Proof.Machine.execSaddi c v s
  | .smv c v bad => Sys2Proof.Machine.execSmv c v bad s
  | .srcp c v bad => Sys2Proof.Machine.execSrcp c v bad s
  | .srsq c v bad => Sys2Proof.Machine.execSrsq c v bad s
  | .ssqrt c v bad => Sys2Proof.Machine.execSsqrt c v bad s
  | .sput c v => Sys2Proof.Machine.execSput c v s
  | .vloop c v => Sys2Proof.Machine.execVloop c v s
  | .vend c v => Sys2Proof.Machine.execVend c v s
  | .controlCoreTrap c pc cause => Sys2Proof.Machine.execControlCoreTrap c pc cause s
  | .localWaitArm c obj gen thr => Sys2Proof.Machine.execLocalWaitArm c obj gen thr s
  | .summaryPop c v => Sys2Proof.Machine.execSummaryPop c v s
  | .signalApply j => Sys2Proof.Machine.execSignalApply j s
  | .syncObjectReset o => Sys2Proof.Machine.execSyncObjectReset o s
  | .replayAbort => Sys2Proof.Machine.execReplayAbort s
  | .replayRestart => Sys2Proof.Machine.execReplayRestart s
  | .producerDoorbell ring off size value errs => Sys2Proof.Machine.execProducerDoorbell ring off size value errs s
  | .completionDoorbell ring value errs => Sys2Proof.Machine.execCompletionDoorbell ring value errs s
  | .ringFetch ring errs => Sys2Proof.Machine.execRingFetch ring errs s
  | .ccLoad k errs => Sys2Proof.Machine.execCcLoad k errs s
  | .ccStart k => Sys2Proof.Machine.execCcStart k s
  | .ccStop k => Sys2Proof.Machine.execCcStop k s
  | .updPrep k e errs => Sys2Proof.Machine.execUpdPrep k e errs s
  | .updApply k e errs => Sys2Proof.Machine.execUpdApply k e errs s
  | .updCommit k cut errs => Sys2Proof.Machine.execUpdCommit k cut errs s
  | .hostMemoryAccess who hpa write len cls errs => Sys2Proof.Machine.execHostMemoryAccess who hpa write len cls errs s
  | .pcieEndpointRead hpa len errs => Sys2Proof.Machine.execPcieEndpointRead hpa len errs s
  | .pcieEndpointWrite hpa data errs => Sys2Proof.Machine.execPcieEndpointWrite hpa data errs s
  | .homeSliceAccess who dpa write len cls errs => Sys2Proof.Machine.execHomeSliceAccess who dpa write len cls errs s
  | .radd who dpa ty lanes errs => Sys2Proof.Machine.execRadd who dpa ty lanes errs s
  | .rmax who dpa ty lanes errs => Sys2Proof.Machine.execRmax who dpa ty lanes errs s
  | .rmin who dpa ty lanes errs => Sys2Proof.Machine.execRmin who dpa ty lanes errs s
  | .ror who dpa lanes errs => Sys2Proof.Machine.execRor who dpa lanes errs s
  | .aadd who dpa v errs => Sys2Proof.Machine.execAadd who dpa v errs s
  | .aswap who dpa v errs => Sys2Proof.Machine.execAswap who dpa v errs s
  | .acas who dpa cmp v errs => Sys2Proof.Machine.execAcas who dpa cmp v errs s
  | .combiningEntryClose line errs => Sys2Proof.Machine.execCombiningEntryClose line errs s
  | .scrubRead ch word bad raced => Sys2Proof.Machine.execScrubRead ch word bad raced s
  | .rowRepair ch => Sys2Proof.Machine.execRowRepair ch s
  | .mapoutFlush errs => Sys2Proof.Machine.execMapoutFlush errs s
  | .mapoutDone => Sys2Proof.Machine.execMapoutDone s
  | .marginRunStart value => Sys2Proof.Machine.execMarginRunStart value s
  | .marginRunDone rdt wrt rdv wrv vddq => Sys2Proof.Machine.execMarginRunDone rdt wrt rdv wrv vddq s
  | .linkTraining p obs => Sys2Proof.Machine.execLinkTraining p obs s
  | .trainingTimeout p => Sys2Proof.Machine.execTrainingTimeout p s
  | .trainingRetry p => Sys2Proof.Machine.execTrainingRetry p s
  | .portEnable p value => Sys2Proof.Machine.execPortEnable p value s
  | .lightLoss oe below => Sys2Proof.Machine.execLightLoss oe below s
  | .wavelengthFailure p w lost => Sys2Proof.Machine.execWavelengthFailure p w lost s
  | .dataFlitTransmit p vc => Sys2Proof.Machine.execDataFlitTransmit p vc s
  | .dataFlitReceive p flit => Sys2Proof.Machine.execDataFlitReceive p flit s
  | .nak p flit => Sys2Proof.Machine.execNak p flit s
  | .credits p flit => Sys2Proof.Machine.execCredits p flit s
  | .time p flit => Sys2Proof.Machine.execTime p flit s
  | .lane p flit => Sys2Proof.Machine.execLane p flit s
  | .rekey p flit => Sys2Proof.Machine.execRekey p flit s
  | .creditsIdle p => Sys2Proof.Machine.execCreditsIdle p s
  | .ackKeepalive p => Sys2Proof.Machine.execAckKeepalive p s
  | .keyDiscard p => Sys2Proof.Machine.execKeyDiscard p s
  | .lnkCtlRekey value => Sys2Proof.Machine.execLnkCtlRekey value s
  | .retrain p why => Sys2Proof.Machine.execRetrain p why s
  | .retrainTimeout p => Sys2Proof.Machine.execRetrainTimeout p s
  | .failedPortRetry p => Sys2Proof.Machine.execFailedPortRetry p s
  | .rsPartial d m fault errs => Sys2Proof.Machine.execRsPartial d m fault errs s
  | .rsResultToTwin d m errs => Sys2Proof.Machine.execRsResultToTwin d m errs s
  | .agData d m errs => Sys2Proof.Machine.execAgData d m errs s
  | .a2aRows d m errs => Sys2Proof.Machine.execA2aRows d m errs s
  | .allredUp d m fault errs => Sys2Proof.Machine.execAllredUp d m fault errs s
  | .allredDown d m errs => Sys2Proof.Machine.execAllredDown d m errs s
  | .put d m errs => Sys2Proof.Machine.execPut d m errs s
  | .signal d m => Sys2Proof.Machine.execSignal d m s
  | .fetch d m errs => Sys2Proof.Machine.execFetch d m errs s
  | .collectiveTimeout d k => Sys2Proof.Machine.execCollectiveTimeout d k s
  | .timeExchange => Sys2Proof.Machine.execTimeExchange s
  | .timeLockTimeout => Sys2Proof.Machine.execTimeLockTimeout s
  | .linkQualification p ber => Sys2Proof.Machine.execLinkQualification p ber s
  | .arbiterEvaluation m => Sys2Proof.Machine.execArbiterEvaluation m s
  | .pointFall c => Sys2Proof.Machine.execPointFall c s
  | .frequencyChangeStop r => Sys2Proof.Machine.execFrequencyChangeStop r s
  | .frequencyStopRelease r locked aligned => Sys2Proof.Machine.execFrequencyStopRelease r locked aligned s
  | .phaseFailure c k => Sys2Proof.Machine.execPhaseFailure c k s
  | .uncoreRegulatorFailure d => Sys2Proof.Machine.execUncoreRegulatorFailure d s
  | .connectionSense d point drop amps temp => Sys2Proof.Machine.execConnectionSense d point drop amps temp s
  | .connectionClear value => Sys2Proof.Machine.execConnectionClear value s
  | .twilightEntry c => Sys2Proof.Machine.execTwilightEntry c s
  | .dawnGrant c => Sys2Proof.Machine.execDawnGrant c s
  | .dawnComplete c aligned => Sys2Proof.Machine.execDawnComplete c aligned s
  | .envelope msg => Sys2Proof.Machine.execEnvelope msg s
  | .envelopeLapse => Sys2Proof.Machine.execEnvelopeLapse s
  | .shedNAssert => Sys2Proof.Machine.execShedNAssert s
  | .shedNRelease => Sys2Proof.Machine.execShedNRelease s
  | .vrAlertNAssert d => Sys2Proof.Machine.execVrAlertNAssert d s
  | .vrAlertNRelease d => Sys2Proof.Machine.execVrAlertNRelease d s
  | .loadForecastFrame fc => Sys2Proof.Machine.execLoadForecastFrame fc s
  | .coolFailNAssert errs => Sys2Proof.Machine.execCoolFailNAssert errs s
  | .sensorReading h b reading counted errs => Sys2Proof.Machine.execSensorReading h b reading counted errs s
  | .sensorDisagreement h => Sys2Proof.Machine.execSensorDisagreement h s
  | .thermalModelUpdate m errs => Sys2Proof.Machine.execThermalModelUpdate m errs s
  | .stackTemperature u temp errs => Sys2Proof.Machine.execStackTemperature u temp errs s
  | .coolantTelemetry msg errs => Sys2Proof.Machine.execCoolantTelemetry msg errs s
  | .telemetryLapse => Sys2Proof.Machine.execTelemetryLapse s
  | .heatBalanceCheck => Sys2Proof.Machine.execHeatBalanceCheck s
  | .thermtrip => Sys2Proof.Machine.execThermtrip s
  | .setupAccessTimeout => Sys2Proof.Machine.execSetupAccessTimeout s
  | .refclkLoss errs => Sys2Proof.Machine.execRefclkLoss errs s
  | .powerUp rail => Sys2Proof.Machine.execPowerUp rail s
  | .coreRailLoss rail => Sys2Proof.Machine.execCoreRailLoss rail s
  | .resetNFall errs => Sys2Proof.Machine.execResetNFall errs s
  | .resetNRise => Sys2Proof.Machine.execResetNRise s
  | .startComplete obs errs => Sys2Proof.Machine.execStartComplete obs errs s
  | .getStatus m => Sys2Proof.Machine.execGetStatus m s
  | .getNonce m => Sys2Proof.Machine.execGetNonce m s
  | .getQuote m => Sys2Proof.Machine.execGetQuote m s
  | .getCerts m => Sys2Proof.Machine.execGetCerts m s
  | .openSession m => Sys2Proof.Machine.execOpenSession m s
  | .closeSession m => Sys2Proof.Machine.execCloseSession m s
  | .run m => Sys2Proof.Machine.execRun m s
  | .hold m => Sys2Proof.Machine.execHold m s
  | .drain m => Sys2Proof.Machine.execDrain m s
  | .extend m => Sys2Proof.Machine.execExtend m s
  | .start m errs => Sys2Proof.Machine.execStart m errs s
  | .clearMaprec m => Sys2Proof.Machine.execClearMaprec m s
  | .provisionKey m => Sys2Proof.Machine.execProvisionKey m s
  | .setPassword m => Sys2Proof.Machine.execSetPassword m s
  | .fwWrite m verifies => Sys2Proof.Machine.execFwWrite m verifies s
  | .advanceSvn m => Sys2Proof.Machine.execAdvanceSvn m s
  | .sessionIdleTimeout => Sys2Proof.Machine.execSessionIdleTimeout s
  | .proofRefusalExpiry ring => Sys2Proof.Machine.execProofRefusalExpiry ring s
  | .dynamicAddressAssignment addr => Sys2Proof.Machine.execDynamicAddressAssignment addr s
  | .stagedRegisterWrite addr size value => Sys2Proof.Machine.execStagedRegisterWrite addr size value s
  | .check value => Sys2Proof.Machine.execCheck value s
  | .epochCheckComplete errs => Sys2Proof.Machine.execEpochCheckComplete errs s
  | .apply value => Sys2Proof.Machine.execApply value s
  | .discard value => Sys2Proof.Machine.execDiscard value s
  | .epochInstant errs => Sys2Proof.Machine.execEpochInstant errs s
  | .eventRecord unit => Sys2Proof.Machine.execEventRecord unit s
  | .evtConsWrite value => Sys2Proof.Machine.execEvtConsWrite value s
  | .registerWrite addr size value => Sys2Proof.Machine.execRegisterWrite addr size value s
  | .idcode => Sys2Proof.Machine.execIdcode s
  | .samplePreload pins scanIn => Sys2Proof.Machine.execSamplePreload pins scanIn s
  | .extest pins => Sys2Proof.Machine.execExtest pins s
  | .extestPulse pins => Sys2Proof.Machine.execExtestPulse pins s
  | .extestTrain pins => Sys2Proof.Machine.execExtestTrain pins s
  | .clamp => Sys2Proof.Machine.execClamp s
  | .highz => Sys2Proof.Machine.execHighz s
  | .mbist unit failing repairable => Sys2Proof.Machine.execMbist unit failing repairable s
  | .retread sel => Sys2Proof.Machine.execRetread sel s
  | .scan => Sys2Proof.Machine.execScan s
  | .bypass code => Sys2Proof.Machine.execBypass code s
  | .laneWord p w word fec => Sys2Proof.Machine.execLaneWord p w word fec s
  | .vauxRemoved => Sys2Proof.Machine.execVauxRemoved s
  | .powerDown rail => Sys2Proof.Machine.execPowerDown rail s
  | .cqconsWrite c value => Sys2Proof.Machine.execCqconsWrite c value s
  | .noticeLeadElapsed c => Sys2Proof.Machine.execNoticeLeadElapsed c s

end Sys2Proof.Machine
end

