-- ==== Sys2Proof/Safety.lean ====
section
/-!
DEFINITION. Safe steps, and the terms in which the statements about the block say what a command changes.
-/

namespace Sys2Proof.Machine

/-- A step answers a next state. -/
def State.goesOn (s : State) : Prop := ∃ t, step s = .next t

/-! ### Frames -/

/-- The installed registers differ at most at some addresses; staged values, latches and holds are the same. -/
def SameRegs (s t : State) (as : List Nat) : Prop :=
  t.regs = { s.regs with file := t.regs.file } ∧ ∀ a, a ∉ as → t.rd a = s.rd a

/-- Every cluster but c is unchanged. -/
def SameClus (s t : State) (c : Nat) : Prop := ∀ d, d ≠ c → t.clus d = s.clus d

/-- A W1C flag is set and its companion counter has counted n settings, saturating (R20). -/
def Flagged (s t : State) (stat bit cnt n : Nat) : Prop :=
  (t.rd stat).testBit bit ∧ t.rd cnt = min (s.rd cnt + n) 0xFFFFFFFF

/-- An event has been raised (R15, R468, R469): its record is the last of its unit's queue, or is lost and counted. -/
def Raised (s t : State) (code : Nat) (q : Src) (arg d0 d1 : Nat) : Prop :=
  let l := SMap.val [] s.evt.queues (unitNo code q)
  if s.dev.selfRefresh = true ∨ 8 ≤ l.length then Flagged s t R.evtStat 0 R.evtLostcnt 1
  else SMap.val [] t.evt.queues (unitNo code q) = l ++ [⟨s.time.meridian, BitVec.ofNat 16 code, sevOf code, q,
    BitVec.ofNat 16 arg, BitVec.ofNat 64 d0, BitVec.ofNat 64 d1, false⟩]

/-- Steward command k, with opcode opc, may execute now (R164, R275, R427): j is its job in the steward command unit. -/
structure StwRuns (s : State) (k opc : Nat) (j : StwJob) : Prop where
  job : s.stwJob k = some j
  opcode : fld j.cmd 0 8 = opc
  going : j.signalled = false
  wait : fld j.cmd 8 1 = 1 → s.waitMet (whdrOf j.cmd).wobj (whdrOf j.cmd).wgen (whdrOf j.cmd).wthr = true
  order : s.heldBack j.ord = false
  values : s.oldVals j.ord = []
  legal : stwLegal opc s.dev.st = true

/-- From s a steward command k has ended well with t: without SEN it has left the unit, with SEN its signal flies. What its
end may touch are the unit, memory (its record) and the signals in flight. -/
structure StwEnds (s t : State) (k : Nat) (j : StwJob) : Prop where
  frame : t = { s with stw := t.stw, mem := t.mem, sync := t.sync }
  left : fld j.cmd 9 1 = 0 → t.stwJob k = none ∧ t.sync = s.sync
  sent : fld j.cmd 9 1 = 1 → t.mem = s.mem ∧ t.sync = { s.sync with flying := s.sync.flying ++
    [⟨(whdrOf j.cmd).sobj, BitVec.ofNat 16 (whdrOf j.cmd).sgen, (whdrOf j.cmd).sinc, s.time.meridian, .stw k⟩] }

/-! ### Ports and collectives -/

/-- Of the link layer only port p changes. -/
def OnlyPort (s t : State) (p : Nat) : Prop :=
  t.lnk = { s.lnk with port := t.lnk.port } ∧ ∀ q, q ≠ p → t.port q = s.port q

/-- A control flit with content c has gone out at port p, whose state was x, under the next flit counter (R309, R311). -/
def TellsPeer (x : PortS) (t : State) (p : Nat) (c : Ctl) : Prop :=
  (t.port p).outCtl = x.seal p 2 false 0 0 0 (x.fcntTx + 1).toNat c.payload ∧ (t.port p).fcntTx = x.fcntTx + 1

/-- Collective k of engine d, with an opcode and its parts x, runs and has nothing unacknowledged, and its row finds no
error (R321, R332). -/
structure CollRuns (s : State) (d : Die) (k opc : Nat) (j : CollJob) (x : CCtx) : Prop where
  job : s.coll d.val k = some j
  opcode : fld j.cmd 0 8 = opc
  phase : j.ph = .run
  parts : x = s.cctx d.val j [] false
  goes : s.running = true ∨ s.dev.st = .held
  quiet : s.collQuiet x = true
  values : s.oldVals j.ord = []

/-- Collective k of engine d came from descriptor n of cluster c and has left the engine with a status. -/
def CollLeft (t : State) (d : Die) (k c n status : Nat) : Prop :=
  t.coll d.val k = none ∧ ∀ q ∈ (t.clus c).flight, q.n = n → q.ph = .worked ∧ q.status.toNat = status

/-- A message of a type to rank r is the last one given to a port: it is on port p for collective `org`. -/
def SentTo (s t : State) (p r ty : Nat) (m : Msg) (org : Option (Nat × Nat)) : Prop :=
  ∃ o, t.lnk.out = s.lnk.out ++ [o] ∧ o.port = p ∧ o.dst = BitVec.ofNat 12 r ∧ o.pay = payloads (msgBytes ty m) ∧ o.closed = true ∧ o.org = org

/-! ### Management commands -/

/-- The rows that take a management command, with their codes and response lengths (Table 15.4). `v` is FW_WRITE's own
operand, `errs` START's. -/
def mgmtRows (m : Mgmt) (errs : Errs) (v : Bool) : List (Instr × Nat × Nat) :=
  [(.getStatus m, 0x90, 32), (.getNonce m, 0x91, 64), (.getQuote m, 0x92, 896), (.getCerts m, 0x93, 4096),
   (.openSession m, 0x94, 48), (.closeSession m, 0x95, 0), (.run m, 0x96, 0), (.hold m, 0x97, 0), (.drain m, 0x98, 0),
   (.extend m, 0x99, 0), (.start m errs, 0x9A, 0), (.clearMaprec m, 0x9B, 0), (.provisionKey m, 0x9C, 0),
   (.setPassword m, 0x9D, 0), (.fwWrite m v, 0x9E, 0), (.advanceSvn m, 0x9F, 0)]

/-- The row of code opc takes well-formed command c, and u is the state once its arguments are read (R13, R427 to R429). -/
structure MgmtFormed (s : State) (m : Mgmt) (opc rlen : Nat) (c : MCall) (u : State) : Prop where
  formed : ∃ b v, s.mgmtTake opc m = some (b, v) ∧ v.mgmtBad b rlen = none ∧ b.opc = opc ∧ c = { b with args := c.args } ∧
    if b.chan = 1 ∧ b.alen ≠ 0 then v.memRead .steward (fld b.cmd 32 16) b.arg b.alen [] = ((0, c.args), u)
    else c = b ∧ u = v
  block : opc = 0x94 → u.openBad c.args = false

/-- The command c of a row passes every check of R13: its authority answers N_d, leaving u, and its state is legal. -/
structure MgmtRuns (s : State) (m : Mgmt) (opc rlen : Nat) (c : MCall) (nd : List Byte) (u : State) : Prop where
  formed : ∃ v, MgmtFormed s m opc rlen c v ∧ v.authorise c = (some nd, u)
  legal : mgmtLegal opc (c.chan = 0) u.dev.st = true

/-- From u command c has ended in t with a status and a response (R429): on I3C they wait for the next private read, and
nothing else changes; on a ring they are in memory, and the ring has moved on. -/
structure MgmtEnds (u t : State) (c : MCall) (status : Nat) (data : List Byte) : Prop where
  frame : t = { u with sec := { u.sec with resp := t.sec.resp }, mem := t.mem, cls := t.cls, stw := t.stw }
  i3c : c.ring = none → t.mem = u.mem ∧ t.cls = u.cls ∧ t.stw = u.stw ∧
    t.sec.resp = some ⟨mkRec (fld c.cmd 32 16) status 0 0 4 0 0 0 0 0, data⟩
  ring : ∀ r cons, c.ring = some (r, cons) → t.sec.resp = u.sec.resp ∧ { t.stw with rings := u.stw.rings } = u.stw ∧
    (t.ring r).cqProd = (u.ring r).cqProd + if fld c.cmd 10 1 = 1 ∨ status ≠ 0 then 1 else 0

/-! ### Vector engines -/

/-- Nearer limit of n bits (R125). -/
def limit (n : Nat) (v : Int) : Int := max (-(2 ^ (n - 1) : Nat)) (min ((2 ^ (n - 1) : Nat) - 1) v)

/-- An integer of n bits. -/
def inRange (n : Nat) (v : Int) : Prop := -(2 ^ (n - 1) : Nat) ≤ v ∧ v < (2 ^ (n - 1) : Nat)

/-- Engine v of cluster c is about to issue the instruction x.w of an opcode (R121, R130). -/
structure Issues (s : State) (c : Cluster) (v : Engine) (opc : Nat) (x : VCtx) : Prop where
  cluster : x.c = c.val
  number : x.v = v.val
  engine : x.e = (s.clus c.val).veAt v.val
  running : x.e.run = some x.r
  job : (s.clus c.val).inFlight x.r.n = some x.j
  parsed : x.o = x.j.vop.getD (s.vecOpOf x.j)
  word : x.e.prog[x.r.pc]? = some x.w
  opcode : iOpc x.w = opc
  given : x.j.ph = .given
  going : x.j.stop = false
  active : (s.clus c.val).region = .active
  clocked : (s.clus c.val).clk.stopAt = none

/-- What the retirement of an instruction of engine v leaves and counts: `r` is the run as the instruction leaves it, `sat`
the results that saturated (R126, R130, R131). -/
structure Retires (s t : State) (c : Cluster) (v : Engine) (r : VRun) (sat : Nat) : Prop where
  frame : t = { s with cl := t.cl, regs := t.regs }
  regs : SameRegs s t [R.vecRetired c.val v.val]
  retired : t.rd (R.vecRetired c.val v.val) = (s.rd (R.vecRetired c.val v.val) + 1) % 2 ^ 64
  others : SameClus s t c.val
  cluster : t.clus c.val = { s.clus c.val with ve := (t.clus c.val).ve }
  engines : ∀ u, u ≠ v.val → (t.clus c.val).veAt u = (s.clus c.val).veAt u
  run : ((t.clus c.val).veAt v.val).run =
    some { r with pc := (advance r.pc r.loops).1, loops := (advance r.pc r.loops).2, sat := r.sat + sat }

/-- A total or an extreme in its destination (R139, R140), with whether anything saturated: `acc` combines it by f with the
destination dv at dx, both aligned (R124). -/
def intoDest (acc : Bool) (f : Int → Int → Int) (total rx dv dx : Int) : Int × Int × Bool :=
  let z := limit 64 total
  if acc then
    let r := min rx dx
    let p := z * (2 ^ (rx - r).toNat : Nat)
    let q := dv * (2 ^ (dx - r).toNat : Nat)
    let y := f (limit 64 p) (limit 64 q)
    (limit 64 y, r, decide (z ≠ total ∨ limit 64 p ≠ p ∨ limit 64 q ≠ q ∨ limit 64 y ≠ y))
  else (z, rx, decide (z ≠ total))

/-- An element of a register at a width, with its flag (R119). -/
def VeSt.el (e : VeSt) (wid n l : Nat) : VEl := (e.els wid n).getD l (0, false)

/-- Elements of a register at a width: 512 at width H, else 256. -/
def elCount (wid : Nat) : Nat := if wid = 0 then 512 else 256

/-- Registers a destination of a width occupies. -/
def destRegs (wid n : Nat) : List Nat := if wid = 2 then [n, n + 1] else [n]

/-- Of an engine's registers only the destination of a width changes: its exponent is rx, element l is `f l` (value, flag,
saturated) in the lanes acted on and as before elsewhere; every other register, mask, scalar, queue and program is kept. -/
structure WritesLanes (x : VCtx) (e : VeSt) (wid : Nat) (rx : Int) (f : Nat → VResEl) : Prop where
  frame : e = { x.e with v := e.v, run := e.run }
  others : ∀ n, n ∉ destRegs wid (iVd x.w) → e.vr n = x.e.vr n
  exponent : e.rx (iVd x.w) = rx
  lanes : ∀ l, l < elCount wid → e.el wid (iVd x.w) l =
    if x.on l then ((f l).1, (f l).2.1) else x.e.el wid (iVd x.w) l

/-- Lanes acted on whose result saturated. -/
def satLanes (x : VCtx) (wid : Nat) (f : Nat → VResEl) : Nat :=
  ((List.range (elCount wid)).filter fun l => x.on l && (f l).2.2).length

/-- Only one scalar register changes: value, exponent and flag (R120). -/
structure WritesScalar (x : VCtx) (e : VeSt) (n : Nat) (v rx : Int) (flag : Bool) : Prop where
  frame : e = { x.e with sc := e.sc, run := e.run }
  others : ∀ m, m ≠ n → e.sr m = x.e.sr m
  value : sx 64 (e.sr n).v.toNat = v
  exponent : sx 16 (e.sr n).rx.toNat = rx
  flags : (e.sr n).flag = flag

/-- Only one mask register changes: in the lanes acted on, bit l is `f l`. -/
structure WritesMask (x : VCtx) (e : VeSt) (f : Nat → Bool) : Prop where
  frame : e = { x.e with m := e.m, run := e.run }
  others : ∀ n, n ≠ iVd x.w → e.mask n = x.e.mask n
  bits : ∀ l, l < 256 → (e.mask (iVd x.w)).getLsbD l = if x.on l then f l else (x.e.mask (iVd x.w)).getLsbD l

end Sys2Proof.Machine
end

