-- ==== Sys2Proof/Certificates/Slice0/Obligations.lean ====
section
/-!
DEFINITION. The statements for the provers: what the commands of the block do, by the rules of the spec, and what no step
breaks. Each docstring names the rules it rests on.
-/

open Sys2Proof Sys2Proof.Machine

/-- A step takes the command at the front of the queue and runs it with the rest waiting (log 2). With no command
waiting a step is one reference tick (the model's choice, log 2): the Meridian counter advances by the increment while
the steward die has power, notices and open combining entries age; where no control core runs and no region waits for
Dusk nothing else changes. A control core that runs alone does one instruction (log 88): here one of register and
immediate, of two registers, or a branch; its registers and program counter follow. -/
def Obligations.StepRunsFrontOrTicks : Prop :=
  (∀ (c : Instr) (rest : List Instr) (s : State),
     step { s with pending := c :: rest } = exec c { s with pending := rest }) ∧
  (∀ s : State, s.pending = [] → ∃ t, step s = .next t ∧ t.ticks = s.ticks + 1 ∧ t.pending = [] ∧
     (s.pins.rail[(2 : Fin 13)] = true → t.time.meridian = s.time.meridian + BitVec.ofNat 64 s.inc) ∧
     (s.pins.rail[(2 : Fin 13)] = false → t.time = s.time) ∧
     ((∀ c, (s.clus c).cc ≠ .running) → s.cfg.tailDusk = [] →
       t = { s with ticks := t.ticks, time := t.time, shc := t.shc, cl := t.cl } ∧
       t.shc = { s.shc with comb := t.shc.comb } ∧
       (∀ c, t.clus c = { s.clus c with notice := (t.clus c).notice }) ∧
       (∀ c, (t.clus c).notice = none ↔ (s.clus c).notice = none))) ∧
  (∀ (s : State) (c : Cluster) (i : Rv) (n : Nat),
     let x := s.clus c.val
     let next := x.ccPc + BitVec.ofNat 32 n
     s.pending = [] → s.cfg.tailDusk = [] → (s.cl.map (·.1)).Nodup → (∀ d, (s.clus d).cc = .running ↔ d = c.val) →
     x.clk.stopAt = none → s.dev.st ≠ .fault → x.irqTaken = false → x.fetch = .ok (i, n) →
     ∃ t, step s = .next t ∧
       (let gives := fun (rd : Nat) (v pc : BitVec 32) => (t.clus c.val).ccPc = pc ∧
          ∀ k, (t.clus c.val).xr k = if k = 0 then 0 else if k % 32 = rd % 32 ∧ rd ≠ 0 then v else x.xr k
        (∀ f alt rd a imm, i = .opImm f alt rd a imm → gives rd (rvAlu f alt (x.xr a) (BitVec.ofInt 32 imm)) next) ∧
        (∀ f alt rd a b, i = .op f alt rd a b → gives rd (rvAlu f alt (x.xr a) (x.xr b)) next) ∧
        (∀ f a b imm, i = .branch f a b imm →
          gives 0 0 (if rvTaken f (x.xr a) (x.xr b) then x.ccPc + BitVec.ofInt 32 imm else next))))

/-- ISSUE by a running control core (R154, Table 5.3): a descriptor that passes the checks joins the end of its queue
with the next issue number, and RESULT and STATUS read 0. Nothing is written to memory. PHASE (R174): a PHASE
descriptor that passes the checks and carries no signal completes on acceptance without a queue entry; its declaration
stands last and lowers the earlier ones, and with CREC its record says OK. -/
def Obligations.IssueAccepts : Prop :=
  (∀ (c : Cluster) (q : Fin 8) (b : Block64) (errs : Errs) (s t0 : State), (s.clus c.val).cc = .running →
     s.dev.st ≠ .held → fld b 0 8 ≠ 0x50 → fld b 8 1 = 0 → s.issueCheck c.val b errs = ((0, 0), t0) →
     ((t0.clus c.val).qAt q).length < 64 →
     ∃ t j, exec (.issue c q b errs) s = .next t ∧ ((t.clus c.val).qAt q).getLast? = some j ∧ j.desc = b ∧
       j.n = (t0.clus c.val).issueNo + 1 ∧ j.ph = .queued ∧ j.acc = t0.ticks ∧
       ((t.clus c.val).qAt q).length = ((t0.clus c.val).qAt q).length + 1 ∧
       (t.clus c.val).issueNo = (t0.clus c.val).issueNo + 1 ∧ (t.clus c.val).stage = b ∧
       (t.clus c.val).result = 0 ∧ (t.clus c.val).status = 0 ∧ t.order = t0.order + 1 ∧
       t = { t0 with cl := t.cl, order := t.order } ∧ SameClus t0 t c.val) ∧
  (∀ (c : Cluster) (q : Fin 8) (b : Block64) (s t0 : State), (s.clus c.val).cc = .running → s.dev.st ≠ .held →
     fld b 0 8 = 0x50 → fld b 9 1 = 0 → s.issueCheck c.val b [] = ((0, 0), t0) →
     ∃ t, exec (.phase c q b) s = .next t ∧
       (t.clus c.val).decls = ((t0.clus c.val).decls.map fun d => { d with tiles := min d.tiles (fld b 256 8) })
         ++ [⟨fld b 256 8, none, false⟩] ∧
       (t.clus c.val).queue = (t0.clus c.val).queue ∧ (t.clus c.val).flight = (t0.clus c.val).flight ∧
       (t.clus c.val).issueNo = (t0.clus c.val).issueNo + 1 ∧ (t.clus c.val).result = 0 ∧ (t.clus c.val).status = 0 ∧
       (fld b 10 1 = 1 → (t.clus c.val).cqProd = (t0.clus c.val).cqProd + 1 ∧
         SMap.find (t0.clus c.val).cqProd.toNat (t.clus c.val).cq = some (mkRec (fld b 32 16) 0
           (if (t0.clus c.val).cqPass then 1 else 0) (fld b 48 16) 0 c.val 0 ((t0.clus c.val).issueNo + 1) 0 0)) ∧
       (fld b 10 1 = 0 → (t.clus c.val).cqProd = (t0.clus c.val).cqProd ∧ (t.clus c.val).cq = (t0.clus c.val).cq) ∧
       t = { t0 with cl := t.cl, order := t.order } ∧ SameClus t0 t c.val)

/-- CQCONS_WRITE, LOCAL_WAIT_ARM, SUMMARY_POP and CONTROL_CORE_TRAP (R161, R152, R143, R153): what a control core does
at its ports, and its trap, which stops the core and its sequencer's dispatch. FORECAST_COVER_MATURE,
NOTICE_LEAD_ELAPSED and NOTICE_WITHDRAWAL (R173, R175): declarations published 2 µs ago give cover; a notice whose
lead has passed lets tiles start; one without activity for 4,096 core cycles is withdrawn. -/
def Obligations.ControlCoreAndNotices : Prop :=
  (∀ (c : Cluster) (s : State),
     (∀ v : BitVec 8, ∃ t, exec (.cqconsWrite c v) s = .next t ∧ t = { s with cl := t.cl } ∧ SameClus s t c.val ∧
       t.clus c.val = { s.clus c.val with
         cqCons := v
         cqUsed := (s.clus c.val).cqUsed - (v - (s.clus c.val).cqCons).toNat }) ∧
     (∀ (obj : BitVec 14) (gen : BitVec 16) (thr : BitVec 32), ∃ t, exec (.localWaitArm c obj gen thr) s = .next t ∧
       t = { s with cl := t.cl, regs := t.regs } ∧ SameClus s t c.val ∧
       ((s.obj obj.toNat).gen = gen → t.regs = s.regs) ∧
       ((s.obj obj.toNat).gen ≠ gen →
         Flagged s t (R.synStat (obj.toNat / 4096)) 0 (R.synStalecnt (obj.toNat / 4096)) 1) ∧
       (let stale := (s.obj obj.toNat).gen ≠ gen
        let met := ¬stale ∧ (s.obj obj.toNat).count.toNat ≥ thr.toNat
        t.clus c.val = { s.clus c.val with
          swObj := obj
          swGen := gen
          swThr := thr
          arm := decide (¬stale ∧ ¬met)
          met := decide met
          swStale := decide stale })) ∧
     (∀ v : Engine, ∃ t, exec (.summaryPop c v) s = .next t ∧ t = { s with cl := t.cl } ∧ SameClus s t c.val ∧
       t.clus c.val = { s.clus c.val with ve := (t.clus c.val).ve } ∧
       (t.clus c.val).veAt v.val = { (s.clus c.val).veAt v.val with sumq := ((s.clus c.val).veAt v.val).sumq.drop 1 } ∧
       ∀ u, u ≠ v.val → (t.clus c.val).veAt u = (s.clus c.val).veAt u) ∧
     (∀ pc cause : BitVec 32, (s.clus c.val).cc = .running → ∃ t, exec (.controlCoreTrap c pc cause) s = .next t ∧
       t.clus c.val = { s.clus c.val with cc := .trapped, ccPc := pc, halted := true } ∧ SameClus s t c.val ∧
       t = { s with cl := t.cl, evt := t.evt, regs := t.regs, dev := t.dev, cfg := t.cfg } ∧
       (s.dev.st ≠ .off → t.dev.st = .fault))) ∧
  (∀ (c : Cluster) (s : State),
     (∃ t, exec (.forecastCoverMature c) s = .next t ∧ t = { s with cl := t.cl } ∧ SameClus s t c.val ∧
       t.clus c.val = { s.clus c.val with decls := (t.clus c.val).decls } ∧
       (t.clus c.val).decls.map (fun d => (d.tiles, d.pub)) = (s.clus c.val).decls.map (fun d => (d.tiles, d.pub)) ∧
       ∀ (i : Nat) (d e : Decl), (s.clus c.val).decls[i]? = some d → (t.clus c.val).decls[i]? = some e →
         (e.mature = true ↔ d.mature = true ∨ ∃ p, d.pub = some p ∧ p + 200 ≤ s.ticks)) ∧
     (∀ v, (s.clus c.val).notice = some v → v.half ≥ 2 * bitsOf (s.rd (R.seqNotice c.val)) 0 10 →
       ∃ t, exec (.noticeLeadElapsed c) s = .next t ∧ (t.clus c.val).notice = some { v with leadDone := true } ∧
         (t.clus c.val).tile = (s.clus c.val).tile ∧ t = { s with cl := t.cl } ∧ SameClus s t c.val) ∧
     (∀ v, (s.clus c.val).notice = some v → v.active = false → v.half ≥ 8192 →
       (∀ q j, ((s.clus c.val).qAt q).head? = some j → isTileOp (fld j.desc 0 8) = false) →
       ((s.clus c.val).tile.all fun p => p.2.waiting.isEmpty) = true →
       ∃ t, exec (.noticeWithdrawal c) s = .next t ∧ (t.clus c.val).notice = none ∧
         (t.clus c.val).tile = (s.clus c.val).tile ∧ t = { s with cl := t.cl } ∧ SameClus s t c.val))

/-- DISPATCH (R161, R163): a synchronisation descriptor at the head of its queue whose conditions hold leaves the
queue for its unit, and stands last among those in flight. DESCRIPTOR_COMPLETE (R163): with SEN the signal leaves for
its object and the descriptor waits for its outcome; without it the descriptor leaves the cluster, and with CREC its
record is written. -/
def Obligations.DispatchAndCompletion : Prop :=
  (∀ (c : Cluster) (q : Fin 8) (s : State) (j : Job), ((s.clus c.val).qAt q).head? = some j →
     (fld j.desc 0 8 = 0x20 ∨ fld j.desc 0 8 = 0x21) → s.canDispatch c.val j = true → s.sec.sealMem = false →
     ((s.clus c.val).allJobs.filter fun k => k.n = j.n) = [j] →
     ∃ t k, exec (.dispatch c q []) s = .next t ∧ (t.clus c.val).flight.getLast? = some k ∧ k.n = j.n ∧
       k.desc = j.desc ∧ k.ph = .run ∧ k.disp = s.ticks ∧
       ((t.clus c.val).flight.map (·.n)) = ((s.clus c.val).flight.map (·.n)) ++ [j.n] ∧
       ((t.clus c.val).qAt q).map (·.n) = (((s.clus c.val).qAt q).map (·.n)).drop 1 ∧
       (∀ p, p ≠ q → ((t.clus c.val).qAt p).map (·.n) = ((s.clus c.val).qAt p).map (·.n)) ∧
       t = { s with cl := t.cl } ∧ SameClus s t c.val) ∧
  (∀ (c : Cluster) (n busy : Nat) (s : State) (j : Job), (s.clus c.val).inFlight n = some j → j.ph = .worked →
     j.status = 0 →
     (fld j.desc 9 1 = 1 → ∃ t, exec (.descriptorComplete c n busy) s = .next t ∧
       t.sync = { s.sync with flying := s.sync.flying ++
         [⟨fld j.desc 128 14, BitVec.ofNat 16 (fld j.desc 144 16), fld j.desc 160 16, s.time.meridian, .seq c.val n⟩] } ∧
       (∀ k ∈ (t.clus c.val).flight, k.n = n → k.ph = .signalled) ∧
       (t.clus c.val).flight.map (·.n) = (s.clus c.val).flight.map (·.n) ∧
       t = { s with sync := t.sync, cl := t.cl, learn := t.learn } ∧ SameClus s t c.val) ∧
     (fld j.desc 9 1 = 0 → fld j.desc 10 1 = 1 → j.ring = none → fld j.desc 192 32 = 0 →
       ∃ t, exec (.descriptorComplete c n busy) s = .next t ∧
         (t.clus c.val).flight.map (·.n) = ((s.clus c.val).flight.map (·.n)).filter (· ≠ n) ∧
         (t.clus c.val).cqProd = (s.clus c.val).cqProd + 1 ∧
         SMap.find (s.clus c.val).cqProd.toNat (t.clus c.val).cq = some (mkRec (fld j.desc 32 16)
           (if j.ev then 1 else 0) (if (s.clus c.val).cqPass then 1 else 0) (fld j.desc 48 16) 0 c.val 0 j.n 0
           j.cnt.toNat) ∧
         t = { s with cl := t.cl, learn := t.learn } ∧ SameClus s t c.val))

/-- SIGNAL_APPLY (R164, R165, R167): a signal younger than 16 µs whose generation is the object's adds its increment,
saturating; an older one and a stale one change no object. Each is discarded once. SYNC, SYNC_RESET and
SYNC_OBJECT_RESET (R165, R166): a SYNC does no work; a SYNC_RESET of one object that the 1 µs spacing lets through
zeroes its count and advances its generation; a held reset of a listed object is made once it may. -/
def Obligations.SyncObjectsSignalAndReset : Prop :=
  (∀ (i : Nat) (s : State) (g : Signal), s.sync.flying[i]? = some g → ∃ t, exec (.signalApply i) s = .next t ∧
     t.sync.flying = s.sync.flying.eraseIdx i ∧ (∀ o, o ≠ g.obj → t.obj o = s.obj o) ∧
     (let aged := (s.time.meridian - g.sent).toNat > 256000
      t.obj g.obj = if aged ∨ (s.obj g.obj).gen ≠ g.gen then s.obj g.obj
        else { s.obj g.obj with count := BitVec.ofNat 32 (min ((s.obj g.obj).count.toNat + g.inc) 0xFFFFFFFF) }) ∧
     (g.origin = .none → t = { s with sync := t.sync, cl := t.cl, regs := t.regs })) ∧
  ((∀ (c : Cluster) (n : Nat) (s : State) (j : Job), s.runJob c.val n 0x20 = some j → ∃ t, exec (.sync c n) s = .next t ∧
     (∀ k ∈ (t.clus c.val).flight, k.n = n → k.ph = .worked ∧ k.status = 0) ∧
     (t.clus c.val).flight.map (·.n) = (s.clus c.val).flight.map (·.n) ∧ t = { s with cl := t.cl } ∧ SameClus s t c.val) ∧
   (∀ (c : Cluster) (n : Nat) (s : State) (j : Job), s.runJob c.val n 0x21 = some j → j.resets = [] →
     fld j.desc 272 16 = 1 → (∀ r, (s.obj (fld j.desc 256 14)).resetAt = some r → r + 100 ≤ s.ticks) →
     ∃ t, exec (.syncReset c n) s = .next t ∧
       t.obj (fld j.desc 256 14) = ⟨0, (s.obj (fld j.desc 256 14)).gen + 1, some s.ticks⟩ ∧
       ∀ o, o ≠ fld j.desc 256 14 → t.obj o = s.obj o) ∧
   (∀ (o : Fin 16384) (s : State), s.sync.resets.find? (fun p => p.1 = o.val) = some (o.val, none) →
     (∀ r, (s.obj o.val).resetAt = some r → r + 100 ≤ s.ticks) → ∃ t, exec (.syncObjectReset o) s = .next t ∧
       t.obj o.val = ⟨0, (s.obj o.val).gen + 1, some s.ticks⟩ ∧ (∀ p, p ≠ o.val → t.obj p = s.obj p) ∧
       (s.sync.held0 = 0 → t.sync.resets = s.sync.resets.erase (o.val, none))))

/-- CB_LOAD and CODEBOOK_SWITCH (R35, R36): images that are well formed wait for the switch; the switch puts the first
ready load's images, with the residues of their levels, their format and generation into its slots on every die at once
and leaves every other slot. -/
def Obligations.CodebookLoadAndSwitch : Prop :=
  (∀ (c : Cluster) (n : Nat) (s t0 : State) (j : Job) (bs : List Byte), s.runJob c.val n 0x30 = some j →
    (∀ l ∈ s.cbLoads, ¬(l.c = c.val ∧ l.n = n)) →
    s.memRead (.sequencer c) (fld j.desc 32 16) (fld j.desc 256 48) (512 * fld j.desc 336 8) [] = ((0, bs), t0) →
    let imgs := (List.range (fld j.desc 336 8)).map fun i => imgOf ((bs.drop (512 * i)).take 512)
    (∀ m ∈ imgs, imgOk (fld j.desc 344 8) m = true) →
    (∀ i, i < fld j.desc 336 8 → (t0.slot (dieOf c.val) (fld j.desc 320 10 + i)).gen.toNat ≠ fld j.desc 352 16) →
    ∃ t, exec (.cbLoad c n []) s = .next t ∧ t = { t0 with cbLoads := t0.cbLoads ++
      [⟨c.val, n, fld j.desc 320 10, cbStOf (fld j.desc 344 8), BitVec.ofNat 16 (fld j.desc 352 16), imgs⟩] }) ∧
  (∀ (s : State) (l : CbLoad) (rest : List CbLoad) (j : Job), s.cbLoads = l :: rest →
    (s.clus l.c).inFlight l.n = some j → s.namedBefore j.ord j.cbs = false → l.first + l.imgs.length ≤ 1024 →
    ∃ t, exec .codebookSwitch s = .next t ∧ t.cbLoads = rest ∧
      (∀ d k, d < 4 → k < l.imgs.length → t.slot d (l.first + k) =
        ⟨l.fmt, l.gen, l.imgs.getD k [], (l.imgs.getD k []).map fun w => resOf (sx 16 w.toNat)⟩) ∧
      (∀ d i, d < 4 → i < 1024 → (i < l.first ∨ l.first + l.imgs.length ≤ i) → t.slot d i = s.slot d i) ∧
      (∀ k ∈ (t.clus l.c).flight, k.n = l.n → k.ph = .worked ∧ k.status = 0) ∧
      t = { s with cb := t.cb, cbLoads := t.cbLoads, cl := t.cl })

/-- VADD, VSUB, VMAX and VMIN (Table 4.2, R124, R125, R127): both sources are brought to the smaller exponent with
saturation, the operation saturates, and a lane is flagged when a source element is flagged or anything saturated. -/
def Obligations.VectorTwoSource : Prop :=
  ∀ p ∈ [(Instr.vadd, 0x10, fun (a b : Int) => a + b), (Instr.vsub, 0x11, fun a b => a - b), (Instr.vmax, 0x15, max),
      (Instr.vmin, 0x16, min)],
  ∀ (c : Cluster) (v : Engine) (s : State) (x : VCtx), Issues s c v p.2.1 x → iWid x.w ≤ 2 →
    let wid := iWid x.w
    let n := widBits wid
    let r := min (x.e.rx (iVa x.w)) (x.e.rx (iVb x.w))
    let a := fun l => (x.e.el wid (iVa x.w) l).1 * (2 ^ (x.e.rx (iVa x.w) - r).toNat : Nat)
    let b := fun l => (x.e.el wid (iVb x.w) l).1 * (2 ^ (x.e.rx (iVb x.w) - r).toNat : Nat)
    let z := fun l => p.2.2 (limit n (a l)) (limit n (b l))
    let sat := fun l => decide (limit n (a l) ≠ a l ∨ limit n (b l) ≠ b l ∨ limit n (z l) ≠ z l)
    let f : Nat → VResEl := fun l =>
      (limit n (z l), sat l || (x.e.el wid (iVa x.w) l).2 || (x.e.el wid (iVb x.w) l).2, sat l)
    ∃ t, exec (p.1 c v) s = .next t ∧ Retires s t c v x.r (satLanes x wid f)
      ∧ WritesLanes x ((t.clus c.val).veAt v.val) wid r f

/-- VMUL and VMULL (Table 4.2): the product at the sum of the exponents, saturated at the width for VMUL, exact into a
64-bit pair for VMULL; a lane is flagged when a source element is flagged or the product saturated. VMAD (Table 4.2,
R124): the destination pair and the exact product are brought to the smaller exponent with saturation and added with
saturation. -/
def Obligations.VectorProducts : Prop :=
  (∀ (c : Cluster) (v : Engine) (s : State) (x : VCtx),
     let wid := iWid x.w
     let rx := x.e.rx (iVa x.w) + x.e.rx (iVb x.w)
     let p := fun l => (x.e.el wid (iVa x.w) l).1 * (x.e.el wid (iVb x.w) l).1
     let fl := fun l => (x.e.el wid (iVa x.w) l).2 || (x.e.el wid (iVb x.w) l).2
     let f : Nat → VResEl := fun l => (limit (widBits wid) (p l), decide (limit (widBits wid) (p l) ≠ p l) || fl l,
       decide (limit (widBits wid) (p l) ≠ p l))
     let g : Nat → VResEl := fun l => (p l, fl l, false)
     rx ≥ -32768 → rx ≤ 32767 →
     (Issues s c v 0x12 x → wid ≤ 1 → ∃ t, exec (.vmul c v) s = .next t ∧ Retires s t c v x.r (satLanes x wid f)
       ∧ WritesLanes x ((t.clus c.val).veAt v.val) wid rx f) ∧
     (Issues s c v 0x13 x → wid = 1 → ∃ t, exec (.vmull c v) s = .next t ∧ Retires s t c v x.r 0
       ∧ WritesLanes x ((t.clus c.val).veAt v.val) 2 rx g)) ∧
  (∀ (c : Cluster) (v : Engine) (s : State) (x : VCtx), Issues s c v 0x14 x → iWid x.w = 1 →
     let rp := x.e.rx (iVa x.w) + x.e.rx (iVb x.w)
     let r := min (x.e.rx (iVd x.w)) rp
     let d := fun l => (x.e.el 2 (iVd x.w) l).1 * (2 ^ (x.e.rx (iVd x.w) - r).toNat : Nat)
     let p := fun l => (x.e.el 1 (iVa x.w) l).1 * (x.e.el 1 (iVb x.w) l).1 * (2 ^ (rp - r).toNat : Nat)
     let z := fun l => limit 64 (d l) + limit 64 (p l)
     let sat := fun l => decide (limit 64 (d l) ≠ d l ∨ limit 64 (p l) ≠ p l ∨ limit 64 (z l) ≠ z l)
     let f : Nat → VResEl := fun l => (limit 64 (z l), sat l || (x.e.el 2 (iVd x.w) l).2
       || ((x.e.el 1 (iVa x.w) l).2 || (x.e.el 1 (iVb x.w) l).2), sat l)
     r ≥ -32768 → r ≤ 32767 →
     ∃ t, exec (.vmad c v) s = .next t ∧ Retires s t c v x.r (satLanes x 2 f)
       ∧ WritesLanes x ((t.clus c.val).veAt v.val) 2 r f)

/-- VMOV, VSCALE, VABS, VNEG and VWIDE (Table 4.2): a lane takes its source element, its magnitude or its negation,
with saturation at the width; VSCALE adds the immediate to the exponent, VWIDE gives a 64-bit pair. VALIGN, VNARW,
VEXP2, VRCP, VRSQ and VSQRT (R128, R136 to R138): with no residue failure each lane is the fixed function of its
source element, and the register has the exponent the function gives. -/
def Obligations.VectorOneSource : Prop :=
  (∀ (c : Cluster) (v : Engine) (s : State) (x : VCtx), iWid x.w ≤ 2 →
     let wid := iWid x.w
     let ra := x.e.rx (iVa x.w)
     let a := fun l => x.e.el wid (iVa x.w) l
     let same : Nat → VResEl := fun l => ((a l).1, (a l).2, false)
     let sat := fun (y : Int) (l : Nat) =>
       ((limit (widBits wid) y, decide (limit (widBits wid) y ≠ y) || (a l).2, decide (limit (widBits wid) y ≠ y)) : VResEl)
     let goes := fun (i : Instr) (dw : Nat) (rx : Int) (f : Nat → VResEl) => ∃ t, exec i s = .next t
       ∧ Retires s t c v x.r (satLanes x dw f) ∧ WritesLanes x ((t.clus c.val).veAt v.val) dw rx f
     (Issues s c v 0x07 x → goes (.vmov c v) wid ra same) ∧
     (Issues s c v 0x0B x → ra + iImm x.w ≥ -32768 → ra + iImm x.w ≤ 32767 →
       goes (.vscale c v) wid (ra + iImm x.w) same) ∧
     (Issues s c v 0x17 x → goes (.vabs c v) wid ra fun l => sat ((a l).1.natAbs : Nat) l) ∧
     (Issues s c v 0x18 x → goes (.vneg c v) wid ra fun l => sat (-(a l).1) l) ∧
     (Issues s c v 0x1B x → wid = 1 → goes (.vwide c v) 2 ra same)) ∧
  (∀ (c : Cluster) (v : Engine) (s : State) (x : VCtx), iWid x.w ≤ 2 →
     let wid := iWid x.w
     let ra := x.e.rx (iVa x.w)
     let a := fun l => x.e.el wid (iVa x.w) l
     let flagged := fun (p : Int × Bool) (l : Nat) => ((p.1, p.2 || (a l).2, p.2) : VResEl)
     let aligned := fun (n : Nat) (l : Nat) =>
       let y := alignRx (a l).1 ra (iImm x.w)
       flagged (limit n y, decide (limit n y ≠ y)) l
     let half := (ra - ra % 2) / 2
     let goes := fun (i : Instr) (dw : Nat) (rx : Int) (f : Nat → VResEl) => rx ≥ -32768 → rx ≤ 32767 →
       ∃ t, exec i s = .next t ∧ Retires s t c v x.r (satLanes x dw f)
         ∧ WritesLanes x ((t.clus c.val).veAt v.val) dw rx f
     (Issues s c v 0x19 x → goes (.valign c v none) wid (iImm x.w) (aligned (widBits wid))) ∧
     (Issues s c v 0x1A x → wid = 2 → goes (.vnarw c v none) 1 (iImm x.w) (aligned 32)) ∧
     (Issues s c v 0x30 x → wid = 1 → goes (.vexp2 c v none) 1 (-30) fun l =>
       let y := alignRx (a l).1 ra (-16)
       let p := limit 32 y
       flagged ((exp2neg p).1, (exp2neg p).2 || decide (p ≠ y)) l) ∧
     (Issues s c v 0x31 x → wid = 2 → goes (.vrcp c v none) 1 (-ra - iImm x.w) fun l =>
       flagged (rcpFn (a l).1 (iImm x.w).toNat) l) ∧
     (Issues s c v 0x32 x → wid = 2 → goes (.vrsq c v none) 1 (-half - iImm x.w) fun l =>
       let z := evenRx (a l).1 ra
       flagged ((rsqFn z.1 (iImm x.w).toNat).1, (rsqFn z.1 (iImm x.w).toNat).2 || z.2.2) l) ∧
     (Issues s c v 0x33 x → wid = 2 → goes (.vsqrt c v none) 2 half fun l =>
       let z := evenRx (a l).1 ra
       flagged ((sqrtFn z.1).1, (sqrtFn z.1).2 || z.2.2) l))

/-- VBCAST, VINS, VIOTA and VUNPK (Table 4.2): the scalar saturated to the width in every lane acted on, or in the one
lane of the immediate, if the mask lets it; the lane numbers at exponent 0; the low or the high halves. VCMP, VSEL, VMSET and VMOP (Table
4.2, R124, R127): comparison of aligned elements into a mask, selection of aligned elements by a mask, a mask of the
lanes below n, and the four mask operations. -/
def Obligations.VectorScalarsAndMasks : Prop :=
  (∀ (c : Cluster) (v : Engine) (s : State) (x : VCtx),
     let wid := iWid x.w
     let y := x.e.sr (iSc x.w)
     let k := sx 64 y.v.toNat
     let kx := sx 16 y.rx.toNat
     let z := limit (widBits wid) k
     let el : VResEl := (z, decide (z ≠ k) || y.flag, decide (z ≠ k))
     (Issues s c v 0x08 x → 1 ≤ wid → wid ≤ 2 → ∃ t, exec (.vbcast c v) s = .next t
       ∧ Retires s t c v x.r (satLanes x wid fun _ => el)
       ∧ WritesLanes x ((t.clus c.val).veAt v.val) wid kx fun _ => el) ∧
     (Issues s c v 0x09 x → 1 ≤ wid → wid ≤ 2 → 0 ≤ iImm x.w → iImm x.w ≤ 255 → ∃ t, exec (.vins c v) s = .next t
       ∧ Retires s t c v x.r (if z ≠ k ∧ x.on (iImm x.w).toNat then 1 else 0)
       ∧ (let e := (t.clus c.val).veAt v.val
          e = { x.e with v := e.v, run := e.run } ∧ (∀ n, n ∉ destRegs wid (iVd x.w) → e.vr n = x.e.vr n)
            ∧ e.rx (iVd x.w) = kx ∧ ∀ l, l < 256 → e.el wid (iVd x.w) l =
              if (l : Int) = iImm x.w ∧ x.on l then (z, decide (z ≠ k) || y.flag) else x.e.el wid (iVd x.w) l)) ∧
     (Issues s c v 0x0A x → wid = 1 → ∃ t, exec (.viota c v) s = .next t ∧ Retires s t c v x.r 0
       ∧ WritesLanes x ((t.clus c.val).veAt v.val) 1 0 fun l => ((l : Int), false, false)) ∧
     (Issues s c v 0x1C x → wid = 0 → 0 ≤ iImm x.w → iImm x.w ≤ 1 → ∃ t, exec (.vunpk c v) s = .next t
       ∧ Retires s t c v x.r 0
       ∧ WritesLanes x ((t.clus c.val).veAt v.val) 1 (x.e.rx (iVa x.w)) fun l =>
         let a := x.e.el 0 (iVa x.w) (l + 256 * (iImm x.w).toNat)
         (a.1, a.2, false))) ∧
  (∀ (c : Cluster) (v : Engine) (s : State) (x : VCtx), iWid x.w ≤ 2 →
     let wid := iWid x.w
     let n := widBits wid
     let r := min (x.e.rx (iVa x.w)) (x.e.rx (iVb x.w))
     let a := fun l => (x.e.el wid (iVa x.w) l).1 * (2 ^ (x.e.rx (iVa x.w) - r).toNat : Nat)
     let b := fun l => (x.e.el wid (iVb x.w) l).1 * (2 ^ (x.e.rx (iVb x.w) - r).toNat : Nat)
     let pick := fun (y : Int) (fl : Bool) => ((limit n y, decide (limit n y ≠ y) || fl, decide (limit n y ≠ y)) : VResEl)
     let sel : Nat → VResEl := fun l => if (x.e.mask (iMsk x.w)).getLsbD l
       then pick (a l) (x.e.el wid (iVa x.w) l).2 else pick (b l) (x.e.el wid (iVb x.w) l).2
     (Issues s c v 0x20 x → 1 ≤ wid → ∃ t, exec (.vcmp c v) s = .next t ∧ Retires s t c v x.r 0
       ∧ WritesMask x ((t.clus c.val).veAt v.val) fun l => cmpHolds (iImm x.w) (limit n (a l)) (limit n (b l))) ∧
     (Issues s c v 0x21 x → 1 ≤ wid → ∃ t, exec (.vsel c v) s = .next t ∧ Retires s t c v x.r (satLanes x wid sel)
       ∧ WritesLanes x ((t.clus c.val).veAt v.val) wid r sel) ∧
     (Issues s c v 0x22 x →
       let m := if iImm x.w = -1 then sx 64 (x.e.sr (iSc x.w)).v.toNat else iImm x.w
       0 ≤ m → m ≤ 256 → ∃ t, exec (.vmset c v) s = .next t ∧ Retires s t c v x.r 0
         ∧ WritesMask x ((t.clus c.val).veAt v.val) fun l => decide ((l : Int) < m)) ∧
     (Issues s c v 0x23 x → iMen x.w = false → ∃ t, exec (.vmop c v) s = .next t ∧ Retires s t c v x.r 0
       ∧ WritesMask x ((t.clus c.val).veAt v.val) fun l =>
         let p := (x.e.mask (iVa x.w)).getLsbD l
         let q := (x.e.mask (iVb x.w)).getLsbD l
         if iImm x.w = 0 then p && q else if iImm x.w = 1 then p || q else if iImm x.w = 2 then p && !q else !p))

/-- VRSUM, VRSSQ, VRMV, VRMAX, VRMIN, VRAMAX and VRCNT (R139, R140): the exact total or extreme of the lanes acted on,
brought to 64 bits with saturation, both sums of one pass for VRMV; with IMM bit 0 it is combined with the
destination, both aligned by R124. Without lanes acted on VRMAX gives the least value, VRMIN the greatest and VRAMAX
0. A result is flagged when an element acted on is flagged or anything saturated, and a combined one also when the
destination was flagged. -/
def Obligations.VectorReductions : Prop :=
  ∀ (c : Cluster) (v : Engine) (s : State) (x : VCtx), iWid x.w ≤ 2 →
    let wid := iWid x.w
    let ra := x.e.rx (iVa x.w)
    let on := (List.range (elCount wid)).filter x.on
    let a := on.map fun l => (x.e.el wid (iVa x.w) l).1
    let fl := on.any fun l => (x.e.el wid (iVa x.w) l).2
    let acc := decide (iImm x.w % 2 = 1)
    let dest := fun (n : Nat) (f : Int → Int → Int) (total rx : Int) =>
      intoDest acc f total rx (sx 64 (x.e.sr n).v.toNat) (sx 16 (x.e.sr n).rx.toNat)
    let flag := fun (n : Nat) (sat : Bool) => sat || fl || (acc && (x.e.sr n).flag)
    let goes := fun (i : Instr) (total rx : Int) (f : Int → Int → Int) =>
      let y := dest (iVd x.w) f total rx
      ∃ t, exec i s = .next t ∧ Retires s t c v x.r (if y.2.2 then 1 else 0) ∧
        WritesScalar x ((t.clus c.val).veAt v.val) (iVd x.w) y.1 y.2.1 (flag (iVd x.w) y.2.2)
    (Issues s c v 0x40 x → goes (.vrsum c v none) a.sum ra (· + ·)) ∧
    (Issues s c v 0x41 x → 2 * ra ≥ -32768 → 2 * ra ≤ 32767 →
      goes (.vrssq c v none) (a.map fun k => k * k).sum (2 * ra) (· + ·)) ∧
    (Issues s c v 0x42 x → 2 * ra ≥ -32768 → 2 * ra ≤ 32767 →
      let y := dest (iVd x.w) (· + ·) a.sum ra
      let z := dest (iVd x.w + 1) (· + ·) (a.map fun k => k * k).sum (2 * ra)
      ∃ t, exec (.vrmv c v none) s = .next t ∧
        Retires s t c v x.r ((if y.2.2 then 1 else 0) + if z.2.2 then 1 else 0) ∧
        (let e := (t.clus c.val).veAt v.val
         e = { x.e with sc := e.sc, run := e.run } ∧
          (∀ m, m ≠ iVd x.w → m ≠ iVd x.w + 1 → e.sr m = x.e.sr m) ∧
          sx 64 (e.sr (iVd x.w)).v.toNat = y.1 ∧ sx 16 (e.sr (iVd x.w)).rx.toNat = y.2.1 ∧
          (e.sr (iVd x.w)).flag = flag (iVd x.w) y.2.2 ∧
          sx 64 (e.sr (iVd x.w + 1)).v.toNat = z.1 ∧ sx 16 (e.sr (iVd x.w + 1)).rx.toNat = z.2.1 ∧
          (e.sr (iVd x.w + 1)).flag = flag (iVd x.w + 1) z.2.2)) ∧
    (Issues s c v 0x43 x → goes (.vrmax c v none) (a.foldl max (-(2 ^ 63))) ra max) ∧
    (Issues s c v 0x44 x → goes (.vrmin c v none) (a.foldl min (2 ^ 63 - 1)) ra min) ∧
    (Issues s c v 0x45 x → goes (.vramax c v none) ((a.map fun k => ((k.natAbs : Nat) : Int)).foldl max 0) ra max) ∧
    (Issues s c v 0x46 x → ∃ t, exec (.vrcnt c v) s = .next t ∧ Retires s t c v x.r 0 ∧
      WritesScalar x ((t.clus c.val).veAt v.val) (iVd x.w)
        ((List.range 256).filter fun l => (x.e.mask (iVa x.w)).getLsbD l).length 0 false)

/-- SMOVI, SSCALE, SADD, SSUB, SMAX, SMIN, SMUL and SADDI (Table 4.2, R124, R125): the scalar operations in 64 bits
with saturation; a result is flagged when a source is flagged or anything saturated. SRCP, SRSQ, SSQRT (R137, R138)
with no residue failure: the fixed functions of a scalar, at the exponents they give. SMV (R141): mean and variance of
two sums and a count, into a scalar and the next. The other scalars and every vector and mask register are kept. -/
def Obligations.ScalarOperations : Prop :=
  (∀ (c : Cluster) (v : Engine) (s : State) (x : VCtx),
     let val := fun n => sx 64 (x.e.sr n).v.toNat
     let rx := fun n => sx 16 (x.e.sr n).rx.toNat
     let fl := fun n => (x.e.sr n).flag
     let a := iVa x.w
     let b := iVb x.w
     let r := min (rx a) (rx b)
     let p := val a * (2 ^ (rx a - r).toNat : Nat)
     let q := val b * (2 ^ (rx b - r).toNat : Nat)
     let goes := fun (i : Instr) (y z : Int) (flag : Bool) (sat : Prop) [Decidable sat] => z ≥ -32768 → z ≤ 32767 →
       ∃ t, exec i s = .next t ∧ Retires s t c v x.r (if sat then 1 else 0) ∧
         WritesScalar x ((t.clus c.val).veAt v.val) (iVd x.w) y z flag
     let two := fun (i : Instr) (f : Int → Int → Int) =>
       let y := f (limit 64 p) (limit 64 q)
       let sat := limit 64 p ≠ p ∨ limit 64 q ≠ q ∨ limit 64 y ≠ y
       goes i (limit 64 y) r (decide sat || fl a || fl b) sat
     (Issues s c v 0x50 x → goes (.smovi c v) (iImm x.w) 0 false False) ∧
     (Issues s c v 0x51 x → goes (.sscale c v) (val a) (rx a + iImm x.w) (fl a) False) ∧
     (Issues s c v 0x52 x → two (.sadd c v) (· + ·)) ∧ (Issues s c v 0x53 x → two (.ssub c v) (· - ·)) ∧
     (Issues s c v 0x55 x → two (.smax c v) max) ∧ (Issues s c v 0x56 x → two (.smin c v) min) ∧
     (Issues s c v 0x54 x → let y := val a * val b
       goes (.smul c v) (limit 64 y) (rx a + rx b) (decide (limit 64 y ≠ y) || (fl a || fl b)) (limit 64 y ≠ y)) ∧
     (Issues s c v 0x57 x → let y := val (iVd x.w) + iImm x.w
       goes (.saddi c v) (limit 64 y) (rx (iVd x.w)) (decide (limit 64 y ≠ y) || fl (iVd x.w)) (limit 64 y ≠ y))) ∧
  (∀ (c : Cluster) (v : Engine) (s : State) (x : VCtx),
     let a := x.e.sr (iVa x.w)
     let k := sx 64 a.v.toNat
     let ra := sx 16 a.rx.toNat
     let f := (iImm x.w).toNat
     let z := evenRx k ra
     let half := (ra - ra % 2) / 2
     let goes := fun (i : Instr) (y rx : Int) (sat : Bool) => rx ≥ -32768 → rx ≤ 32767 →
       ∃ t, exec i s = .next t ∧ Retires s t c v x.r (if sat then 1 else 0) ∧
         WritesScalar x ((t.clus c.val).veAt v.val) (iVd x.w) y rx (sat || a.flag)
     (Issues s c v 0x59 x → goes (.srcp c v none) (rcpFn k f).1 (-ra - iImm x.w) (rcpFn k f).2) ∧
     (Issues s c v 0x5A x → goes (.srsq c v none) (rsqFn z.1 f).1 (-half - iImm x.w) ((rsqFn z.1 f).2 || z.2.2)) ∧
     (Issues s c v 0x5B x → goes (.ssqrt c v none) (sqrtFn z.1).1 half ((sqrtFn z.1).2 || z.2.2))) ∧
  (∀ (c : Cluster) (v : Engine) (s : State) (x : VCtx) (f : Nat), Issues s c v 0x58 x → iImm x.w = f →
     let val := fun n => sx 64 (x.e.sr n).v.toNat
     let rx := fun n => sx 16 (x.e.sr n).rx.toNat
     let m := meanVar (val (iVa x.w)) (rx (iVa x.w)) (val (iVa x.w + 1)) (rx (iVa x.w + 1)) (val (iVb x.w)) f
     let g := (x.e.sr (iVa x.w)).flag || (x.e.sr (iVa x.w + 1)).flag || (x.e.sr (iVb x.w)).flag
     rx (iVa x.w) - f ≥ -32768 → m.2.2 - f ≥ -32768 → m.2.2 - f ≤ 32767 →
     ∃ t, exec (.smv c v none) s = .next t ∧
       Retires s t c v x.r ((if m.1.2 then 1 else 0) + if m.2.1.2 then 1 else 0) ∧
       (let e := (t.clus c.val).veAt v.val
        e = { x.e with sc := e.sc, run := e.run } ∧
         (∀ n, n ≠ iVd x.w → n ≠ iVd x.w + 1 → e.sr n = x.e.sr n) ∧
         sx 64 (e.sr (iVd x.w)).v.toNat = m.1.1 ∧ sx 16 (e.sr (iVd x.w)).rx.toNat = rx (iVa x.w) - f ∧
         (e.sr (iVd x.w)).flag = (m.1.2 || g) ∧
         sx 64 (e.sr (iVd x.w + 1)).v.toNat = m.2.1.1 ∧ sx 16 (e.sr (iVd x.w + 1)).rx.toNat = m.2.2 - f ∧
         (e.sr (iVd x.w + 1)).flag = (m.2.1.2 || g)))

/-- VLDX and VSTX (Table 4.2, R127): a register, or a pair at width D, and the 1,152-byte images of the engine's scratch at
the top of the cluster buffer, in the lanes acted on; an excluded lane is kept by a load and stored as 0. VLOOP, SPUT and VEND (R131, R142, R147): a loop is opened around the instructions that
follow, a summary entry joins the queue, and a program without waiting elements has done its work. VEC_PROG (R121,
R123, R129): a program that the engine holds and whose check passes starts at its first instruction: vector registers
and masks are cleared, scalar 8 + i holds argument i at exponent 0, the other scalars hold 0. A program whose check
fails has no effect but MALFORMED. -/
def Obligations.ScratchAndPrograms : Prop :=
  (∀ (c : Cluster) (v : Engine) (s : State) (x : VCtx) (n : Nat), iWid x.w ≤ 2 →
     sx 64 (x.e.sr (iSc x.w)).v.toNat + iImm x.w = n → n ≤ (if iWid x.w = 2 then 54 else 55) →
     let at_ := fun (i : Nat) => 736 * 8192 + 65536 * v.val + 1152 * (n + i)
     let k := if iWid x.w = 2 then 2 else 1
     (Issues s c v 0x05 x → ∃ t, exec (.vldx c v) s = .next t ∧ Retires s t c v x.r 0 ∧
       (let e := (t.clus c.val).veAt v.val
        e = { x.e with v := e.v, run := e.run } ∧ (∀ r, r ∉ destRegs (iWid x.w) (iVd x.w) → e.vr r = x.e.vr r) ∧
         ∀ i, i < k →
           let im := regOfImage ((s.clus c.val).buf.bytes (at_ i) 1152)
           let y := e.vr (iVd x.w + i)
           y.rx = im.rx ∧
           (∀ l : Fin 256, y.lanes[l] = if x.on l.val then im.lanes[l] else (x.e.vr (iVd x.w + i)).lanes[l]) ∧
           ∀ l, l < 512 → y.flags.getLsbD l =
             if x.on l then im.flags.getLsbD l else (x.e.vr (iVd x.w + i)).flags.getLsbD l)) ∧
     (Issues s c v 0x06 x → ∃ t, exec (.vstx c v none) s = .next t ∧
       t = { s with cl := t.cl, regs := t.regs } ∧ SameRegs s t [R.vecRetired c.val v.val] ∧ SameClus s t c.val ∧
       t.clus c.val = { s.clus c.val with buf := (t.clus c.val).buf, ve := (t.clus c.val).ve } ∧
       (t.clus c.val).veAt v.val = { x.e with run := ((t.clus c.val).veAt v.val).run } ∧
       (∀ u, u ≠ v.val → (t.clus c.val).veAt u = (s.clus c.val).veAt u) ∧
       (∀ i, i < k →
         let im := regOfImage ((t.clus c.val).buf.bytes (at_ i) 1152)
         let y := x.e.vr (iVa x.w + i)
         im.rx = y.rx ∧ (∀ l : Fin 256, im.lanes[l] = if x.on l.val then y.lanes[l] else 0) ∧
         ∀ l, l < 512 → im.flags.getLsbD l = (x.on l && y.flags.getLsbD l)) ∧
       ∀ y, (y < at_ 0 ∨ at_ k ≤ y) → (t.clus c.val).buf.byte y = (s.clus c.val).buf.byte y)) ∧
  (∀ (c : Cluster) (v : Engine) (s : State) (x : VCtx),
     let y := x.e.sr (iVa x.w)
     (Issues s c v 0x60 x → loopN x.w ≠ 0 → ∃ t, exec (.vloop c v) s = .next t ∧
       (let e := (t.clus c.val).veAt v.val
        e = { x.e with run := some { x.r with
               pc := x.r.pc + 1
               loops := (x.r.pc + 1, x.r.pc + loopN x.w, loopC x.w - 1) :: x.r.loops } } ∧
          t.clus c.val = { s.clus c.val with ve := (t.clus c.val).ve })) ∧
     (Issues s c v 0x5C x → x.e.sumq.length < 8 → ∃ t, exec (.sput c v) s = .next t ∧ Retires s t c v x.r 0 ∧
       (let e := (t.clus c.val).veAt v.val
        e = { x.e with run := e.run, sumq := x.e.sumq ++
               [⟨BitVec.ofNat 16 (iRaw x.w), y.v, y.rx, y.flag, BitVec.ofNat 16 (fld x.j.desc 48 16)⟩] })) ∧
     (Issues s c v 0x7F x → (∀ q ∈ (s.clus c.val).rq, q.n = x.j.n → q.elems = []) → ∃ t, exec (.vend c v) s = .next t ∧
       (∀ j ∈ (t.clus c.val).flight, j.n = x.j.n → j.ph = .worked ∧ j.status = 0) ∧
       ((t.clus c.val).flight.map (·.n) = (s.clus c.val).flight.map (·.n)) ∧ t.mem = s.mem ∧ SameClus s t c.val)) ∧
  (∀ (c : Cluster) (n : Nat) (s : State) (j : Job), s.runJob c.val n 0x03 = some j →
     let o := j.vop.getD (s.vecOpOf j)
     let a := o.a
     let e := (s.clus c.val).veAt a.ve
     e.progDpa = some a.prog → s.aggregate j = false →
     (progOk o e.prog = true → ∃ t, exec (.vecProg c n []) s = .next t ∧
       (let f := (t.clus c.val).veAt a.ve
        f = { e with v := [], m := [], sc := f.sc, run := some ⟨n, 0, [], 0, [], []⟩ } ∧
         (∀ i, i < 8 → f.sr (8 + i) = ⟨a.p.getD i 0, 0, false⟩) ∧ (∀ i, i < 8 → f.sr i = ⟨0, 0, false⟩)) ∧
       (∀ k ∈ (t.clus c.val).flight, k.n = n → k.ph = .given) ∧ t = { s with cl := t.cl } ∧ SameClus s t c.val) ∧
     (progOk o e.prog = false → ∃ t, exec (.vecProg c n []) s = .next t ∧
       (∀ k ∈ (t.clus c.val).flight, k.n = n → k.ph = .worked ∧ k.status = 0x10 ∧ k.off = 0xFF) ∧
       (t.clus c.val).veAt a.ve = e ∧ t = { s with cl := t.cl } ∧ SameClus s t c.val))

/-- VLD, VLDQ and VDRN (R132, R133): a row through its binding at the tensor's exponent, positions at or beyond K read
0, or the next 256 drained elements at their exponent; the flags of loaded lanes are clear, those of drained lanes
come with them. VSTQ (R127, R134): into an empty requantiser, the register's elements wait for their units under the
stored row and positions below K with their residues, a lane not acted on as zero; the engine's registers are kept. -/
def Obligations.VectorLoadsAndStore : Prop :=
  (∀ (c : Cluster) (v : Engine) (s : State) (x : VCtx), iWid x.w ≤ 2 →
     let h := iVb x.w
     let a := x.o.a.h.getD h 0
     let hd := (x.o.tens h).h
     let seen := SMap.val (0, 0) x.r.rows h
     (∀ (opc : Nat) (i : Instr) (r k : Nat) (b : Nat × Nat × Nat × Binding),
       (opc = 0x01 ∧ i = .vld c v) ∨ (opc = 0x02 ∧ i = .vldq c v ∧ iWid x.w = 1) → Issues s c v opc x →
       sx 64 (x.e.sr (iSc x.w)).v.toNat = r → iImm x.w = k → s.aggregate x.j = false → (x.o.tens h).o = none →
       x.j.binds.find? (fun b => b.1 = h && b.2.2.1 = 32 &&
         b.2.2.2.covers a r 1 k (min (k + elCount (iWid x.w)) hd.k)) = some b →
       let view := s.panelView (dieOf c.val) (s.clus c.val).buf b.2.2.2 (x.o.tens h)
       (∀ l, l < elCount (iWid x.w) → inRange (widBits (iWid x.w)) (view.value r (k + l))) →
       ∃ t, exec i s = .next t ∧
         Retires s t c v { x.r with
           rows := if seen.2 ≠ 0 ∧ r = seen.1 then x.r.rows else SMap.put h (r, seen.2 + 1) x.r.rows } 0 ∧
         WritesLanes x ((t.clus c.val).veAt v.val) (iWid x.w) hd.et fun l =>
           (if k + l ≥ hd.k then 0 else view.value r (k + l), false, false)) ∧
     (∀ n ex g rest, Issues s c v 0x03 x → x.e.drain = (n, ex, g) :: rest → g.length = 256 → ex ≥ -32768 → ex ≤ 32767 →
       (∀ e ∈ g, inRange 64 e.1) → ∃ t, exec (.vdrn c v) s = .next t ∧
         WritesLanes { x with e := { x.e with drain := rest } } ((t.clus c.val).veAt v.val) 2 ex fun l =>
           ((g.getD l (0, false)).1, (g.getD l (0, false)).2, false))) ∧
  (∀ (c : Cluster) (v : Engine) (s : State) (x : VCtx) (r k : Nat), Issues s c v 0x04 x →
     (iWid x.w = 1 ∨ iWid x.w = 2) → sx 64 (x.e.sr (iSc x.w)).v.toNat = r → iImm x.w = k →
     s.aggregate x.j = false → (s.clus c.val).rq = [] → SMap.find (iVb x.w) x.r.stored = none →
     let h := iVb x.w
     let hd := (x.o.tens h).h
     r < hd.rows → k < hd.k →
     ∃ t o, exec (.vstq c v none) s = .next t ∧ (t.clus c.val).rq = [o] ∧ o.n = x.j.n ∧ o.rqcb = x.o.a.q.getD h 0 ∧
       o.q = x.o.rqcb h ∧ o.out = x.o.tens h ∧ o.ve = some (v.val, h) ∧
       (∀ l, l < 256 → k + l < hd.k → SMap.find (r * 2 ^ 32 + (k + l)) o.elems =
         some (if x.on l then ⟨⟨(x.e.el (iWid x.w) (iVa x.w) l).1, (x.e.el (iWid x.w) (iVa x.w) l).2,
             resOf (x.e.el (iWid x.w) (iVa x.w) l).1⟩, x.e.rx (iVa x.w)⟩ else ⟨accOf 0, x.e.rx (iVa x.w)⟩)) ∧
       (t.clus c.val).veAt v.val = { x.e with run := ((t.clus c.val).veAt v.val).run } ∧
       t = { s with cl := t.cl, regs := t.regs } ∧ SameRegs s t [R.vecRetired c.val v.val] ∧ SameClus s t c.val)

/-- TILE_OP and TILE_CMP (R94, R57, R109): pass q of an operation joins the waiting passes of tile q mod the mask's tiles,
in ascending order; a comparison follows each narrow pass by its wide one and begins at its engine. With TIL_CTL.PREFILL
the gated tiles that take passes begin their rising ramps with filler, and their ramps are counted. -/
def Obligations.PassesSplit : Prop :=
  ∀ (c : Cluster) (n : Nat) (s : State) (j : Job),
    let a := (s.opOf j).a
    let mine := fun u => (List.range a.passes).filter fun q => passTile (jobMask j) q = u
    let fills := fun u => fld j.ctl 2 1 = 1 ∧ u ∈ (maskTiles (jobMask j)).take a.passes ∧
      ((s.clus c.val).tileAt u).act = .gated
    let goes := fun (t : State) (k : Nat) (ps : Nat → List Pass) =>
      (∀ u, ((t.clus c.val).tileAt u) = { (s.clus c.val).tileAt u with
        waiting := ((s.clus c.val).tileAt u).waiting ++ (mine u).flatMap ps
        act := if fills u then .filling else ((s.clus c.val).tileAt u).act }) ∧
      (∀ k' ∈ (t.clus c.val).flight, k'.n = j.n → k'.ph = .given ∧ k'.passes = k * a.passes) ∧
      (t.clus c.val).flight.map (·.n) = (s.clus c.val).flight.map (·.n) ∧
      t.rd (R.tilRamps c.val) = (s.rd (R.tilRamps c.val) + if fld j.ctl 2 1 = 1 then
        (((maskTiles (jobMask j)).take a.passes).filter fun u => ((s.clus c.val).tileAt u).act = .gated).length else 0)
        % 2 ^ 64 ∧
      t = { s with cl := t.cl, regs := t.regs } ∧ SameRegs s t [R.tilRamps c.val] ∧ SameClus s t c.val
    s.rd (R.tilRamps c.val) < 2 ^ 64 →
    (s.runJob c.val n 0x01 = some j → ∃ t, exec (.tileOp c n) s = .next t ∧
      goes t 1 fun q => [⟨j.n, q, a.bi q, a.bj q, false⟩]) ∧
    (s.runJob c.val n 0x02 = some j → ∃ t, exec (.tileCmp c n) s = .next t ∧
      (goes t 2 fun q => [⟨j.n, q, a.bi q, a.bj q, false⟩, ⟨j.n, q, a.bi q, a.bj q, true⟩]) ∧
      ((t.clus c.val).veAt (tbodyOf j.desc).ve).cmp = some ⟨n, 0, 0, 0, 0, 0, 0⟩)

/-- PASS_START (R54, R95, R99, R102, R106): a pass that is ready, with well-formed records and no residue failure, runs in
the next bank: each of its 1,024 accumulators holds the element of its rows with its flag and residue, preload included,
and invalid cells hold 0. The
other bank's pass closes, the bank pointer flips, the tile is busy, and the counters of k-steps, skips and ramps
advance. -/
def Obligations.PassStartComputes : Prop :=
  ∀ (c : Cluster) (u : Tile) (s : State) (p : Pass) (j : Job) (va vb : View),
    s.passReady c.val u.val = some (p, j) → s.passViews c.val u.val j p = some (va, vb) →
    let o := s.opOf j
    let a := o.args p.wide
    (o.left p.wide).o = none → (o.right p.wide).o = none →
    let y := (s.clus c.val).tileAt u.val
    let ra := rowsFrom a.arow0 a.m p.bi
    let rb := rowsFrom a.brow0 a.n p.bj
    let pre := match y.bank[y.next] with
      | .pre _ im => im
      | _ => []
    let w := passSteps va vb ra rb a.k0 a.k (decide (fld j.ctl 0 1 = 1))
    (∀ i, i < 1024 → ∀ r q, ra[i / 32]? = some r → rb[i % 32]? = some q →
      (tileElement va vb r q a.k0 a.k (pre.getD i (accOf 0))).bad = false) →
    ∃ t cells, exec (.passStart c u none) s = .next t ∧
      (t.clus c.val).tileAt u.val = { y with
        bank := (y.bank.map fun b => match b with
          | .active q v => .closed q v
          | b => b).set y.next (.active p cells)
        next := 1 - y.next
        waiting := y.waiting.drop 1
        act := .busy } ∧
      cells.length = 1024 ∧
      (∀ i, i < 1024 → ∀ r q, ra[i / 32]? = some r → rb[i % 32]? = some q →
        cells[i]? = some (tileElement va vb r q a.k0 a.k (pre.getD i (accOf 0))).acc) ∧
      (∀ i, i < 1024 → (ra[i / 32]? = none ∨ rb[i % 32]? = none) → cells[i]? = some (accOf 0)) ∧
      (∀ x, x ≠ u.val → (t.clus c.val).tileAt x = (s.clus c.val).tileAt x) ∧
      t.rd (R.tilKsteps c.val) = (s.rd (R.tilKsteps c.val) + w.1) % 2 ^ 64 ∧
      t.rd (R.tilSkips c.val) = (s.rd (R.tilSkips c.val) + w.2) % 2 ^ 64 ∧
      t.rd (R.tilRamps c.val) = (s.rd (R.tilRamps c.val) + if y.act = .busy ∨ y.act = .filling then 0 else 1) % 2 ^ 64 ∧
      SameRegs s t [R.tilKsteps c.val, R.tilSkips c.val, R.tilRamps c.val] ∧
      t = { s with cl := t.cl, regs := t.regs } ∧ SameClus s t c.val

/-- DECODER_TABLE_LOAD, PRELOAD, PASS_END and TILE_CLOCK_GATE (R98, R102, R103, R107): the level tables of the rows of the
next pass, its image as 32 rows of 32 little-endian 64-bit integers with their residues, the close of the active bank with the falling ramp, and the
gate. PASS_DRAIN (R104, R48): a closed bank of a requantising TILE_OP drains: the bank is free, and every valid cell
waits for its unit with its value, the sum of the operands' exponents and its flag, under its output row and column.
-/
def Obligations.TileSequencing : Prop :=
  (∀ (c : Cluster) (u : Tile) (s : State),
     let x := s.clus c.val
     let y := x.tileAt u.val
     let only := fun (t : State) => t = { s with cl := t.cl } ∧ SameClus s t c.val ∧
       ∀ v, v ≠ u.val → (t.clus c.val).tileAt v = x.tileAt v
     (∀ p l j, y.waiting = p :: l → x.inFlight p.n = some j → x.region = .active → x.clk.stopAt = none →
       s.loadPending j.ord j.cbs = false →
       let o := s.opOf j
       let a := o.args p.wide
       ∃ t d, exec (.decoderTableLoad c u) s = .next t ∧ only t ∧
         (t.clus c.val).tileAt u.val = { y with tables := some d } ∧ d.p = p ∧
         ((o.left p.wide).h.isQ = true → ∀ i, i < 32 →
           d.rows[i]? = some (s.levelsOf (dieOf c.val) (o.left p.wide).h (a.arow0 + 32 * p.bi + i))) ∧
         ((o.right p.wide).h.isQ = true → ∀ i, i < 32 →
           d.cols[i]? = some (s.levelsOf (dieOf c.val) (o.right p.wide).h (a.brow0 + 32 * p.bj + i)))) ∧
     (∀ p l j, y.waiting = p :: l → x.inFlight p.n = some j → fld j.desc 289 1 = 1 → p.wide = false →
       y.bank[y.next] = .free → x.clk.stopAt = none → ∃ t img, exec (.preload c u) s = .next t ∧ only t ∧
         (t.clus c.val).tileAt u.val = { y with bank := y.bank.set y.next (.pre p img) } ∧ img.length = 1024 ∧
         ∀ i, i < 1024 → img[i]? = some (accOf (sx 64 (leNat (y.store.bytes ((s.opOf j).a.preofs
           + 8192 * (p.q / (maskTiles (fld j.desc 256 32)).length) + 8 * i) 8))))) ∧
     (y.act = .busy → s.passReady c.val u.val = none → x.clk.stopAt = none →
       ∃ t, exec (.passEnd c u) s = .next t ∧ only t ∧ (t.clus c.val).tileAt u.val = { y with
         act := .falling
         bank := y.bank.map fun b => match b with
           | .active q v => .closed q v
           | b => b }) ∧
     (y.act = .falling → x.clk.stopAt = none → ∃ t, exec (.tileClockGate c u) s = .next t ∧ only t ∧
       (t.clus c.val).tileAt u.val = { y with act := .gated })) ∧
  (∀ (c : Cluster) (u : Tile) (s : State) (i : Fin 2) (p : Pass) (v : List Accum) (j : Job),
     let y := (s.clus c.val).tileAt u.val
     let o := s.opOf j
     let a := o.a
     y.closedBank = some (i, p, v) → v.length = 1024 → (s.clus c.val).inFlight p.n = some j → fld j.desc 0 8 = 1 →
     p.wide = false → fld j.desc 288 1 = 0 → (s.clus c.val).clk.stopAt = none → a.ocol0 + a.n ≤ 2 ^ 32 →
     (s.clus c.val).rqFill + 1024 ≤ 32768 →
     ∃ t, exec (.passDrain c u) s = .next t ∧ ((t.clus c.val).tileAt u.val).bank[i] = .free ∧
       (∀ x, x ≠ u.val → (t.clus c.val).tileAt x = (s.clus c.val).tileAt x) ∧
       ∀ r k e, r < 32 → k < 32 → 32 * p.bi + r < a.m → 32 * p.bj + k < a.n → v[32 * r + k]? = some e →
         ∃ z ∈ (t.clus c.val).rq, z.n = p.n ∧ z.rqcb = a.rqcb ∧ z.ve = none ∧
           SMap.find ((a.orow0 + 32 * p.bi + r) * 2 ^ 32 + (a.ocol0 + 32 * p.bj + k)) z.elems =
             some (e, o.ta.h.et + o.tb.h.et))

/-- REQUANTISE_UNIT (R54, R55, R64, R65, R111): the first complete unit of an operation is requantised and written,
and its elements leave the requantiser; a residue mismatch stops the operation with status 0x31 and nothing is
written. -/
def Obligations.RequantisesUnit : Prop :=
  ∀ (c : Cluster) (n : Nat) (s : State) (j : Job) (r : RqOp) (u : List Nat) (rest : List RqOp),
    (s.clus c.val).inFlight n = some j → (s.clus c.val).rq = r :: rest → r.n = n →
    findUnit r.q r.out.h r.elems = some u → (∀ k ∈ u, ∀ d, SMap.find k r.elems = some d → d.1.res = resOf d.1.v) →
    let ctx := s.rqCtx (dieOf c.val) r.q r.out (decide (phKind (s.phase (fld j.desc 16 8)) = 6))
    let w := s.rqWrite (.requant c) ctx (ctx.run (unitElts r.elems u)) (fld j.desc 24 4) []
    (w.1 = 0 → j.passes ≠ 0 → ∃ t o, exec (.requantiseUnit c n false []) s = .next t ∧ t.mem = w.2.mem ∧
      t.stat = w.2.stat ∧ t.cls = w.2.cls ∧ (t.clus c.val).rq.head? = some o ∧
      o = { r with elems := r.elems.filter fun e => !u.contains e.1 }) ∧
    (∃ t, exec (.requantiseUnit c n true []) s = .next t ∧ t.mem = s.mem ∧ t.stat = s.stat ∧
      (∀ k ∈ (t.clus c.val).flight, k.n = n → k.ph = .worked ∧ k.status = 0x31 ∧ k.stop = true) ∧
      ∀ o ∈ (t.clus c.val).rq, o.n ≠ n)

/-- The element of a tile (R95) of two integer tensors over one interval without slots is the exact dot product, added
to the preload and brought to 64 bits with saturation once at the end of the interval; its residue is that of its value
and no residue check fails (R54). -/
def Obligations.IntegerDotProduct : Prop :=
  ∀ (a b : View) (i q k0 k : Nat) (pre : Int), a.fmt = 2 → b.fmt = 2 → a.ocap = none → b.ocap = none →
    k0 % 256 = 0 → 0 < k → k ≤ 16 → k0 + k ≤ a.k → k0 + k ≤ b.k →
    let v := pre + ((List.range k).map fun p => sx 16 (a.code i (k0 + p)) * sx 16 (b.code q (k0 + p))).sum
    tileElement a b i q k0 k (accOf pre) = ⟨⟨limit 64 v, decide (limit 64 v ≠ v), resOf (limit 64 v)⟩, false⟩

/-- COPY and COMET (R186, R196): one row of raw bytes, read by the engine, lands in memory or at its slot of the
cluster buffer, and a Comet transfer within its bound writes its 8 inline bytes, little-endian; the descriptor's work is then done with
status OK. GATHER and SCATTER (R188 to R191): with one index, row IDX[0] goes to row ROW0, or to row 0 of a panel in
the cluster buffer; row ROW0 goes to row IDX[0]; a SCATTER index beyond the tensor moves nothing. -/
def Obligations.TransfersMove : Prop :=
  (∀ (c : Cluster) (n : Nat) (s s1 : State) (j : Job) (bs : List Byte),
     let y := sbodyOf j.desc
     let a := sargsOf (s.peek64 y.args)
     let done := fun (t : State) => ∀ k ∈ (t.clus c.val).flight, k.n = n → k.ph = .worked ∧ k.status = 0
     (s.streamJob c.val n 0 = some j → a.nrows = 1 → a.rbytes = bs.length →
       s.memRead (streamClient c.val y.se) (fld j.desc 32 16) a.src a.rbytes [] = ((0, bs), s1) →
       (y.dkind = 2 → ∃ t, exec (.copy c n []) s = .next t ∧ done t ∧ t = { s1 with cl := t.cl } ∧
         (t.clus c.val).buf.bytes (8192 * y.dslot) a.rbytes = bs ∧
         (∀ i, (i < 8192 * y.dslot ∨ 8192 * y.dslot + a.rbytes ≤ i) →
           (t.clus c.val).buf.byte i = (s1.clus c.val).buf.byte i) ∧
         (t.clus c.val).tile = (s1.clus c.val).tile ∧ SameClus s1 t c.val) ∧
       (∀ s2, y.dkind = 0 → s1.memWrite (streamClient c.val y.se) a.dst bs (fld j.desc 24 4) [] = (0, s2) →
         ∃ t, exec (.copy c n []) s = .next t ∧ done t ∧ t = { s2 with cl := t.cl } ∧ SameClus s2 t c.val)) ∧
     (∀ s2, s.runJob c.val n 0x11 = some j → fld j.desc 256 1 = 1 → s.cometLate c.val j = 0 →
       s.memWrite (.comet c) (fld j.desc 384 48) (natLe 8 (fld j.desc 320 64)) (fld j.desc 24 4) [] = (0, s2) →
       ∃ t, exec (.comet c n []) s = .next t ∧ done t ∧ t = { s2 with cl := t.cl } ∧ SameClus s2 t c.val)) ∧
  (∀ (c : Cluster) (n : Nat) (s s1 s2 s3 : State) (j : Job) (ib : List Byte) (l : List (List Byte)),
     let y := sbodyOf j.desc
     let a := sargsOf (s.peek64 y.args)
     let hs := s.hdrAt a.src
     let hd := s.hdrAt a.dst
     let who := streamClient c.val y.se
     let tag := fld j.desc 32 16
     let ix := leAt ib 0 4
     let done := fun (t : State) => ∀ k ∈ (t.clus c.val).flight, k.n = n → k.ph = .worked ∧ k.status = 0
     a.nrows = 1 → y.dkind = 0 → s.memRead who tag a.idx 4 [] = ((0, ib), s1) →
     (s.streamJob c.val n 2 = some j → ix < hs.rows → s1.readAll who tag (hs.rowRanges ix a.k0 a.klen) [] = (0, l, s2) →
       s2.putRow who hd (s2.memRaw hs) (some ix) hs.k a.row0 a.k0 a.klen (fld j.desc 24 4) [] = (0, s3) →
       ∃ t, exec (.gather c n []) s = .next t ∧ done t ∧ t = { s3 with cl := t.cl }) ∧
     (s.streamJob c.val n 3 = some j → ix < hd.rows →
       s1.readAll who tag (hs.rowRanges a.row0 a.k0 a.klen) [] = (0, l, s2) →
       s2.putRow who hd (s2.memRaw hs) (some a.row0) hs.k ix a.k0 a.klen (fld j.desc 24 4) [] = (0, s3) →
       ∃ t, exec (.scatter c n []) s = .next t ∧ done t ∧ t = { s3 with cl := t.cl }) ∧
     (s.streamJob c.val n 3 = some j → ix = 0xFFFFFFFF → hd.rows ≤ ix →
       ∃ t, exec (.scatter c n []) s = .next t ∧ done t ∧ t.mem = s1.mem ∧ t = { s1 with cl := t.cl }))

/-- PLACE (R180, R181, R186): the panel's bytes stand at its slot of every named local memory; the source is the tensor in
memory or a panel of the cluster buffer. DESCRIPTOR_COMPLETE of a stream that ends with OK (R181): its binding is then the
last of the live table of each local memory it names. -/
def Obligations.PlacePutsPanel : Prop :=
  (∀ (c : Cluster) (n : Nat) (s s1 : State) (j : Job),
     let y := sbodyOf j.desc
     let a := sargsOf (s.peek64 y.args)
     let h := s.hdrAt a.src
     let o := s.outlAt h
     let rows := (List.range a.nrows).map fun i => (some (a.row0 + i) : RowSrc)
     let placed := fun (r t : State) (raw : RawT) =>
       let bs := panelBytes h o raw rows a.row0 a.k0 a.klen
       (∀ k ∈ (t.clus c.val).flight, k.n = n → k.ph = .worked ∧ k.status = 0) ∧
       (∀ m ∈ y.dests, ((t.clus c.val).localMem m).bytes (8192 * y.dslot) bs.length = bs ∧
         ∀ i, (i < 8192 * y.dslot ∨ 8192 * y.dslot + bs.length ≤ i) →
           ((t.clus c.val).localMem m).byte i = ((r.clus c.val).localMem m).byte i) ∧
       t = { r with cl := t.cl } ∧ SameClus r t c.val
     s.streamJob c.val n 1 = some j → a.nrows ≠ 0 →
     (∀ z, y.srcb = true → ((s.clus c.val).live 32).find? (fun z => z.covers a.src a.row0 a.nrows a.k0
         (min (a.k0 + a.klen) h.k)) = some z →
       ∃ t, exec (.place c n []) s = .next t ∧ placed s t (s.panelRaw (s.clus c.val).buf z)) ∧
     (∀ l, y.srcb = false → s.readAll (streamClient c.val y.se) (fld j.desc 32 16)
         ((List.range a.nrows).flatMap (fun i => h.rowRanges (a.row0 + i) a.k0 a.klen)
           ++ h.groupRanges o a.row0 a.nrows a.k0 a.klen) [] = (0, l, s1) →
       ∃ t, exec (.place c n []) s = .next t ∧ placed s1 t (s1.memRaw h))) ∧
  (∀ (c : Cluster) (n busy : Nat) (s : State) (j : Job) (b : Binding), (s.clus c.val).inFlight n = some j →
     j.ph = .worked → j.status = 0 → fld j.desc 0 8 = 0x10 → fld j.desc 9 1 = 0 →
     (sbodyOf j.desc).binding (sargsOf (s.peek64 (sbodyOf j.desc).args)) = some b →
     ∃ t, exec (.descriptorComplete c n busy) s = .next t ∧ (t.clus c.val).inFlight n = none ∧
       ∀ m ∈ (sbodyOf j.desc).dests, (t.clus c.val).live m = (s.clus c.val).live m ++ [b])

/-- CKBUILD (R198): the checksum entry of a block is the CRC-32C of its 4,096 bytes, little-endian, and no other byte
of memory changes. -/
def Obligations.ChecksumBuild : Prop :=
  ∀ (c : Cluster) (n : Nat) (s : State) (j : Job),
    let y := sbodyOf j.desc
    let a := sargsOf (s.peek64 y.args)
    let b := a.src / 4096
    s.streamJob c.val n 4 = some j → a.nrows = 1 → s.ckHas b = true → s.shc.comb = [] →
    ∃ t, exec (.ckbuild c n []) s = .next t ∧
      (∀ k ∈ (t.clus c.val).flight, k.n = n → k.ph = .worked ∧ k.status = 0) ∧
      leNat (t.mem.bytes (s.ckAt b) 4) = (crc32c (s.mem.bytes (4096 * b) 4096)).toNat ∧
      (∀ x, (x < s.ckAt b ∨ s.ckAt b + 4 ≤ x) → t.mem.byte x = s.mem.byte x) ∧
      t = { s with mem := t.mem, cls := t.cls, shc := t.shc, regs := t.regs, cl := t.cl } ∧
      SameRegs s t [R.shcCbhwm (s.homeSlice (4096 * b) / 32)] ∧ SameClus s t c.val

/-- HOME_SLICE_ACCESS without a checksum (R8, R200, R208, R209, R214): a request within one block with no array finding and
no open combining entry; a read answers the bytes and leaves memory, a write stores its bytes and leaves every other
byte; one beyond the top of HBM, or of host memory, answers MALFORMED. HOST_MEMORY_ACCESS and the PCIe endpoint (R267, R447, R449) without array findings: reads answer the bytes of
the host window, writes store them and leave every other byte; what the endpoint writes is PRIVATE; while classes are
enforced it reads only blocks of class 1, 2 or 3 and otherwise aborts with SEC_STAT.DENY set. -/
def Obligations.MemoryAccess : Prop :=
  (∀ (who : Client) (a n : Nat) (bs : List Byte) (k : BitVec 4) (s : State), s.shc.comb = [] →
     s.ckOn (a / 4096) = false → s.hbm.spoiled = false →
     (0 < n → a % 4096 + n ≤ 4096 → a + n ≤ s.hbmEnd → a + n ≤ hostBase → s.noiseBlocked who a n false = false →
       ∃ t, exec (.homeSliceAccess who a none n k []) s = .next t ∧ t.answer = (0, s.mem.bytes a n) ∧
         t = { s with answer := t.answer, regs := t.regs, shc := t.shc } ∧
         SameRegs s t [R.shcCbhwm (s.homeSlice a / 32)]) ∧
     (0 < bs.length → a % 4096 + bs.length ≤ 4096 → a + bs.length ≤ s.hbmEnd → a + bs.length ≤ hostBase →
       ∃ t, exec (.homeSliceAccess who a (some bs) n k []) s = .next t ∧ t.answer = (0, []) ∧
         t.mem.bytes a bs.length = bs ∧
         (∀ x, (x < a ∨ a + bs.length ≤ x) → t.mem.byte x = s.mem.byte x) ∧
         t = { s with answer := t.answer, mem := t.mem, cls := t.cls, shc := t.shc, regs := t.regs } ∧
         SameRegs s t [R.shcCbhwm (s.homeSlice a / 32)]) ∧
     (s.hbmEnd < a + n → exec (.homeSliceAccess who a none n k []) s = .next { s with answer := (0x10, []) }) ∧
     (s.hbmEnd < a + bs.length →
       exec (.homeSliceAccess who a (some bs) n k []) s = .next { s with answer := (0x10, []) })) ∧
  (∀ (who : Client) (h n : Nat) (bs : List Byte) (k : BitVec 4) (s : State),
     let writes := fun (t : State) => t.answer = (0, []) ∧ t.mem.bytes (hostBase + h) bs.length = bs ∧
       (∀ x, (x < hostBase + h ∨ hostBase + h + bs.length ≤ x) → t.mem.byte x = s.mem.byte x) ∧
       t = { s with answer := t.answer, mem := t.mem, cls := t.cls }
     let reads := fun (t : State) => t = { s with answer := (0, s.mem.bytes (hostBase + h) n) }
     (h + n ≤ s.fuse.hostBytes → s.noiseBlocked who (hostBase + h) n false = false →
       ∃ t, exec (.hostMemoryAccess who h none n k []) s = .next t ∧ reads t) ∧
     (h + bs.length ≤ s.fuse.hostBytes → ∃ t, exec (.hostMemoryAccess who h (some bs) n k []) s = .next t ∧ writes t) ∧
     (h + n ≤ s.fuse.hostBytes → s.sec.sealMem = false → ∃ t, exec (.pcieEndpointRead h n []) s = .next t ∧ reads t) ∧
     (h + n ≤ s.fuse.hostBytes → s.sec.sealMem = true → 0 < n → h % 4096 + n ≤ 4096 →
       (∃ t, exec (.pcieEndpointRead h n []) s = .next t ∧
         if 1 ≤ s.classOf (hostBase + h) ∧ s.classOf (hostBase + h) ≤ 3 then reads t
         else t.answer = (0x51, []) ∧ t.mem = s.mem ∧ (t.rd R.secStat).testBit 2 = true)) ∧
     (s.fuse.hostBytes < h + n → exec (.hostMemoryAccess who h none n k []) s = .next { s with answer := (0x10, []) } ∧
       exec (.pcieEndpointRead h n []) s = .next { s with answer := (0x10, []) }) ∧
     (h + bs.length ≤ s.fuse.hostBytes → ∃ t, exec (.pcieEndpointWrite h bs []) s = .next t ∧ writes t ∧
       (0 < bs.length → h % 4096 + bs.length = 4096 → h % 4096 = 0 → t.classOf (hostBase + h) = 0)))

/-- A block whose checksum is maintained and whose entry is the CRC-32C of its bytes still has that entry after a
write of part of it (R199). -/
def Obligations.ChecksumFollowsWrites : Prop :=
  ∀ (who : Client) (a : Nat) (bs : List Byte) (k : BitVec 4) (s : State), s.shc.comb = [] →
    0 < bs.length → a % 4096 + bs.length ≤ 4096 → a + bs.length ≤ s.hbmEnd → a + bs.length ≤ hostBase →
    s.ckOn (a / 4096) = true → s.rd R.stmCktop % 4096 = 0 →
    s.ckEntry (a / 4096) = (crc32c (s.mem.bytes (a / 4096 * 4096) 4096)).toNat →
    ∃ t, exec (.homeSliceAccess who a (some bs) 0 k []) s = .next t ∧ t.mem.bytes a bs.length = bs ∧
      t.ckEntry (a / 4096) = (crc32c (t.mem.bytes (a / 4096 * 4096) 4096)).toNat

/-- RADD, RMAX, RMIN and ROR (R211, R213): an aligned request within a line opens an entry with its elements, read as
signed numbers of their width, when the line has none, and merges into an open entry of the same operation; memory
waits. AADD, ASWAP and ACAS (R211): the answer is the old value of the aligned 8 bytes; the new value is the sum
modulo 2^64, the operand, or, for ACAS, the operand where the old value equals the comparand. No other byte changes. A
request that is misaligned, crosses its line or lies beyond HBM answers MALFORMED and changes nothing (R8, R211). -/
def Obligations.ReductionsAndAtomics : Prop :=
  (∀ (who : Client) (a : Nat) (el : Elem) (lanes : List Int) (s : State),
     let line := a / 256
     let k := s.homeSlice (line * 256)
     let es := SMap.val [] s.shc.comb k
     let form := fun (op : RedOp) (ty : Elem) (i : Instr) (l : List Int) =>
       let w := elemBytes ty
       let v := fun p => sx (8 * w) (trunc (8 * w) (l.getD p 0))
       (¬(a + w * l.length ≤ s.hbmEnd ∧ a % w = 0 ∧ 4 ≤ w * l.length ∧ a % 256 + w * l.length ≤ 256) →
         exec i s = .next { s with answer := (0x10, []) }) ∧
       (a + w * l.length ≤ s.hbmEnd → a % w = 0 → 4 ≤ w * l.length → a % 256 + w * l.length ≤ 256 →
       ((es.find? fun e => e.line = line) = none → es.length < 128 → ∃ t e, exec i s = .next t ∧
         SMap.val [] t.shc.comb k = es ++ [e] ∧ e.line = line ∧ e.op = op ∧ e.el = ty ∧
         (∀ p, p < l.length → SMap.find (a % 256 / w + p) e.lanes = some (v p)) ∧
         t.answer = (0, []) ∧ t = { s with answer := t.answer, shc := t.shc, cls := t.cls, regs := t.regs }) ∧
       (∀ e, (es.find? fun e => e.line = line) = some e → e.op = op → e.el = ty → ∃ t f, exec i s = .next t ∧
         ((SMap.val [] t.shc.comb k).find? fun e => e.line = line) = some f ∧ f.op = op ∧ f.el = ty ∧
         (∀ p, p < l.length → SMap.find (a % 256 / w + p) f.lanes = some (match SMap.find (a % 256 / w + p) e.lanes with
           | some x => redEffect op x (v p)
           | none => v p)) ∧
         t.answer = (0, []) ∧ t = { s with answer := t.answer, shc := t.shc, cls := t.cls, regs := t.regs }))
     form .add el (.radd who a el lanes []) lanes ∧ form .max el (.rmax who a el lanes []) lanes ∧
     form .min el (.rmin who a el lanes []) lanes ∧
     ∀ ws : List Word, form .or .i64 (.ror who a ws []) (ws.map fun w => (w.toNat : Int))) ∧
  (∀ (who : Client) (a : Nat) (v w : Word) (s : State), s.shc.comb = [] → s.ckOn (a / 4096) = false →
     let old := leNat (s.mem.bytes a 8)
     let gives := fun (i : Instr) (new : Nat) =>
       (a % 8 = 0 → a + 8 ≤ s.hbmEnd → ∃ t, exec i s = .next t ∧ t.answer = (0, natLe 8 old) ∧
         leNat (t.mem.bytes a 8) = new ∧ (∀ x, (x < a ∨ a + 8 ≤ x) → t.mem.byte x = s.mem.byte x) ∧
         t = { s with answer := t.answer, mem := t.mem, shc := t.shc, cls := t.cls, regs := t.regs }) ∧
       (a % 8 ≠ 0 ∨ s.hbmEnd < a + 8 → exec i s = .next { s with answer := (0x10, []) })
     gives (.aadd who a v []) ((old + v.toNat) % 2 ^ 64) ∧ gives (.aswap who a v []) v.toNat ∧
     gives (.acas who a w v []) (if old = w.toNat then v.toNat else old))

/-- COMBINING_ENTRY_CLOSE (R212, R213): an entry idle for SHC_CTL.IDLE cycles is applied to its line: each element it
holds becomes the operation of the old one and the entry's, cut to its width, and the line's other elements stand. -/
def Obligations.CombiningEntryApplies : Prop :=
  ∀ (line : Nat) (s : State) (e : Comb),
    let k := s.homeSlice (line * 256)
    let es := SMap.val [] s.shc.comb k
    let w := elemBytes e.el
    es.find? (fun e => e.line = line) = some e → e.idle ≥ 4 * bitsOf (s.rd (R.shcCtl (k / 32))) 0 8 →
    s.ckOn (line * 256 / 4096) = false →
    ∃ t, exec (.combiningEntryClose line []) s = .next t ∧
      SMap.val [] t.shc.comb k = es.filter (fun f => f.line ≠ line) ∧
      (∀ i, i < 256 / w → leNat (t.mem.bytes (line * 256 + w * i) w) = match SMap.find i e.lanes with
        | some v => trunc (8 * w) (redEffect e.op (sx (8 * w) (leNat (s.mem.bytes (line * 256 + w * i) w))) v)
        | none => leNat (s.mem.bytes (line * 256 + w * i) w)) ∧
      (∀ x, (x < line * 256 ∨ line * 256 + 256 ≤ x) → t.mem.byte x = s.mem.byte x) ∧
      (e.op ≠ .add → t = { s with mem := t.mem, shc := t.shc })

/-- SCRUB_READ and ROW_REPAIR (R213, R216, R217, R220, R221): one byte in error counts in MEM_CECNT and in its row, and its
write-back closes an open entry of the line; two or
three lose the grain, which reads zero unless the slice holds its line dirty; the last codeword ends the pass; a due
row moves to the lowest free spare. -/
def Obligations.ScrubAndRepair : Prop :=
  ∀ (ch : Channel) (s : State),
    (bitsOf (s.rd R.memScrub) 8 1 = 1 → s.chanLive ch.val = true → s.chanLevel ch.val ≥ 50 →
      (∀ w : Nat, w < 2 ^ 26 - 1 →
        let a := s.dpaOf ch.val (w * 32)
        ∃ t, exec (.scrubRead ch w 1 false) s = .next t ∧
          ∀ e ∈ SMap.val [] t.shc.comb (s.homeSlice a), e.line ≠ a / 256) ∧
      (∀ (w : Nat) (b : Bool), w < 2 ^ 26 - 1 → b = true ∨ s.shc.comb = [] → ∃ t, exec (.scrubRead ch w 1 b) s = .next t ∧
        (t.rd R.memStat).testBit 0 = true ∧ t.rd R.memCecnt = min (s.rd R.memCecnt + 1) 0xFFFFFFFF ∧
        (t.chan ch.val).cecur = min ((s.chan ch.val).cecur + 1) 4095 ∧
        ((s.chan ch.val).rows.length < 256 → SMap.val 0 (t.chan ch.val).rows (w / 64)
          = SMap.val 0 (s.chan ch.val).rows (w / 64) + 1) ∧ t.mem = s.mem) ∧
      (∀ (b : Bool), ∃ t, exec (.scrubRead ch (2 ^ 26 - 1) 0 b) s = .next t ∧
        t.chan ch.val = { s.chan ch.val with rows := [], cecur := 0 } ∧ t = { s with hbm := t.hbm }) ∧
      (∀ (w : Nat) (b : Bool), w < 2 ^ 26 - 1 →
        let g := s.dpaOf ch.val (w * 32) / 256 * 256
        ∃ t, exec (.scrubRead ch w 2 b) s = .next t ∧
          (∀ x, g ≤ x → x < g + 256 → t.mem.byte x = if s.isDirty (g / 256) then s.mem.byte x else 0) ∧
          (∀ x, (x < g ∨ g + 256 ≤ x) → t.mem.byte x = s.mem.byte x))) ∧
    (∀ row l k, (s.chan ch.val).due = row :: l → s.running = false → s.chanLive ch.val = true → (s.chan ch.val).freeSpare = some k →
      (s.chan ch.val).spareOf row = none → ∃ t, exec (.rowRepair ch) s = .next t ∧
        SMap.find k (t.chan ch.val).spares = some (.inUse row) ∧ row ∉ (t.chan ch.val).due ∧
        (t.rd R.memStat).testBit 2 = true ∧ t.rd R.memRepcnt = min (s.rd R.memRepcnt + 1) 0xFFFFFFFF ∧
        t.mem = s.mem)

/-- COMPLETION_DOORBELL (R269): with rings enabled and the ring's generation, at a ring whose entry keeps Table 9.2, it
completes and sets the count of records consumed; a bell at offset 8 is the same.
PRODUCER_DOORBELL (R269 to R271): with rings enabled, the ring's generation and a count within N entries of CONS, it
completes, sets PROD, makes the ring active (idle where nothing is left) and stores the ring's entry; a count beyond that is a
ring error, shown in LASTERR; a bell of another generation or another size is discarded and counted.
RING_FETCH (R270, R273): at a ring that is active, has an entry and a record free and whose turn it is, it completes: CONS
moves on, a record is reserved, and the entry goes to the queue of its cluster, to its die's collective engine, to the
steward command unit or to the management ring, or a read that failed is its record. -/
def Obligations.RingsFetch : Prop :=
  (∀ (r : Fin 65536) (v : Word) (errs : Errs) (s s1 : State) (x : Ring),
     s.rf R.updCtl 0 1 = 1 → s.ringSee r.val errs = (some x, s1) → fld v 32 16 = x.rgen →
     x.st = .error ∨ (x.tclass ≠ 0 ∧ s1.ringOk x = true) →
     ∃ t, exec (.completionDoorbell r v errs) s = .next t ∧ exec (.producerDoorbell r 8 8 v errs) s = .next t ∧
       t = { s1 with stw := t.stw } ∧ t.stw = { s1.stw with rings := t.stw.rings } ∧
       ∀ q, t.ring q = if q = r.val then { x with cqCons := BitVec.ofNat 32 (fld v 0 32) } else s1.ring q) ∧
  (∀ (r : Fin 65536) (v : Word) (errs : Errs) (s s1 : State) (x : Ring),
     let p : BitVec 32 := BitVec.ofNat 32 (fld v 0 32)
     s.rf R.updCtl 0 1 = 1 → s.ringSee r.val errs = (some x, s1) → fld v 32 16 = x.rgen →
     x.st ≠ .error → x.tclass ≠ 0 → s1.ringOk x = true →
     ((p - x.cons).toNat ≤ 2 ^ x.log2n →
       ∃ t, exec (.producerDoorbell r 0 8 v errs) s = .next t ∧
         t = { s1 with stw := t.stw, mem := t.mem } ∧ t.stw = { s1.stw with rings := t.stw.rings } ∧
         (∀ q, t.ring q = if q = r.val then { x with
           prod := p
           st := if p = x.cons ∧ x.reserved = 0 then .idle else .active } else s1.ring q) ∧
         t.mem.bytes (s1.ringEntryAt r.val + 32) 4 = natLe 4 x.cons.toNat ∧
         ∀ a, (a < s1.ringEntryAt r.val + 32 ∨ s1.ringEntryAt r.val + 48 ≤ a) → t.mem.byte a = s1.mem.byte a) ∧
     ((p - x.cons).toNat > 2 ^ x.log2n →
       ∃ t, exec (.producerDoorbell r 0 8 v errs) s = .next t ∧
         (∀ q, t.ring q = if q = r.val then { x with st := .error } else s1.ring q) ∧
         Flagged s1 t R.updStat 0 R.updRingerrcnt 1 ∧ bitsOf (t.rd R.updLasterr) 31 1 = 1 ∧
         bitsOf (t.rd R.updLasterr) 0 16 = r.val)) ∧
  (∀ (r : Fin 65536) (off : BitVec 12) (n : Nat) (v : Word) (errs : Errs) (s : State),
     n ≠ 8 ∨ (off ≠ 0 ∧ off ≠ 8) ∨ s.rf R.updCtl 0 1 = 0 ∨
       (∃ x, s.ringSee r.val errs = (some x, s) ∧ fld v 32 16 ≠ x.rgen) →
     ∃ t, exec (.producerDoorbell r off n v errs) s = .next t ∧ Flagged s t R.updStat 1 R.updDbstalecnt 1 ∧
       t = { s with regs := t.regs } ∧ SameRegs s t [R.updStat, R.updDbstalecnt]) ∧
  (∀ (r : Fin 65536) (errs : Errs) (s s1 : State) (st : Nat) (bs : List Byte),
     let x := s.ring r.val
     let b := blockOf bs
     let s2 := { s1 with stw := { s1.stw with turn := SMap.put x.target r.val s1.stw.turn } }
     let t0 := (s2.setRing r.val { x with cons := x.cons + 1, reserved := x.reserved + 1 }).ringStore r.val
     s.rf R.updCtl 0 1 = 1 → s.dev.selfRefresh = false → s.ringTurn r.val = true → x.st = .active → x.cons ≠ x.prod →
     (x.cqProd - x.cqCons).toNat + x.reserved < 2 ^ x.cqlog2 →
     s.memRead .steward 0 (x.base + 64 * (x.cons.toNat % 2 ^ x.log2n)) 64 errs = ((st, bs), s1) →
     (st ≠ 0 → exec (.ringFetch r errs) s = .next (t0.ringRec r.val fun pass =>
       mkRec 0 st pass 0 (if x.tclass = 1 then 0 else x.tclass) 0 0 x.cons.toNat 0 0)) ∧
     (∀ (q i : Nat) (t1 : State), st = 0 → x.tclass = 1 → q ≠ 1 →
       t0.issueOne x.tunit (Fin.ofNat 8 x.tqueue) b (some (r.val, x.cons)) errs = ((q, i), t1) →
       exec (.ringFetch r errs) s = .next t1) ∧
     (∀ t1 : State, st = 0 → x.tclass = 2 → t0.handColl r.val x.cons x.tunit b = (true, t1) →
       exec (.ringFetch r errs) s = .next t1) ∧
     (st = 0 → x.tclass = 3 → t0.entryCheck b (isStw (fld b 0 8)) (stwLegal (fld b 0 8) t0.dev.st) (t0.stwBad b) = (0, 0) →
       fld b 8 1 = 0 →
       ∃ t, exec (.ringFetch r errs) s = .next t ∧
         t.stw.jobs = t0.stw.jobs ++ [⟨t0.stw.nextJob, b, r.val, x.cons, t0.order, t0.stwSlots b, 0, 0, 0, 0, false⟩] ∧
         t.stw.nextJob = t0.stw.nextJob + 1 ∧ t.order = t0.order + 1 ∧ t = { t0 with stw := t.stw, order := t.order } ∧
         t.ring r.val = { x with cons := x.cons + 1, reserved := x.reserved + 1 }) ∧
     (st = 0 → x.tclass = 4 → exec (.ringFetch r errs) s =
       .next { t0 with stw := { t0.stw with mgmt := t0.stw.mgmt ++ [⟨r.val, x.cons, b⟩] } }))

/-- CC_LOAD, CC_START and CC_STOP (R153, R275): LEN bytes stand at address 0 of the control core's instruction or data
memory, the rest of it zero; the masked cores start at address 0 with registers zero, or are held in reset. A cluster that is
Dark makes CC_LOAD and CC_START end MALFORMED (R363). -/
def Obligations.StewardMovesCores : Prop :=
  ∀ (k : Nat) (s : State) (j : StwJob),
    (∀ (bs : List Byte) (s1 : State), StwRuns s k 0x80 j → s.isDark (fld j.cmd 256 7) = false →
      s.memRead .steward (fld j.cmd 32 16) (fld j.cmd 320 48) (fld j.cmd 288 32) [] = ((0, bs), s1) →
      s1.stwJob k = some j →
      ∃ t, exec (.ccLoad k []) s = .next t ∧ StwEnds { s1 with cl := t.cl } t k j ∧ SameClus s1 t (fld j.cmd 256 7) ∧
        let m : Mem := if fld j.cmd 264 1 = 0 then (t.clus (fld j.cmd 256 7)).imem else (t.clus (fld j.cmd 256 7)).dmem
        m.bytes 0 bs.length = bs ∧ ∀ i, bs.length ≤ i → m.byte i = 0) ∧
    (StwRuns s k 0x81 j → (∀ c ∈ ccMask j.cmd, s.isDark c = false) → ∃ t, exec (.ccStart k) s = .next t ∧ StwEnds { s with cl := t.cl } t k j ∧
      ∀ c, t.clus c = if c < 96 ∧ fld j.cmd (256 + c) 1 = 1 then { s.clus c with
          cc := .running
          ccPc := 0
          ccX := Vector.replicate 32 0
          ccCsr := []
          halted := false } else s.clus c) ∧
    (StwRuns s k 0x82 j → ∃ t, exec (.ccStop k) s = .next t ∧ StwEnds { s with cl := t.cl } t k j ∧
      ∀ c, t.clus c = if c < 96 ∧ fld j.cmd (256 + c) 1 = 1 then { s.clus c with cc := .reset } else s.clus c) ∧
    (StwRuns s k 0x80 j → s.isDark (fld j.cmd 256 7) = true → exec (.ccLoad k []) s = .next (s.stwEnd k 0x10 32 0)) ∧
    (StwRuns s k 0x81 j → (∃ c ∈ ccMask j.cmd, s.isDark c = true) →
      exec (.ccStart k) s = .next (s.stwEnd k 0x10 32 0))

/-- UPD_PREP and UPD_APPLY (R277, R285, R288) where the checks hold: PREP of an owned shard, in a step that is not private,
adds the sum of squares of its gradient to the four lanes at ACC, modulo 2^64 each, where ACC lies in host memory; a CCONLY
apply rewrites the compute copy from the slot's weights and stores CDIG; a full apply writes the next slot first and stores
both digests, and its result is noted for the commit. -/
def Obligations.UpdateCommands : Prop :=
  ∀ (k : Nat) (e : Fin 8) (errs : Errs) (s s1 : State) (j : StwJob),
    let b := j.cmd
    let n := fld b 288 32
    let y := s1.shard (fld b 256 32)
    let who : Client := .update e
    let src : Src := { die := 4, kind := 0, index := e.val }
    s.rf R.updCtl 1 1 = 1 → s.loadPending j.ord j.cbs = false →
    (s.onStw k fun j => { j with eng := e.val }).updCheck e.val b j.ord errs = ((0, 0), s1) →
    (∀ (gs : List Int) (s2 : State), StwRuns s k 0x88 j → errs = [] → s1.private_ = false → y.owned = true →
      fld b 320 48 % 32 = 0 → fld b 320 48 ≥ hostBase →
      s1.readElems who (fld b 32 16) (s1.hdrAt y.grad) [] = ((0, gs), s2) →
      let sq := gs.foldl (fun m g => m + g.natAbs ^ 2) 0
      ∃ t, exec (.updPrep k e errs) s = .next t ∧ (sq < 2 ^ 128 → ∃ s3, StwEnds s3 t k j ∧
        s3 = { s2 with mem := s3.mem, cls := s3.cls } ∧
        (∀ i, i < 4 → leNat (s3.mem.bytes (fld b 320 48 + 8 * i) 8)
          = (leNat (s2.mem.bytes (fld b 320 48 + 8 * i) 8) + sq / 2 ^ (32 * i) % 2 ^ 32) % 2 ^ 64) ∧
        ∀ a, (a < fld b 320 48 ∨ fld b 320 48 + 32 ≤ a) → s3.mem.byte a = s2.mem.byte a)) ∧
    (let q := y.ccrq (n + 1)
     let ev : Bool := phKind (s1.phase (fld b 16 8)) = 6
     let cdig := fun (v : State) => (v.shardDpa (fld b 256 32) + 112 + 8 * ((n + 1) % 2),
       natLe 8 (v.dig (v.runBytes (v.shardRuns (v.hdrAt (rqcbOf (v.peek64 q)).outhdr) y))))
     let sdig := fun (v : State) => (v.shardDpa (fld b 256 32) + 96 + 8 * (n % 2), natLe 8 (v.dig (v.sdigBytes y n)))
     StwRuns s k 0x89 j → ∃ t, exec (.updApply k e errs) s = .next t ∧
      (∀ (bs : List Byte) (s2 s3 s4 : State) (m : SMap (Nat × Nat)), fld b 384 1 = 1 →
        s1.memRead who (fld b 32 16) (y.ws n) (4 * y.nelem) errs = ((0, bs), s2) → (phKind (s2.phase (fld b 16 8)) = 6) = ev →
        s2.writeCopy who q y ev (lanesOf 4 bs) [] errs = ((0, m), s3) →
        (s3.satEvents src m).writeAll who [cdig (s3.satEvents src m)] 1 errs = (0, s4) → StwEnds s4 t k j) ∧
      (∀ (st : Nat) (m : SMap (Nat × Nat)) (ws : List Int) (sat : Nat) (s2 : State), fld b 384 1 = 0 →
        s1.updSlot who b y errs = (((st, m), ws, sat), s2) →
        (st ≠ 0 → t = ((s2.satEvents src m).noteApply b st).stwEnd k st 0 0) ∧
        (∀ (m2 : SMap (Nat × Nat)) (s3 s4 : State), st = 0 → sat = 0 → (phKind (s2.phase (fld b 16 8)) = 6) = ev →
          s2.writeCopy who q y ev ws m errs = ((0, m2), s3) →
          (s3.satEvents src m2).writeAll who [sdig (s3.satEvents src m2), cdig (s3.satEvents src m2)] 1 errs = (0, s4) →
          t = (s4.noteApply b (if satAny m2 then 1 else 0)).stwEnd k (if satAny m2 then 1 else 0) 0 0)))

/-- UPD_COMMIT (R293, R294): an enabled commit of epoch EPOCH + 1 in a step that is not private, with nothing due for a
replay before or after the digest is stored, every apply good and its own writes good, stores the record, sets EPOCH, clears
the epoch's counts and statistics, and ends. -/
def Obligations.CommitAdvancesEpoch : Prop :=
  ∀ (k dig : Nat) (s s1 s2 s3 : State) (j : StwJob),
    let n := fld j.cmd 256 32
    let a := s.rd R.updCommita
    StwRuns s k 0x8A j → s.rf R.updCtl 1 1 = 1 → s.priv.due = none → n = s.epoch + 1 → s.epoch + 1 ≤ 0xFFFFFFFF →
    s.dev.replayDue = [] → s.private_ = false → (∀ p ∈ s.stw.applies, p.2.toNat ≤ 1) →
    s.commitDigest n [] = ((0, dig), s1) →
    s1.memWrite .steward (a + 8 + 8 * (n % 2)) (natLe 8 dig) 0 [] = (0, s2) → s2.dev.replayDue = [] →
    s2.memWrite .steward a (natLe 8 (commitRec n dig)) 0 [] = (0, s3) →
    ∃ t, exec (.updCommit k false []) s = .next t ∧ t.epoch = s.epoch + 1 ∧ t.rf R.updRplcnt 0 8 = 0 ∧ t.stat = [] ∧
      t.stw.applies = [] ∧ t.stw.badBlocks = [] ∧ t.priv.due = none ∧ t.runGen = s.runGen ∧
      (fld j.cmd 9 1 = 0 → t.stwJob k = none) ∧
      (s.rf R.stmCkctl 0 1 = 0 → s.dev.holdPending = false → t.dev.st = s.dev.st)

/-- REPLAY_ABORT and REPLAY_RESTART (R16, R160, R346): within the bound, and with no commit half done, the abort ends all
work, starts a new generation and makes the restart due; where a cause asks for it and no reset of an object is held, the
device enters HELD, else that waits; beyond the bound the abort raises UPD_REPLAY_LIMIT and aborts nothing; the restart
reloads the shadow tables and starts the cores the abort paused. -/
def Obligations.AbortAndRestart : Prop :=
  ∀ s : State,
    (s.running = true → s.dev.replayDue ≠ [] → s.priv.due = none → s.rf R.updRplcnt 0 8 + 1 ≤ s.rf R.updTwincfg 0 4 →
      ∃ t, exec .replayAbort s = .next t ∧ t.runGen = s.runGen + 1 ∧ t.stat = [] ∧ t.dev.replayDue = [] ∧
        t.dev.restartDue = true ∧
        (∀ c, (t.clus c).flight = [] ∧ (∀ q, (t.clus c).qAt q = []) ∧ (t.clus c).cc ≠ .running ∧
          (t.clus c).slipSeen = []) ∧
        t.stw.jobs = [] ∧ (∀ d, (t.eng d).jobs = []) ∧
        let hold := s.dev.replayDue.find? (·.hold)
        (hold = none → t.dev.holdDue = none ∧ t.dev.st = s.dev.st) ∧
        (hold ≠ none → t.resetsDone = true → t.dev.holdDue = none ∧ t.dev.st = .held) ∧
        (hold ≠ none → t.resetsDone = false → t.dev.holdDue = hold ∧ t.dev.st = s.dev.st)) ∧
    (s.running = true → s.dev.replayDue ≠ [] → s.priv.due = none → s.rf R.updTwincfg 0 4 < s.rf R.updRplcnt 0 8 + 1 →
      ∃ t, exec .replayAbort s = .next t ∧ t.dev.st = .fault ∧ t.runGen = s.runGen ∧ t.cl = s.cl) ∧
    (s.dev.restartDue = true → s.running = true → s.resetsDone = true → s.dev.holdDue = none →
      ∃ t, exec .replayRestart s = .next t ∧
        (∀ c, (t.clus c).tileShadow = (s.clus c).tileLive ∧ (t.clus c).bufShadow = (s.clus c).bufLive ∧
          (t.clus c).cc = (if (s.clus c).cc = .paused then .running else (s.clus c).cc) ∧
          ((s.clus c).cc = .paused → (t.clus c).ccPc = 0)) ∧
        t.dev.restartDue = false ∧
        (s.rd R.updPcbbase = 0 ∨ s.rd R.updPcbbase ≥ hostBase → s.sec.sealMem = false →
          t.dev = { s.dev with restartDue := false } ∧ t = { s with dev := t.dev, cl := t.cl, priv := t.priv })) ∧
    (s.dev.restartDue = true → s.running = true → s.resetsDone = true → s.dev.holdDue ≠ none →
      ∃ t, exec .replayRestart s = .next t ∧ t.dev.st = .held ∧ t.dev.holdDue = none ∧ t.cl = s.cl)

/-- COLL_RS, COLL_AG, COLL_A2A and COLL_ALLRED (R324, R326, R327, R328) of a cluster queue: the owner of the one chunk
adds the partial sums received to its own contribution and writes the result; the owner of a shard sends it on with
its digest; the rows for the member itself are written, those lacking as zero blocks and the surplus dropped; the root of an
all-reduce writes the saturated sum of its lanes and its children's. -/
def Obligations.CollectivesCompute : Prop :=
  ∀ (d : Die) (k c n : Nat) (s s1 : State) (j : CollJob) (x : CCtx), j.seq = some (c, n) → j.ring = none → j.ev = false →
    j.sent = [] → j.wrote = [] →
    (∀ (ch : Chunk) (own : List Int) (ms : List Msg), CollRuns s d k 0x40 j x →
      let h := s.hdrAt ch.dhdr
      let w := intBytes h.fmt
      (h.fmt = 3 ∨ h.fmt = 4) → s.chunks x.a = [ch] → ch.own = x.g.pos → x.y.dual = false → 0 < ch.count →
      8 * ch.count ≤ 65536 → ch.count ≤ h.k → h.codes ≥ hostBase →
      s.rsOwn x ch.first ch.count = ((0, own), s1) →
      ((x.rsFrom ch.own).map fun p => s.gotMsg x 1 0 0 (s.memberRank x.g p)) = ms.map some →
      (∀ m ∈ ms, m.data.length = w * ch.count) →
      ∃ t, exec (.collRs d k false []) s = .next t ∧ CollLeft t d k c n 0 ∧
        t = { s1 with mem := t.mem, cls := t.cls, lnk := t.lnk, cl := t.cl } ∧
        (∀ i, i < ch.count → leNat (t.mem.bytes (h.codes + w * i) w) =
          trunc (8 * w) (ms.foldl (fun a m => a + (lanesOf w m.data).getD i 0) (own.getD i 0))) ∧
        ∀ a, (a < h.codes ∨ h.codes + w * ch.count ≤ a) → t.mem.byte a = s1.mem.byte a) ∧
    (∀ (ch : Chunk) (q p : Nat) (l : List (List Byte)), CollRuns s d k 0x41 j x → s.chunks x.a = [ch] →
      ch.own = x.g.pos → x.agTo ch.own = [q] →
      let runs := s.shardRuns (s.hdrAt x.a.dst) (s.shard ch.first)
      let r := s1.memberRank x.g q
      0 < runsLen runs → runsLen runs ≤ 65536 →
      s.readAll x.client x.h.tag (cutRuns runs 0 (runsLen runs)) [] = (0, l, s1) →
      routeValid (s1.route r) = true → s1.pickPort r true x.y.cseq 0 = some p →
      ∃ t, exec (.collAg d k []) s = .next t ∧ (∃ i, t.coll d.val k = some i ∧ i.ph = .run) ∧ t.mem = s1.mem ∧
        SentTo s1 t p r 3 ⟨BitVec.ofNat 12 s1.rank, BitVec.ofNat 8 x.y.group, BitVec.ofNat 16 x.g.cgen,
          BitVec.ofNat 32 x.y.cseq, 0, 0, true, true, BitVec.ofNat 64 (s1.cdig ch.first x.y.buf), l.flatten⟩
          (some (d.val, k))) ∧
    (∀ (bs : List Byte) (s2 : State), CollRuns s d k 0x42 j x → x.g.n = 1 → x.g.pos = 0 →
      s.a2aData x 0 = ((0, bs), s1) →
      let h := s1.hdrAt x.a.dst
      let p := s1.split x.a.tab 0
      let came := bs.length / h.rowBytes
      let row := fun (i : Nat) => h.rowIn (if i < came then some ((bs.drop (h.rowBytes * i)).take h.rowBytes) else none)
      let rows := (List.range p.dcnt).flatMap row
      s1.writeAll x.client (layRuns ((List.range p.dcnt).flatMap fun i => h.rowRuns (p.drow + i)) rows) x.h.rclass [] = (0, s2) →
      ∃ t, exec (.collA2a d k []) s = .next t ∧ CollLeft t d k c n 0 ∧ t.mem = s2.mem ∧
        (came ≤ p.dcnt → t = { s2 with lnk := t.lnk, cl := t.cl })) ∧
    (∀ ms : List Msg, CollRuns s d k 0x43 j x → x.g.pos = 0 → 0 < x.a.count → x.a.src ≥ hostBase → x.a.dst ≥ hostBase →
      s.sec.sealMem = false → s.gotMsg x 6 0 0 s.rank = none →
      ((treeKids x.g.n 0 0).map fun p => s.gotMsg x 5 0 0 (s.memberRank x.g p)) = ms.map some →
      let v := fun (t : State) (a i : Nat) => sx 64 (leNat (t.mem.bytes (a + 8 * i) 8))
      ∃ t, exec (.collAllred d k false []) s = .next t ∧
        (∀ i, i < x.a.count → v t x.a.dst i =
          limit 64 (ms.foldl (fun a m => a + sx 64 (leAt m.data (8 * i) 8)) (v s x.a.src i))) ∧
        (∀ a, (a < x.a.dst ∨ x.a.dst + 8 * x.a.count ≤ a) → t.mem.byte a = s.mem.byte a) ∧
        (x.g.n = 1 → CollLeft t d k c n 0))

/-- COLL_PUT, COLL_SIGNAL and COLLECTIVE_TIMEOUT (R329, R330, R332): a PUT gives its bytes to the lowest UP port of
its peer's route, numbered, behind the address, the class and its place in the transfer (log 52); the peer's report ends it; a SIGNAL goes once no earlier
writer at its peer is in flight; a collective without progress for COLLTMO ends with LINK_LOST. -/
def Obligations.PointToPoint : Prop :=
  ∀ (d : Die) (k c n p : Nat) (s : State) (j : CollJob) (x : CCtx) (up : List Nat),
    let no := SMap.val 0 (s.eng d.val).putNo x.a.peer
    let msg := fun (data : List Byte) => (⟨BitVec.ofNat 12 s.rank, 0, 0, BitVec.ofNat 32 (4 * no + d.val), 0, 0, true,
      false, 0, data⟩ : Msg)
    j.ev = false → j.seq = some (c, n) → j.ring = none → s.upPorts x.a.peer = p :: up → routeValid (s.route x.a.peer) = true →
    (CollRuns s d k 0x44 j x → j.sent = [] → 0 < x.a.count → x.a.count ≤ putMax → x.a.src ≥ hostBase →
      s.sec.sealMem = false → ∃ t, exec (.collPut d k none []) s = .next t ∧ t = { s with lnk := t.lnk } ∧
        SMap.val 0 (t.eng d.val).putNo x.a.peer = no + 1 ∧
        SentTo s t p x.a.peer 7 (msg (natLe 8 (x.a.dst % 2 ^ 48 + x.h.rclass * 2 ^ 56)
          ++ natLe 4 x.a.count ++ natLe 4 0 ++ s.mem.bytes x.a.src x.a.count)) (some (d.val, k))) ∧
    (∀ ok : Bool, CollRuns s d k 0x44 j x → (∀ i, i < ceilDiv x.a.count putMax → sentKey i x.a.peer 0 ∈ j.sent) →
      ∃ t, exec (.collPut d k (some ok) []) s = .next t ∧ CollLeft t d k c n (if ok then 0 else 0x10) ∧
        t = { s with lnk := t.lnk, cl := t.cl }) ∧
    (CollRuns s d k 0x45 j x → j.sent = [] → s.writesAt d.val k x.a.peer = false →
      ∃ t, exec (.collSignal d k []) s = .next t ∧ t = { s with lnk := t.lnk } ∧
        SMap.val 0 (t.eng d.val).putNo x.a.peer = no + 1 ∧
        SentTo s t p x.a.peer 8 (msg (natLe 2 x.a.obj ++ natLe 2 x.a.ogen ++ natLe 4 x.a.count
          ++ natLe 8 s.time.meridian.toNat)) (some (d.val, k))) ∧
    (s.coll d.val k = some j → j.ph = .run → j.last + bitsOf (s.rd R.lnkCtl) 16 8 * 100000 ≤ s.ticks →
      ∃ t, exec (.collectiveTimeout d k) s = .next t ∧ CollLeft t d k c n 0x40 ∧ t.mem = s.mem ∧
        Flagged s t R.lnkStat 2 R.lnkTmocnt 1)

/-- Messages at a collective engine (R324, R326 to R331): one of a collective that does not run yet is kept where the
staging has room; one of another generation, or of a number completed, is discarded and counted; a residue failure of
the adder ends its collective, whose sum goes nowhere. PUT and SIGNAL are applied once by sender and number, a PUT whose DST
fails R8 not at all; FETCH sends a shard again, in a sealed session only within the job or from an aggregate class (R319). -/
def Obligations.MessagesArrive : Prop :=
  ∀ (d : Die) (m : Msg) (errs : Errs) (s s1 : State),
    let rows : List (Nat × Instr) := [(1, .rsPartial d m false errs), (2, .rsResultToTwin d m errs), (3, .agData d m errs),
      (4, .a2aRows d m errs), (5, .allredUp d m false errs), (6, .allredDown d m errs)]
    let done := s.lnk.eng.any fun p => p.2.done.contains (m.group.toNat, m.cgen.toNat, m.cseq.toNat)
    let current := m.cgen.toNat = s.cgenOf m.group.toNat
    let seen := s.lnk.eng.any fun p => p.2.seen.contains (m.src.toNat, m.cseq.toNat)
    (∀ q ∈ rows, (current → done = false → s.collOf m.group.toNat m.cseq.toNat = none → (∀ r ∈ s.kept, r.1 ≠ q.1) →
        s.staged d.val + 48 + m.data.length ≤ bitsOf (s.rd R.lnkStg) 0 8 * 2 ^ 20 / 4 →
        ∃ t, exec q.2 s = .next t ∧ (t.eng d.val).got = (q.1, m) :: (s.eng d.val).got ∧ t = { s with lnk := t.lnk }) ∧
      (¬current → ∃ t, exec q.2 s = .next t ∧ t.lnk.eng = s.lnk.eng ∧ Flagged s t R.lnkStat 0 R.lnkStalecnt 1) ∧
      (current → done = true → ∃ t, exec q.2 s = .next t ∧ t.lnk.eng = s.lnk.eng ∧
        Flagged s t R.lnkStat 1 R.lnkDupcnt 1)) ∧
    (∀ (e : Die) (j : CollJob) (ch : Chunk) (own : List Int) (s2 : State), current → done = false →
      s.collOf m.group.toNat m.cseq.toNat = some (e.val, j) → s.coll e.val j.k = some j → (∀ r ∈ s.kept, r.1 ≠ 1) →
      fld j.cmd 0 8 = 0x40 → s.running = true ∨ s.dev.st = .held → j.sent = [] → j.wrote = [] →
      let x := s.cctx e.val j [] true
      let u := ((s.takeInbox 1 m).onEng e.val fun y => { y with got := (1, m) :: y.got }).onColl e.val j.k fun i =>
        { i with last := s.ticks }
      s.chunks x.a = [ch] → 0 < ch.count → 8 * ch.count ≤ 65536 →
      (∀ p ∈ x.rsFrom ch.own, u.gotMsg x 1 0 0 (s.memberRank x.g p) ≠ none) →
      u.rsOwn x ch.first ch.count = ((0, own), s2) →
      ∃ t, exec (.rsPartial d m true []) s = .next t ∧ t.coll e.val j.k = none ∧ t.lnk.out = s.lnk.out ∧
        (s2.running = true → ∃ r ∈ t.dev.replayDue, r.code = 0x4007)) ∧
    (let a := leAt m.data 0 6
     let p := a + leAt m.data 12 4
     let n := m.data.length - 16
     seen = false →
      (a ≥ hostBase → a + leAt m.data 8 4 ≤ hostBase + s.fuse.hostBytes →
        ∃ t, exec (.put d m []) s = .next t ∧ t.answer = (0, []) ∧ t.mem.bytes p n = m.data.drop 16 ∧
          (m.src.toNat, m.cseq.toNat) ∈ (t.eng d.val).seen ∧
          (∀ i, (i < p ∨ p + n ≤ i) → t.mem.byte i = s.mem.byte i) ∧
          t = { s with answer := t.answer, mem := t.mem, cls := t.cls, lnk := t.lnk }) ∧
      (s.dataOk a (leAt m.data 8 4) = false → ∃ t, exec (.put d m errs) s = .next t ∧ t.answer = (0x10, []) ∧
          t = { s with answer := t.answer, lnk := t.lnk })) ∧
    (seen = true → (∃ t, exec (.put d m errs) s = .next t ∧ t = { s with lnk := t.lnk }) ∧
      ∃ t, exec (.signal d m) s = .next t ∧ t = { s with lnk := t.lnk }) ∧
    (let o := leAt m.data 0 2 % 2 ^ 14
     let young := (s.time.meridian - BitVec.ofNat 64 (leAt m.data 8 8)).toNat ≤ 256000
     seen = false → s.timeLocked = true → young → (s.obj o).gen.toNat = leAt m.data 2 2 →
      ∃ t, exec (.signal d m) s = .next t ∧
        (t.obj o).count = BitVec.ofNat 32 (min ((s.obj o).count.toNat + leAt m.data 4 4) 0xFFFFFFFF) ∧
        (t.obj o).gen = (s.obj o).gen ∧ ∀ q, q ≠ o → t.obj q = s.obj q) ∧
    (∀ (l : List (List Byte)) (p : Nat), current →
      let what := leAt m.data 0 8
      let buf := leAt m.data 8 1
      let s0 := s.takeInbox 9 m
      buf ≠ 2 → s0.readAll (.coll d) 0 (s0.shardRuns (s0.hdrAt (rqcbOf (s0.peek64 ((s0.shard what).ccrq buf))).outhdr)
        (s0.shard what)) errs = (0, l, s1) → s1.sec.sealMem = false ∨ routeInJob (s1.route m.src.toNat) = true →
      0 < l.flatten.length → l.flatten.length ≤ 65536 → routeValid (s1.route m.src.toNat) = true →
      s1.pickPort m.src.toNat true m.cseq.toNat m.chunk.toNat = some p →
      ∃ t, exec (.fetch d m errs) s = .next t ∧ t.mem = s1.mem ∧ SentTo s1 t p m.src.toNat 3 { m with
          src := BitVec.ofNat 12 s1.rank
          offset := 0
          last := true
          digValid := true
          dig := BitVec.ofNat 64 (s1.cdig what buf)
          data := l.flatten } none)

/-- LINK_TRAINING, TRAINING_TIMEOUT, TRAINING_RETRY, FAILED_PORT_RETRY, RETRAIN and RETRAIN_TIMEOUT (R304 to R307, R313):
an attempt goes from signal over lock, deskew and pairing to keying, and proof under the link key brings the port UP with
its link layer afresh; no common wavelength, a wrong peer, a loop over 1,600 ns, no key or a bound of Table 10.3 missed
fails it with its cause; a retrain keeps the replay state, resumes from the oldest flit not acknowledged, and tries failed
wavelengths again; without its key it pairs again; the fourth retrain within 1 s fails the port; the retries follow their
times. LIGHT_LOSS, WAVELENGTH_FAILURE, LANE, LANE_WORD and PORT_ENABLE (R301, R304, R307, R308): a wavelength without
light or found bad leaves striping and the peer is told; without any light an engine's ports go dark; the peer's masks are
taken; the 16th PARK word in a row powers a wavelength down, the 16th UNPARK word brings it back and the peer is told; a
port written disabled goes OFF and enabled goes to DARK. -/
def Obligations.PortsTrainAndFail : Prop :=
  (∀ (p : Port) (s : State),
     let x := s.port p.val
     let fails := fun (t : State) (cause : Nat) => (t.port p.val).st = .failed ∧ (t.port p.val).qual = false ∧
       (t.port p.val).cause.toNat = cause ∧ (t.port p.val).unacked = []
     (s.portOn p.val = true → x.light ≠ 0 → x.late s.ticks = false →
       (x.st = .dark → ∃ t, exec (.linkTraining p .signal) s = .next t ∧ OnlyPort s t p.val ∧ t.port p.val = { x with
         st := .training
         since := s.ticks
         locked := none
         peerFailed := 0
         unpark := 0 }) ∧
       (∀ w : BitVec 8, x.st = .training →
         (w &&& x.light ≠ 0 → ∃ t, exec (.linkTraining p (.locked w)) s = .next t ∧ OnlyPort s t p.val ∧
           t.port p.val = { x with locked := some (w &&& x.light) }) ∧
         (w &&& x.light = 0 → ∃ t, exec (.linkTraining p (.locked w)) s = .next t ∧ fails t 6)) ∧
       (∀ w l : BitVec 8, x.st = .training → x.locked = some l →
         (w &&& l ≠ 0 → ∃ t, exec (.linkTraining p (.deskewed w)) s = .next t ∧ OnlyPort s t p.val ∧
           t.port p.val = { x with
             st := .pairing
             failed := ~~~(w &&& l) }) ∧
         (w &&& l = 0 → ∃ t, exec (.linkTraining p (.deskewed w)) s = .next t ∧ fails t 6)) ∧
       (∀ (rank : BitVec 12) (port : BitVec 5) (loop : BitVec 16), x.st = .pairing →
         let named := bitsOf (s.rd (R.lnkPeer p.val)) 0 12 = rank.toNat ∧ bitsOf (s.rd (R.lnkPeer p.val)) 12 5 = port.toNat
         (named → loop.toNat ≤ 1600 → ∃ t, exec (.linkTraining p (.paired rank port loop)) s = .next t ∧
           OnlyPort s t p.val ∧ t.port p.val = { x with
             st := .keying
             peer := some (rank, port)
             loopNs := loop }) ∧
         (¬named ∨ loop.toNat > 1600 → ∃ t, exec (.linkTraining p (.paired rank port loop)) s = .next t ∧
           fails t (if ¬named then 2 else 1))) ∧
       (∀ kdk qual, x.st = .keying → s.linkKdk = some (kdk, qual) →
         ∃ t, exec (.linkTraining p (.proven true)) s = .next t ∧ OnlyPort s t p.val ∧
           let y := t.port p.val
           y.st = .up ∧ y.qual = qual ∧ y.kdk = some kdk ∧ y.failed = x.failed ∧ y.peer = x.peer ∧
             y.unacked = [] ∧ y.nextSeq = 0 ∧ y.expSeq = 0 ∧ y.kgenTx = 0 ∧ y.kgenRx = 0 ∧ y.fcntRx = 0 ∧
             y.fcntTx = x.fcntTx ∧ y.used = #v[0, 0, 0, 0, 0] ∧ y.freedIn = #v[0, 0, 0, 0, 0] ∧
             y.cred.toNat = s.rd (R.lnkCredit p.val) % 2 ^ 32 ∧ y.cause = 0) ∧
       (∀ ok : Bool, x.st = .keying → (s.linkKdk = none ∨ ok = false) →
         ∃ t, exec (.linkTraining p (.proven ok)) s = .next t ∧ fails t 6) ∧
       (∀ w : BitVec 8, x.st = .retrain → w &&& x.light ≠ 0 → s.ticks ≤ x.since + bitsOf (s.rd R.lnkCtl) 24 8 * 100000 →
         ∃ t, exec (.linkTraining p (.deskewed w)) s = .next t ∧
           (t.port p.val).failed = ~~~(w &&& x.light) ∧
           (x.kdk = none → (t.port p.val).st = .pairing) ∧
           (x.kdk ≠ none → OnlyPort s t p.val ∧ (t.port p.val).st = .up ∧ (t.port p.val).txq = x.txq ∧
             (t.port p.val).nextSeq = x.nextSeq ∧ (t.port p.val).resend = x.unacked.head?.map (·.seq) ∧
             (t.port p.val).unacked.map (fun u => (u.seq, u.flit)) = x.unacked.map (fun u => (u.seq, u.flit))))) ∧
     (let due := (x.st = .training ∧ x.since + (if x.locked = none then 20 else 21) * 100000 < s.ticks) ∨
        (x.st = .pairing ∧ x.since + 25 * 100000 < s.ticks) ∨ (x.st = .keying ∧ x.since + 30 * 100000 < s.ticks)
      due → (∃ t, exec (.trainingTimeout p) s = .next t ∧ fails t 6) ∧
        (s.portOn p.val = true → x.light ≠ 0 → ∀ obs : TrainObs,
          ∃ t, exec (.linkTraining p obs) s = .next t ∧ fails t 6)) ∧
     (x.st = .failed → x.qual = false → s.portOn p.val = true → x.light ≠ 0 →
       let again := fun (t : State) => t = { s with lnk := t.lnk } ∧ OnlyPort s t p.val ∧ t.port p.val = { x with
         st := .training
         since := s.ticks
         locked := none
         peerFailed := 0
         unpark := 0 }
       (x.cause = 6 → x.since + 100 * 100000 ≤ s.ticks → ∃ t, exec (.trainingRetry p) s = .next t ∧ again t) ∧
       (x.since + 100000000 ≤ s.ticks → ∃ t, exec (.failedPortRetry p) s = .next t ∧ again t)) ∧
     (∀ why : RetrainCause, x.st = .up → (match why with
         | .retransmissions => ∃ u ∈ x.unacked, u.tries ≥ 8
         | .ackStalled => x.unacked ≠ [] ∧ x.ackAt + 10000 ≤ s.ticks
         | .noWavelength => x.active = 0
         | .deskewLost => x.skewed = true
         | .silence => x.lastRx + 10000 ≤ s.ticks) →
       let last := x.retrains.filter fun t => s.ticks - t < 100000000
       ∃ t, exec (.retrain p why) s = .next t ∧ Flagged s t (R.lnkPerr p.val) 0 (R.lnkRtrcnt p.val) 1 ∧
         if last.length < 3 then OnlyPort s t p.val ∧ t.port p.val = { x with
           st := .retrain
           since := s.ticks
           retrains := s.ticks :: last
           clean := false
           cwc := [] } else fails t 4) ∧
     (x.st = .retrain → x.since + bitsOf (s.rd R.lnkCtl) 24 8 * 100000 ≤ s.ticks →
       ∃ t, exec (.retrainTimeout p) s = .next t ∧ fails t 4)) ∧
  (∀ s : State,
     (∀ (oe : Fin 8) (below : BitVec 8), ∃ t, exec (.lightLoss oe below) s = .next t ∧
       ∀ i, i < 4 → (t.port (4 * oe.val + i)).light = ~~~below ∧
         ((s.port (4 * oe.val + i)).st ≠ .off →
           (t.port (4 * oe.val + i)).failed = (s.port (4 * oe.val + i)).failed ||| below ∧
           (t.port (4 * oe.val + i)).st = if below = 255 then .dark else (s.port (4 * oe.val + i)).st)) ∧
     (∀ (p : Port) (w : Fin 8) (lost : Bool), (s.port p.val).st = .up → (s.port p.val).failed.getLsbD w.val = false →
       lost = true ∨ 16 < ((SMap.val [] (s.port p.val).ue w.val).filter fun t => s.ticks - t < 100000).length →
       (s.port p.val).keyFlits + 1 < 2 ^ 40 → ∃ t, exec (.wavelengthFailure p w lost) s = .next t ∧ OnlyPort s t p.val ∧
         (t.port p.val).failed = (s.port p.val).failed ||| (1#8 <<< w.val) ∧
         TellsPeer (s.port p.val) t p.val (.lane (~~~(t.port p.val).failed &&& ~~~(s.port p.val).rxDown)
           (t.port p.val).failed (s.port p.val).parked) ∧
         Flagged s t (R.lnkPerr p.val) 2 (R.lnkLamcnt p.val) 1) ∧
     (∀ (p : Port) (flit : Flit) (lock failed parked : BitVec 8) (s1 : State),
       s.ctlIn p.val flit = (some (.lane lock failed parked), s1) →
       ∃ t, exec (.lane p flit) s = .next t ∧ OnlyPort s1 t p.val ∧
         (t.port p.val).peerLock = lock ∧ (t.port p.val).peerFailed = failed ∧ (t.port p.val).peerParked = parked ∧
         (t.port p.val).failed = (s1.port p.val).failed ||| failed ∧
         (t.port p.val).unpark = (s1.port p.val).unpark &&& ~~~lock) ∧
     (∀ (p : Port) (w : Fin 8) (word : BitVec 20) (fec : Fec) (n : Nat), (s.port p.val).st = .up → fec ≠ .uncorrectable →
       fld word 8 3 = w.val → fld word 11 1 ≠ fld word 12 1 →
       SMap.find w.val (s.port p.val).runs = some (decide (fld word 11 1 = 1), n) →
       let m : BitVec 8 := 1#8 <<< w.val
       let y := s.port p.val
       ∃ t, exec (.laneWord p w word fec) s = .next t ∧ t = { s with lnk := t.lnk, regs := t.regs } ∧ OnlyPort s t p.val ∧
         SameRegs s t [R.lnkFecce p.val] ∧
         (t.port p.val).rxDown = (if n < 15 then y.rxDown else if fld word 11 1 = 1 then y.rxDown ||| m
           else y.rxDown &&& ~~~m) ∧
         (fld word 12 1 = 1 → 15 ≤ n → y.rxDown &&& m ≠ 0 → y.keyFlits + 1 < 2 ^ 40 →
           TellsPeer y t p.val (.lane (~~~y.failed &&& ~~~(y.rxDown &&& ~~~m)) y.failed y.parked))) ∧
     (∀ (p : Port) (v : BitVec 32), s.setupOpen = true → s.regs.held = [] → s.running = false →
       ∃ t, exec (.portEnable p v) s = .next t ∧ bitsOf (t.rd (R.lnkPctl p.val)) 0 1 = bitsOf v.toNat 0 1 ∧
         (bitsOf v.toNat 0 1 = 0 → (t.port p.val).st = .off) ∧
         (bitsOf v.toNat 0 1 = 1 → OnlyPort s t p.val ∧ (t.port p.val).st =
           if (s.port p.val).st = .off then .dark else (s.port p.val).st)))

/-- DATA_FLIT_TRANSMIT, DATA_FLIT_RECEIVE, NAK, CREDITS, REKEY, CREDITS_IDLE, ACK_KEEPALIVE, KEY_DISCARD and
LNK_CTL_REKEY (R194, R311, R312, R314, R316): a flit goes out under a credit, numbered, and stays for replay; a forwarded
one frees its slot and a reserved one is charged; a data flit with a bad CRC frees its slot and is NAKed, a control flit is
dropped; a NAK takes back to its flit; the counters of a CREDITS flit are taken; idle links repeat theirs; a rekey toggles
the key phase. -/
def Obligations.FlitsAndKeys : Prop :=
  ∀ (p : Port) (s : State),
    let x := s.port p.val
    let alone := fun (t : State) => t = { s with lnk := t.lnk } ∧ OnlyPort s t p.val
    (∀ (vc : Fin 4) (q : BitVec 12) (f : TxFlit) (i : Fin 5), x.st = .up → x.head vc = some (q, f, false) →
      s.creditFor p.val vc = some i → x.active ≠ 0 → s.canSend p.val vc = true → s.vcTurn p.val vc = true →
      x.keyFlits + 1 < 2 ^ 40 →
      ∃ t, exec (.dataFlitTransmit p vc) s = .next t ∧ t = { s with lnk := t.lnk, buckets := t.buckets } ∧
        t.lnk = { s.lnk with port := t.lnk.port } ∧
        (∀ r, r ≠ p.val → t.port r = match f.back with
          | some (g, c) => if g = r then (s.port r).free c else s.port r
          | none => s.port r) ∧
        (t.port p.val).unacked = x.unacked ++ [⟨q, { f with back := none }, 0⟩] ∧ (t.port p.val).nextSeq = x.nextSeq + 1 ∧
        (t.port p.val).txq[vc] = (x.txq[vc]).erase f ∧ (t.port p.val).used[i] = x.used[i] + 1 ∧
        (t.port p.val).fcntTx = x.fcntTx + 1 ∧ (t.port p.val).keyFlits = x.keyFlits + 1 ∧
        (s.payer p.val f = none → t.buckets = s.buckets) ∧
        ∀ r, s.payer p.val f = some r → SMap.find r t.buckets = some (s.bucket r - 25600, s.ticks)) ∧
    (∀ flit : Flit, x.st = .up → bitsOf flit.toNat 0 4 = 1 → x.nakAt = none → x.keyFlits + 1 < 2 ^ 40 →
      crc32 ((natLe 256 flit.toNat).take 252) ≠ leAt (natLe 256 flit.toNat) 252 4 →
      ∃ (t : State) (i : Fin 5), exec (.dataFlitReceive p flit) s = .next t ∧ alone t ∧ (t.port p.val).expSeq = x.expSeq ∧
        (t.port p.val).asm = x.asm ∧ (t.port p.val).freed = x.freed.set i (x.freed[i] + 1) ∧
        TellsPeer (x.free i) t p.val (.nak x.expSeq) ∧
        i.val = if bitsOf flit.toNat 9 1 = 1 then 4 else bitsOf flit.toNat 4 2) ∧
    (∀ (flit : Flit) (s1 : State) (us vs : List Unacked) (u : Unacked), s.ctlIn p.val flit = (some (.nak u.seq), s1) →
      let y := s1.port p.val
      y.unacked = us ++ u :: vs → y.unacked.length < 4096 →
      (∀ (n : Nat) (v w : Unacked), y.unacked[n]? = some v → y.unacked[0]? = some w → v.seq = w.seq + BitVec.ofNat 12 n) →
      ∃ t, exec (.nak p flit) s = .next t ∧ t = { s1 with lnk := t.lnk } ∧
        OnlyPort s1 { t with lnk := { t.lnk with out := s1.lnk.out } } p.val ∧
        (t.port p.val).unacked = u :: vs ∧ (t.port p.val).resend = some u.seq) ∧
    (∀ (flit : Flit) (s1 : State) (cnt : Vector (BitVec 13) 5), s.ctlIn p.val flit = (some (.credits cnt), s1) →
      ∃ t, exec (.credits p flit) s = .next t ∧ t = { s1 with lnk := t.lnk } ∧ OnlyPort s1 t p.val ∧
        t.port p.val = { s1.port p.val with freedIn := cnt }) ∧
    (∀ (flit : Flit) (s1 : State) (g : BitVec 32), s.ctlIn p.val flit = (some (.rekey g), s1) →
      ∃ t, exec (.rekey p flit) s = .next t ∧ t = { s1 with lnk := t.lnk } ∧ OnlyPort s1 t p.val ∧
        t.port p.val = { s1.port p.val with announced := some g }) ∧
    (∀ flit : Flit, x.st = .up → bitsOf flit.toNat 0 4 = 2 →
      crc32 ((natLe 256 flit.toNat).take 252) ≠ leAt (natLe 256 flit.toNat) 252 4 →
      s.ctlIn p.val flit = (none, s) ∧ exec (.nak p flit) s = .next s) ∧
    (x.st = .up → x.keyFlits + 1 < 2 ^ 40 →
      let tells := fun (t : State) => alone t ∧ TellsPeer x t p.val (.credits x.freed) ∧
        (t.port p.val).lastCtl = s.ticks ∧ (t.port p.val).lastCred = s.ticks ∧ (t.port p.val).unacked = x.unacked
      (max x.lastData x.lastCred + 7 ≤ s.ticks → ∃ t, exec (.creditsIdle p) s = .next t ∧ tells t) ∧
      (max x.lastData x.lastCtl + 13 ≤ s.ticks → ∃ t, exec (.ackKeepalive p) s = .next t ∧ tells t)) ∧
    (∀ g a, x.oldKey = some (g, a) → a + 1000 ≤ s.ticks → ∃ t, exec (.keyDiscard p) s = .next t ∧ alone t ∧
      t.port p.val = { x with oldKey := none }) ∧
    (∀ v : BitVec 32, s.setupOpen = true → s.regs.held = [] → bitsOf v.toNat 15 1 = 1 →
      ∃ t, exec (.lnkCtlRekey v) s = .next t ∧ bitsOf (t.rd R.lnkCtl) 15 1 = 0 ∧
        ∀ q, q < 32 → if (s.port q).st = .up then (t.port q).kgenTx = (s.port q).kgenTx + 1 ∧
          (t.port q).kphTx = !(s.port q).kphTx ∧ TellsPeer (s.port q) t q (.rekey ((s.port q).kgenTx + 1))
          else t.port q = s.port q)

/-- What one port transmits its peer accepts (R309, R311, R312, R316): under equal keys, the number the receiver expects and
a flit counter ahead of its own by less than 2^31, the flit that DATA_FLIT_TRANSMIT puts on the fibre passes CRC and
tag, and its 224 payload bytes join the message of its virtual channel at the receiver, or complete it; a control flit
arrives with the content it was sent with. -/
def Obligations.LinkDelivers : Prop :=
  (∀ c : Ctl, ctlOf c.payload = some c) ∧
  ∀ (p r : Port) (a b : State),
    let x := a.port p.val
    let y := b.port r.val
    x.fcntTx.toNat + 1 < 2 ^ 64 → y.st = .up → y.kphRx = x.kphTx →
    y.dirKey r.val false y.kgenRx.toNat = x.dirKey p.val true x.kgenTx.toNat →
    y.fcntRx.toNat < x.fcntTx.toNat + 1 → x.fcntTx.toNat + 1 < y.fcntRx.toNat + 2 ^ 31 →
    (∀ (vc : Fin 4) (q : BitVec 12) (f : TxFlit) (i : Fin 5), x.st = .up → x.head vc = some (q, f, false) → f.vc = vc →
      a.creditFor p.val vc = some i → x.active ≠ 0 → a.canSend p.val vc = true → a.vcTurn p.val vc = true →
      y.expSeq = q → f.dst = y.rank →
      let bytes := (if f.first then [] else (y.asm[vc]).1) ++ natLe 224 f.payload.toNat
      let slots := (if f.first then [] else (y.asm[vc]).2) ++ [i]
      ∃ t u, exec (.dataFlitTransmit p vc) a = .next t ∧ exec (.dataFlitReceive r (t.port p.val).out) b = .next u ∧
        (u.port r.val).expSeq = q + 1 ∧ (u.port r.val).fcntRx = x.fcntTx + 1 ∧
        (f.last = false → (u.port r.val).asm[vc] = (bytes, slots) ∧ u.lnk.inbox = b.lnk.inbox) ∧
        (f.last = true → (u.port r.val).asm[vc] = ([], []) ∧
          u.lnk.inbox = b.lnk.inbox ++ [⟨r.val, (msgOf f.src bytes).1, (msgOf f.src bytes).2, slots⟩])) ∧
    (∀ (c : Ctl) (now : Nat), ∃ u, b.ctlIn r.val (x.ctlOut p.val c now).outCtl = (some c, u) ∧
      (u.port r.val).fcntRx = x.fcntTx + 1 ∧ (u.port r.val).lastRx = b.ticks ∧
      OnlyPort b { u with lnk := { u.lnk with out := b.lnk.out } } r.val)

/-- TIME, TIME_EXCHANGE, TIME_LOCK_TIMEOUT and LINK_QUALIFICATION (R333 to R335, R435): a request is answered with the
counter; a follower's reply gives the offset, its correction and, after 8 good ones in a row, lock; a follower asks
every TPER µs; 1 ms without a valid exchange loses lock; a port that fails its qualification fails. -/
def Obligations.TimeAcrossDevices : Prop :=
  ∀ (p : Port) (flit : Flit) (s s1 : State),
    let x := s.port p.val
    let y := s.lnk.tsync
    (s.ctlIn p.val flit = (some (.time .request), s1) → (s1.port p.val).keyFlits + 1 < 2 ^ 40 →
      ∃ t, exec (.time p flit) s = .next t ∧ t = { s1 with lnk := t.lnk } ∧ OnlyPort s1 t p.val ∧
        TellsPeer (s1.port p.val) t p.val
          (.time (.reply s.time.meridian s.time.meridian (BitVec.ofNat 8 s.depth) s.timeLocked))) ∧
    (∀ (t1 t2 t3 : BitVec 64) (depth : BitVec 8) (up : Bool),
      s.ctlIn p.val flit = (some (.time (.reply t2 t3 depth up)), s1) → y.t1 = some t1 →
      bitsOf (s.rd R.lnkTcfg) 0 1 = 0 → p.val = s.parentPort →
      let o := ((sx 64 (s.time.meridian - t3).toNat - sx 64 (t2 - t1).toNat)
        + sx 16 (bitsOf (s.rd (R.lnkPctl p.val)) 16 16)).fdiv 2
      let good := if o.natAbs ≤ 32 ∧ up = true then y.good + 1 else 0
      ∃ t, exec (.time p flit) s = .next t ∧ t.time = { s.time with slew := -o } ∧
        t.lnk.tsync.offset = o ∧ t.lnk.tsync.depth = depth + 1 ∧ t.lnk.tsync.t1 = none ∧
        t.lnk.tsync.lastOk = s.ticks ∧
        (t.lnk.tsync.locked = true ↔ (y.locked = true ∨ good ≥ 8) ∧ o.natAbs ≤ 256) ∧
        (o.natAbs ≤ 256 → t.lnk.tsync.good = good ∧ t.regs = s1.regs)) ∧
    (bitsOf (s.rd R.lnkTcfg) 0 1 = 0 → (s.port s.parentPort).st = .up → (s.port s.parentPort).keyFlits + 1 < 2 ^ 40 →
      y.lastReq + bitsOf (s.rd R.lnkTcfg) 12 8 * 100 ≤ s.ticks → ∃ t, exec .timeExchange s = .next t ∧
        t = { s with lnk := t.lnk } ∧ t.lnk.tsync = { y with
          t1 := some s.time.meridian
          lastReq := s.ticks } ∧
        TellsPeer (s.port s.parentPort) t s.parentPort (.time .request)) ∧
    (bitsOf (s.rd R.lnkTcfg) 0 1 = 0 → y.lastOk + 100000 ≤ s.ticks → y.locked = true →
      ∃ t, exec .timeLockTimeout s = .next t ∧ t.lnk.tsync = { y with
          locked := false
          good := 0 } ∧
        Flagged s t R.lnkStat 3 R.lnkTlostcnt 1 ∧ t.time = s.time) ∧
    (∀ ber : BitVec 8, x.st = .up → x.qual = true →
      let good := x.clean = true ∧ x.active &&& ~~~ber = 0
      (good → exec (.linkQualification p ber) s = .next s) ∧
      (¬good → ∃ t, exec (.linkQualification p ber) s = .next t ∧ (t.port p.val).st = .failed ∧
        (t.port p.val).qual = true))

/-- FREQUENCY_CHANGE_STOP, POINT_FALL and FREQUENCY_STOP_RELEASE (R371, R408, R409, R412): a region whose point must
change stops; the release installs the point; a PLL that fails to lock returns to the old point once and then takes a
cluster dark and a fabric to FAULT. TWILIGHT_ENTRY, DAWN_GRANT and DAWN_COMPLETE (R367 to R369, R414): an idle Active
region loses its datapath's state and keeps its stores; a Dawn is granted without a hold or a tight neighbourhood and
deferred with one; after 20 µs the region is Active at the point then in force. -/
def Obligations.RegionClocksAndSleep : Prop :=
  (∀ s : State,
     (∀ (c : Cluster) (g : Nat × Nat), ((s.clus c.val).region = .active ∨ (s.clus c.val).region = .twilight) →
       (s.clus c.val).clk.stopAt = none → s.cluGoal c.val = some g →
       let stops := fun (t : State) => t = { s with cl := t.cl, regs := t.regs } ∧ SameClus s t c.val ∧
         t.clus c.val = { s.clus c.val with clk := { (s.clus c.val).clk with
           goal := Fin.ofNat 8 g.1
           want := Fin.ofNat 8 g.2
           stopAt := some s.ticks
           retry := false } } ∧
         SameRegs s t [R.clkStops (c.val / 24)] ∧
         t.rd (R.clkStops (c.val / 24)) = (s.rd (R.clkStops (c.val / 24)) + 1) % 2 ^ 64
       (∃ t, exec (.frequencyChangeStop (.cluster c)) s = .next t ∧ stops t) ∧
       (g.1 < (s.clus c.val).clk.op.val → ∃ t, exec (.pointFall c) s = .next t ∧ stops t)) ∧
     (∀ d : Die, s.pw.dieClk[d].stopAt = none → s.diePoint d.val ≠ s.pw.dieClk[d].op.val →
       ∃ t, exec (.frequencyChangeStop (.fabric d)) s = .next t ∧ t.pw.dieClk[d].stopAt = some s.ticks ∧
         t.pw.dieClk[d].goal.val = s.diePoint d.val ∧ t.pw.dieClk[d].op = s.pw.dieClk[d].op) ∧
     (∀ c : Cluster, s.regs.held = [] → (s.clus c.val).clk.stopAt ≠ none →
       (∀ a : Bool, ∃ t, exec (.frequencyStopRelease (.cluster c) true a) s = .next t ∧
         (t.clus c.val).clk = { (s.clus c.val).clk with
           op := (s.clus c.val).clk.goal
           stopAt := none
           aligned := a
           changed := s.ticks
           retry := false } ∧
         SameClus s t c.val ∧ (a = false → Flagged s t R.clkStat 1 R.clkAligncnt 1) ∧
         (a = true → t = { s with cl := t.cl })) ∧
       (∀ a : Bool, ∃ t, exec (.frequencyStopRelease (.cluster c) false a) s = .next t ∧
         if (s.clus c.val).clk.retry then (t.clus c.val).region = .dark ∧ (t.rd R.clkStat).testBit 3
         else (t.clus c.val).clk = { (s.clus c.val).clk with
           retry := true
           goal := (s.clus c.val).clk.op })) ∧
     (∀ (d : Die) (a : Bool), s.regs.held = [] → s.pw.dieClk[d].stopAt ≠ none →
       ∃ t, exec (.frequencyStopRelease (.fabric d) true a) s = .next t ∧ t.pw.dieClk[d].op = s.pw.dieClk[d].goal ∧
         t.pw.dieClk[d].stopAt = none ∧ t.pw.dieClk[d].aligned = a ∧
         ∀ c, (t.clus c).region = (s.clus c).region ∧ (t.clus c).clk = (s.clus c).clk) ∧
     (∀ (d : Die) (a : Bool), s.regs.held = [] → s.dev.st ≠ .off → s.pw.dieClk[d].stopAt ≠ none → s.pw.dieClk[d].retry = true →
       ∃ t, exec (.frequencyStopRelease (.fabric d) false a) s = .next t ∧ t.dev.st = .fault ∧
         Flagged s t R.clkStat 3 R.clkPllcnt 1)) ∧
  (∀ (c : Cluster) (s : State),
     let x := s.clus c.val
     (x.region = .active → bitsOf (s.rd R.pwrGate) 0 10 ≠ 0 → x.wantsDatapath = false → x.quiet = true →
       x.clk.stopAt = none → max x.idleAt s.dev.upAt + bitsOf (s.rd R.pwrGate) 0 10 * 100 ≤ s.ticks →
       ∃ t, exec (.twilightEntry c) s = .next t ∧ t = { s with cl := t.cl } ∧ SameClus s t c.val ∧
         (t.clus c.val).region = .twilight ∧ (t.clus c.val).buf = x.buf ∧ (t.clus c.val).queue = x.queue ∧
         (t.clus c.val).tileLive = x.tileLive ∧ (t.clus c.val).notice = none ∧
         (∀ i, ((t.clus c.val).tileAt i).store = (x.tileAt i).store ∧
           ((t.clus c.val).tileAt i).bank = #v[.free, .free]) ∧
         ∀ v, ((t.clus c.val).veAt v).prog = [] ∧ ((t.clus c.val).veAt v).sumq = (x.veAt v).sumq) ∧
     (∀ r, x.dawnReq = some r → (x.region = .twilight ∨ x.region = .dusk) → s.dawns (c.val / 24) < 2 →
       let held := s.pw.shedOn = true ∨ s.pw.vrOn[dieIx (c.val / 24)] = true
       (¬held → (s.tight = false ∨ ∀ n ∈ neighbours c.val, ((s.clus n).tile.filter fun p => p.2.act ≠ .gated).length ≤ 24) →
         ∃ t, exec (.dawnGrant c) s = .next t ∧ SameClus s t c.val ∧ (t.clus c.val).region = .dawn ∧
           (t.clus c.val).dawnReq = none ∧ (t.clus c.val).dawnAt = some s.ticks ∧ (t.clus c.val).deferred = none ∧
           (x.deferred = none → t = { s with cl := t.cl })) ∧
       (held → x.deferred = none → ∃ t, exec (.dawnGrant c) s = .next t ∧ (t.clus c.val).region = x.region ∧
         (t.clus c.val).deferred = some s.ticks ∧ Flagged s t R.pwrStat 4 R.pwrDefercnt 1)) ∧
     (∀ (g : Nat) (a : Bool), x.region = .dawn → x.dawnAt = some g → g + 2000 ≤ s.ticks →
       ∃ t, exec (.dawnComplete c a) s = .next t ∧ SameClus s t c.val ∧ (t.clus c.val).region = .active ∧
         (t.clus c.val).clk.op.val = s.cluPoint c.val ((s.sought c.val).getD x.clk.op.val) ∧ (t.clus c.val).clk.aligned = a ∧
         (t.clus c.val).idleAt = s.ticks ∧ (a = false → Flagged s t R.clkStat 1 R.clkAligncnt 1)))

/-- PHASE_FAILURE, UNCORE_REGULATOR_FAILURE, CONNECTION_SENSE and CONNECTION_CLEAR (R360 to R365): a failed phase is
recorded and the third makes its cluster dark; the uncore's regulator stops the device; a modelled drop below 5 mV is not
evaluated; a measured drop that exceeds the modelled one by more than 60 % for 100 µs lowers the point's connection ceiling by
one and one up to 30 % nothing; a write of CLR clears every ceiling. -/
def Obligations.SupplyFailures : Prop :=
  ∀ s : State, s.dev.st ≠ .off →
    (∀ (c : Cluster) (k : Fin 16), (s.clus c.val).phfail.getLsbD k.val = false →
      ∃ t, exec (.phaseFailure c k) s = .next t ∧ (t.clus c.val).phfail = (s.clus c.val).phfail ||| (1#16 <<< k.val) ∧
        SameClus s t c.val ∧ (t.rd R.pwrStat).testBit 0 ∧
        t.rd R.pwrPhasecnt = min (s.rd R.pwrPhasecnt + 1) 0xFFFFFFFF ∧
        (((List.range 16).filter (s.clus c.val).phfail.getLsbD).length ≥ 2 → (t.clus c.val).region = .dark) ∧
        (((List.range 16).filter (s.clus c.val).phfail.getLsbD).length < 2 →
          (t.clus c.val).region = (s.clus c.val).region)) ∧
    (∀ d : Die, ∃ t, exec (.uncoreRegulatorFailure d) s = .next t ∧ t.dev.st = .fault ∧ t.cl = s.cl ∧ t.mem = s.mem) ∧
    (∀ (d : Die) (p : Fin 64) (drop amps : Nat) (temp : Int),
      let k := 64 * d.val + p.val
      let m := modelDrop (s.connZ k) amps temp
      let more : Int := (drop * 40000000 : Nat) - m
      let old := s.connCeil d.val p.val
      (m < 5000000 * 40000 → exec (.connectionSense d p drop amps temp) s = .next s) ∧
      (m ≥ 5000000 * 40000 → (p.val < 48 → (s.clus (24 * d.val + p.val / 2)).region ≠ .dark) →
        (∀ (y : Sense) (a : Nat), SMap.find k s.pw.sense = some y → 100 * more > 60 * m → y.over60 = some a →
          a + 10000 ≤ s.ticks → s.ticks < a + 110000 → y.taken = 0 → old ≥ 2 →
          ∃ t, exec (.connectionSense d p drop amps temp) s = .next t ∧ t.connCeil d.val p.val = old - 1 ∧
            Flagged s t R.pwrStat 3 R.pwrCcapcnt 1 ∧ bitsOf (t.rd R.pwrConnloc) 0 8 = d.val + 4 * p.val) ∧
        (100 * more ≤ 30 * m → ∃ t, exec (.connectionSense d p drop amps temp) s = .next t ∧
          t.connCeil d.val p.val = old ∧ t = { s with pw := t.pw, cl := t.cl } ∧
          SMap.find k t.pw.sense = some ⟨(100 * more).toNat / m.toNat, none, none, false, 0, none⟩))) ∧
    (∀ v : BitVec 32, s.setupOpen = true → s.regs.held = [] → s.running = false → bitsOf v.toNat 0 1 = 1 →
      ∃ t, exec (.connectionClear v) s = .next t ∧ (∀ c, (t.clus c).connCeil = 7) ∧ ∀ d : Die, t.pw.dieConn[d] = 7)

/-- ARBITER_EVALUATION, LOAD_FORECAST_FRAME and VR_ALERT_N (R359, R373 to R376, R379, R381, R382): the samples of 1 µs, each
the sum over the rails, give the averages over 10 µs, 1 ms and 100 ms, and PWR_MEAS takes them; P_eff is at most every cap; above it the levers only fall, and within the hysteresis below it they stay; a
frame publishes the declarations, and a forecast that rises with it is evaluated at once; an alert puts its die's ceiling at OP0 and its release raises it a point a
millisecond. -/
def Obligations.ArbiterHoldsCaps : Prop :=
  ∀ s : State,
    (∀ m : PowerMeas, s.dev.st ≠ .off → ∃ t, exec (.arbiterEvaluation m) s = .next t ∧
      (let hist := (m.samples.map (fun rails => (rails.map fun r => r.1 * r.2).sum) ++ s.pw.hist).take 100000
       t.pw.hist = hist ∧ t.pw.p10 = (hist.take 10).sum / 1000 ∧ t.pw.p1ms = (hist.take 1000).sum / 100000 ∧
       t.pw.a100 = hist.sum / 10000000) ∧
      t.pw.secUw = s.pw.secUw + (m.samples.map (fun rails => (rails.map fun r => r.1 * r.2).sum)).sum ∧
      t.pw.secN = s.pw.secN + m.samples.length ∧
      bitsOf (t.rd R.pwrMeas) 0 16 = min (t.pw.p1ms / 10000) 65535 ∧
      bitsOf (t.rd R.pwrMeas) 16 16 = min (t.pw.a100 / 10000) 65535 ∧
      bitsOf (t.rd R.pwrMeas) 48 16 = min m.pfc 65535 ∧ bitsOf (t.rd R.pwrMeas) 32 16 = min (t.pw.peff / 10000) 65535 ∧
      t.pw.peff ≤ 10000 * bitsOf (s.rd R.pwrCap) 0 12 ∧ (∀ v, s.pw.shedCap = some v → t.pw.peff ≤ 10000 * v) ∧
      (∀ v, s.thm.cap = some v → t.pw.peff ≤ 10000 * v) ∧ (∀ v, t.thm.coolCap = some v → t.pw.peff ≤ 10000 * v) ∧
      (let pred := max t.pw.p10 (10000 * m.pfc)
       (pred > t.pw.peff → t.pw.mem ≤ s.pw.mem ∧ ∀ d : Die, t.pw.compute[d] ≤ s.pw.compute[d]) ∧
       (pred ≤ t.pw.peff → t.pw.peff < pred + 10000 * bitsOf (s.rd R.pwrArb) 0 8 →
         t.pw.mem = s.pw.mem ∧ t.pw.compute = s.pw.compute ∧ t.lnk = s.lnk))) ∧
    (∀ fc : Nat, s.dev.st ≠ .off → s.dev.st ≠ .dawn → ∃ t, exec (.loadForecastFrame fc) s = .next t ∧
      t.pw.frameAt = s.ticks ∧ fld t.pw.frame 0 3 = 5 ∧ fld t.pw.frame 31 1 = (if s.pw.shedCap = none then 0 else 1) ∧
      (∀ d, d < 4 → fld t.pw.frame (3 + 7 * d) 7 = s.fcstLevel d) ∧
      (∀ c, ∀ x ∈ (t.clus c).decls, x.pub ≠ none) ∧
      (fc ≤ s.pw.pfc → t = { s with pw := t.pw, cl := t.cl }) ∧
      (fc > s.pw.pfc → t.pw.pfc = fc ∧ bitsOf (t.rd R.pwrMeas) 48 16 = min fc 65535 ∧
        t.pw.peff ≤ 10000 * bitsOf (s.rd R.pwrCap) 0 12)) ∧
    (∀ d : Die, s.dev.st ≠ .off → s.pw.vrOn[d] = false → ∃ t, exec (.vrAlertNAssert d) s = .next t ∧
      t.pw.vrOn[d] = true ∧ t.pw.vrCeil[d] = 0 ∧ t.diePoint d.val = 0 ∧ Flagged s t R.pwrStat 6 R.pwrVrcnt 1) ∧
    (∀ d : Die, (s.pw.vrOn[d] = true ∨ ∃ a, s.pw.vrUp[d] = some a ∧ a + 100000 ≤ s.ticks) → s.pw.vrCeil[d].val < 7 →
      ∃ t, exec (.vrAlertNRelease d) s = .next t ∧ t = { s with pw := t.pw } ∧ t.pw.vrOn[d] = false ∧
        t.pw.vrCeil[d].val = s.pw.vrCeil[d].val + 1 ∧
        ∀ e : Die, e ≠ d → t.pw.vrOn[e] = s.pw.vrOn[e] ∧ t.pw.vrCeil[e] = s.pw.vrCeil[e])

/-- ENVELOPE, ENVELOPE_LAPSE, SHED_N_ASSERT and SHED_N_RELEASE (R377, R378): an accepted envelope is recorded and its
CAP is the target, a cap above it dropping to the greater of CAP and A100; a malformed one is flagged and changes
nothing else; a lapse sets the target to SAFE; SHED_N sets the shed cap and its release ends it and takes the envelope
that came meanwhile. -/
def Obligations.EnvelopesAndShed : Prop :=
  ∀ s : State,
    (∀ msg : Block16, s.dev.st ≠ .off → s.envOn = true →
      let cap := fld msg 16 16
      let ok := fld msg 0 8 = 0x45 ∧ fld msg 112 16 = msgCrc msg ∧ fld msg 80 32 = 0 ∧ 600 ≤ cap ∧ cap ≤ 3000 ∧
        50 ≤ fld msg 32 16 ∧ fld msg 32 16 ≤ 3000 ∧ 600 ≤ fld msg 48 16 ∧ fld msg 48 16 ≤ cap ∧ 10 ≤ fld msg 64 16 ∧
        fld msg 64 16 ≤ 1000 ∧ ∀ v, s.pw.env = some v → v.seq.toNat ≠ fld msg 8 8
      (ok → ∃ t, exec (.envelope msg) s = .next t ∧ t = { s with pw := t.pw, regs := t.regs } ∧
        SameRegs s t [R.pwrEnv] ∧
        t.pw.env = some ⟨BitVec.ofNat 8 (fld msg 8 8), fld msg 32 16, fld msg 48 16, fld msg 64 16⟩ ∧
        t.pw.envAt = s.ticks ∧ t.pw.lapsed = false ∧
        (s.pw.shedOn = true → t.pw.pendT = some (cap, fld msg 32 16) ∧ t.pw.target = s.pw.target ∧
          t.pw.ecap = s.pw.ecap ∧ t.pw.ramp = s.pw.ramp) ∧
        (s.pw.shedOn = false → t.pw.target = cap ∧ t.pw.ramp = some (fld msg 32 16) ∧
          t.pw.ecap = if cap * 10000 < s.pw.ecap then min s.pw.ecap (max (cap * 10000) s.pw.a100) else s.pw.ecap)) ∧
      (¬ok → ∃ t, exec (.envelope msg) s = .next t ∧ t.pw = s.pw ∧ Flagged s t R.pwrStat 8 R.pwrEnvbadcnt 1)) ∧
    (s.dev.st ≠ .off → s.envOn = true → s.pw.lapsed = false →
      s.pw.envAt + (match s.pw.env with | some v => v.valid | none => 100) * 100000 ≤ s.ticks →
      ∃ t, exec .envelopeLapse s = .next t ∧ t.pw.lapsed = true ∧ t.pw.target = bitsOf (s.rd R.pwrEnvctl) 0 12 ∧
        (∀ p, t.pw.pendT = some p → p.1 = bitsOf (s.rd R.pwrEnvctl) 0 12) ∧ Flagged s t R.pwrStat 7 R.pwrEnvlostcnt 1) ∧
    (s.dev.st ≠ .off → s.pw.shedOn = false → ∃ t, exec .shedNAssert s = .next t ∧ t.pw.shedOn = true ∧
      Flagged s t R.pwrStat 5 R.pwrShedcnt 1 ∧
      (let v := match s.pw.env with
         | some e => min (bitsOf (s.rd R.pwrShed) 0 12) e.shed
         | none => bitsOf (s.rd R.pwrShed) 0 12
       t.pw.shedCap = some v ∧ t.pw.peff ≤ 10000 * v)) ∧
    (s.pw.shedOn = true → ∃ t, exec .shedNRelease s = .next t ∧ t = { s with pw := t.pw } ∧ t.pw.shedOn = false ∧
      t.pw.shedCap = none ∧ t.pw.pendT = none ∧ t.pw.target = (s.pw.pendT.map (·.1)).getD s.pw.target)

/-- SENSOR_READING, SENSOR_DISAGREEMENT and STACK_TEMPERATURE (R386 to R388, R393, R394): a plausible counted reading
replaces the sensor's; one out of range fails it; a protection reading that reaches 105 °C runs the unit stop; a
disagreement of 100 ms is flagged; a stack at 100 °C throttles a step, one below 97 °C for 10 ms releases one, and 105
°C stops the units. THERMAL_MODEL_UPDATE (R389 to R392): forecasts are those of the model's step; a die at 95 °C falls
a point at a time; one calm for 10 ms rises a point; the thermal cap appears only where a die is hot at OP0. -/
def Obligations.ThermalProtection : Prop :=
  (∀ (errs : Errs) (s : State), s.dev.st ≠ .off →
     (∀ (h : Fin 97) (b : Bool) (r : BitVec 11), (∀ t, s.thm.inlet = some t → t - 1000 ≤ r.toInt * 25) →
       let x := s.hot h.val
       let new := fun (y : Sensor) => ({ y with
         reading := r
         at_ := s.ticks } : Sensor)
       (r.toInt ≥ -40 → r.toInt < 420 → (b = false → x.b.failed = true ∨ x.b.reading.toInt < 420) →
         (b = true → x.a.failed = true ∨ x.a.reading.toInt < 420) → (x.a.failed = false ∨ x.b.failed = false) →
         ∃ t, exec (.sensorReading h b r true errs) s = .next t ∧ t = { s with thm := t.thm } ∧
           (t.hot h.val).a = (if b then x.a else new x.a) ∧ (t.hot h.val).b = (if b then new x.b else x.b) ∧
           ∀ g, g ≠ h.val → t.hot g = s.hot g) ∧
       (r.toInt < -40 → b = false → x.a.failed = false → x.b.failed = false → x.b.reading.toInt < 420 →
         ∃ t, exec (.sensorReading h false r true errs) s = .next t ∧ (t.hot h.val).a.failed = true ∧
           (t.hot h.val).b = x.b ∧ Flagged s t R.thmStat 7 R.thmFailcnt 1) ∧
       (r.toInt ≥ 420 → r.toInt ≤ 600 → s.dev.stopped = false →
         (if b then x.b.failed else x.a.failed) = false → ∃ t, exec (.sensorReading h b r true errs) s = .next t ∧
           t.dev.st = .fault ∧ t.dev.stopped = true ∧ t.dev.selfRefresh = true)) ∧
     (∀ (h : Fin 97) (a : Nat), (s.hot h.val).apart = some a → (s.hot h.val).told = false → a + 10000000 ≤ s.ticks →
       ∃ t, exec (.sensorDisagreement h) s = .next t ∧ (t.hot h.val).told = true ∧
         Flagged s t R.thmStat 0 R.thmDiscnt 1) ∧
     (∀ (k : Fin 20) (r : BitVec 11),
       let x := SMap.val StackSt.reset s.thm.stack k.val
       let lands := fun (t : State) (step : Nat) => (SMap.val StackSt.reset t.thm.stack k.val).step = step ∧
         (SMap.val StackSt.reset t.thm.stack k.val).temp = r ∧ t.dev.st = s.dev.st
       (r.toInt ≥ 400 → r.toInt < 420 → x.step < 10 → (x.step = 0 ∨ x.at_ + 100000 ≤ s.ticks) →
         ∃ t, exec (.stackTemperature k r errs) s = .next t ∧ lands t (x.step + 1) ∧
           (x.step = 0 → Flagged s t R.thmStat 6 R.thmStkcnt 1)) ∧
       (r.toInt < 388 → x.step > 0 → x.warmAt + 1000000 ≤ s.ticks →
         ∃ t, exec (.stackTemperature k r errs) s = .next t ∧ lands t (x.step - 1) ∧ t.regs = s.regs) ∧
       (r.toInt ≥ 388 → r.toInt < 400 → ∃ t, exec (.stackTemperature k r errs) s = .next t ∧ lands t x.step ∧
         t = { s with thm := t.thm }) ∧
       (r.toInt ≥ 420 → x.temp.toInt < 420 ∨ s.dev.stopped = false → ∃ t, exec (.stackTemperature k r errs) s = .next t ∧ t.dev.st = .fault ∧
         t.dev.faultCold = true ∧ t.hbm.spoiled = true))) ∧
  (∀ (m : ThermMeas) (errs : Errs) (s : State), s.dev.st ≠ .off →
     (∀ p ∈ s.thm.hs, p.2.a.failed = false ∨ p.2.b.failed = false) →
     ∃ t, exec (.thermalModelUpdate m errs) s = .next t ∧
       (∀ c i, c < 96 → i < 4 → SMap.val 0 t.thm.fcst (4 * c + i) =
         (Config.rcForecast c (t.dieNodes (c / 24)) (s.planned c + SMap.val 0 m.other c) s.inletC).getD i 0) ∧
       t.thm.hs = s.thm.hs ∧ t.dev.st = s.dev.st ∧
       (∀ d : Die, (t.hotter d.val 95 false = true → t.pw.thermal[d].val = s.pw.thermal[d].val - 1) ∧
         (t.hotter d.val 95 false = false → t.hotter d.val 92 true = false → s.pw.thermal[d].val < 7 →
           s.thm.calm[d] + 1000000 ≤ s.ticks → t.pw.thermal[d].val = s.pw.thermal[d].val + 1) ∧
         (t.hotter d.val 95 false = false → t.hotter d.val 92 true = true → t.pw.thermal[d] = s.pw.thermal[d])) ∧
       (s.thm.cap = none → (t.thm.cap ≠ none ↔ ∃ d : Die, s.pw.thermal[d] = 0 ∧ t.hotter d.val 95 false = true)) ∧
       (∀ v, s.thm.cap = none → t.thm.cap = some v → v = max 600 (s.pw.p10 / 10000 - 100)))

/-- COOLANT_TELEMETRY, TELEMETRY_LAPSE, HEAT_BALANCE_CHECK, COOL_FAIL_N_ASSERT and THERMTRIP (R395 to R399, R401): a
valid frame is taken and a bad one counted; 100 ms without one loses telemetry; five balances off by more than 15 % in
a row flag the tray's sensors; COOL_FAIL_N stops the units, and THERMTRIP stops without a record and forces a cold
start. -/
def Obligations.CoolantAndWires : Prop :=
  ∀ (errs : Errs) (s : State), s.dev.st ≠ .off →
    (∀ msg : Block16,
      let ok := fld msg 0 8 = 0x43 ∧ fld msg 112 16 = msgCrc msg ∧ fld msg 72 40 = 0 ∧ -1000 ≤ msgInt msg 16 ∧
        msgInt msg 16 ≤ 8000 ∧ -1000 ≤ msgInt msg 32 ∧ msgInt msg 32 ≤ 9000 ∧ fld msg 48 16 ≤ 10000 ∧
        fld msg 64 8 < 8 ∧ ∀ f, s.thm.cool = some f → f.seq.toNat ≠ fld msg 8 8
      (ok → fld msg 64 8 < 4 → fld msg 48 16 > 600 → s.thm.flagged = false →
        ∃ t, exec (.coolantTelemetry msg errs) s = .next t ∧ t = { s with thm := t.thm } ∧
          t.thm.cool = some ⟨msgInt msg 16, msgInt msg 32, fld msg 48 16, BitVec.ofNat 8 (fld msg 8 8),
            BitVec.ofNat 3 (fld msg 64 8)⟩ ∧ t.thm.lost = false ∧ t.thm.coolAt = s.ticks ∧ t.thm.lowFlow = 0 ∧
          t.thm.balHeat = s.thm.balHeat + (fld msg 48 16 : Nat) * (msgInt msg 32 - msgInt msg 16) ∧
          t.thm.balFrames = s.thm.balFrames + 1 ∧
          t.thm.inlet = if fld msg 64 1 = 1 then s.thm.inlet else some (msgInt msg 16)) ∧
      (ok → fld msg 64 8 < 4 → fld msg 48 16 ≤ 600 → s.thm.lowFlow ≥ 1 → s.dev.stopped = false →
        ∃ t, exec (.coolantTelemetry msg errs) s = .next t ∧ t.dev.st = .fault ∧ t.dev.stopped = true) ∧
      (¬ok → ∃ t, exec (.coolantTelemetry msg errs) s = .next t ∧ t = { s with regs := t.regs } ∧
        SameRegs s t [R.thmBadcnt] ∧ t.rd R.thmBadcnt = min (s.rd R.thmBadcnt + 1) 0xFFFFFFFF)) ∧
    (s.thm.lost = false → s.thm.coolAt + 10000000 ≤ s.ticks → ∃ t, exec .telemetryLapse s = .next t ∧
      t.thm = { s.thm with lost := true } ∧ Flagged s t R.thmStat 3 R.thmTlostcnt 1) ∧
    (let q := (s.thm.balHeat * (bitsOf (s.rd R.thmCool) 0 13 : Nat)).fdiv (6 * s.thm.balFrames : Nat)
     let p := s.pw.secUw / s.pw.secN
     bitsOf (s.rd R.thmCtl) 0 1 = 1 → s.thm.balAt + 100000000 ≤ s.ticks → s.thm.balFrames > 0 → s.pw.secN > 0 →
      p ≥ 400000000 → 20 * ((p : Int) - (s.thm.balP : Int)).natAbs < s.thm.balP →
      let off := 100 * (q - (p : Int)).natAbs > 15 * p
      ∃ t, exec .heatBalanceCheck s = .next t ∧ t.thm.balP = p ∧ t.thm.balFrames = 0 ∧ t.thm.balHeat = 0 ∧
        t.pw.secN = 0 ∧ t.pw.secUw = 0 ∧
        (off → t.thm.mis = min (s.thm.mis + 1) 5 ∧ t.thm.hit = 0 ∧
          (t.thm.flagged = true ↔ s.thm.flagged = true ∨ s.thm.mis ≥ 4) ∧
          (s.thm.mis = 4 → Flagged s t R.thmStat 2 R.thmBalcnt 1)) ∧
        (¬off → t.thm.mis = 0 ∧ t.thm.hit = min (s.thm.hit + 1) 5 ∧ t.regs = s.regs ∧
          (t.thm.flagged = true ↔ s.thm.flagged = true ∧ s.thm.hit < 4))) ∧
    (∃ t, exec (.coolFailNAssert errs) s = .next t ∧ t.dev.st = .fault ∧ t.dev.stopped = true ∧
      t.rd R.genLaststop = 0x510B + 4 * 2 ^ 16 + 2 ^ 31) ∧
    (s.pins.trip = false → ∃ t, exec .thermtrip s = .next t ∧ t.pins.trip = true ∧ t.dev.st = .fault ∧
      t.dev.faultCold = true ∧ t.evt = s.evt ∧ t.rd R.genLaststop = 0x510D + 4 * 2 ^ 16 + 2 ^ 31 ∧
      t.rd R.genStoptime = s.time.meridian.toNat)

/-- REGISTER_WRITE and STAGED_REGISTER_WRITE (R17, R411, R453, R457, R458): a whole write that its register accepts
leaves each field as its access says and every other register as it was; one of a staged register waits for the epoch;
one that is refused changes nothing but GEN's flag, count and location; one of a region in its stop is held; in OFF, and in
the first two steps of a start, nothing happens. -/
def Obligations.RegistersWritten : Prop :=
  ∀ (addr : Nat) (v : Word) (s : State) (h : Hit), hitAt addr = some h → h.byte = 0 →
    let n := h.reg.width / 8
    let a := h.base
    let w := v.toNat % 2 ^ h.reg.width
    let lands := s.setupOpen = true ∧ s.regs.held = [] ∧ s.inStop h = false ∧ s.unclocked h = false
    let plain := h.reg.staged = false ∧ a ∉ [R.lnkCtl, R.cfgCmd, R.pwrConnclr, R.pwrEnvctl, R.memMgctl, R.evtCons, R.evtCtl] ∧
      ¬(h.blk = .lnk ∧ h.reg.off = 0x100)
    ∀ i ∈ [Instr.registerWrite addr n v, Instr.stagedRegisterWrite addr n v],
      (lands → plain → s.refuses a h w = false → ∃ t, exec i s = .next t ∧ t = { s with regs := t.regs } ∧
        SameRegs s t [a] ∧ ∀ f ∈ h.reg.flds,
          let new := bitsOf (t.rd a) f.lo f.len
          let old := bitsOf (s.rd a) f.lo f.len
          let x := bitsOf w f.lo f.len
          match f.acc with
          | .rw | .rws => limits h.blk h.reg.off f.lo = none → new = x
          | .w1c => ∀ k, new.testBit k = (old.testBit k && !x.testBit k)
          | .w1s => ∀ k, new.testBit k = (old.testBit k || x.testBit k)
          | .cnt => new = if x = 0 then 0 else old
          | .ro | .ros => new = old
          | .wo => new = 0) ∧
      (lands → h.reg.staged = true → a ≠ R.lnkCtl → s.refuses a h w = false →
        (s.cfg.phase.takes = true → ∃ t, exec i s = .next t ∧ t = { s with regs := t.regs, cfg := t.cfg } ∧
          (∀ b, t.rd b = s.rd b) ∧ t.nextVal a = h.after (s.nextVal a) w % 2 ^ 64 ∧
          (∀ b, b ≠ a → t.nextVal b = s.nextVal b) ∧ t.cfg.phase = if s.cfg.phase = .applying then .applying
            else if t.differs then .staged else .idle) ∧
        (s.cfg.phase.takes = false → ∃ t, exec i s = .next t ∧ t.regs.staged = s.regs.staged ∧ t.cfg = s.cfg ∧
          Flagged s t R.genStat 0 R.genIgncnt 1)) ∧
      (lands → s.refuses a h w = true → ∃ t, exec i s = .next t ∧ Flagged s t R.genStat 0 R.genIgncnt 1 ∧
        t.rd R.genIgnloc = addr % 2 ^ 48 + 2 ^ 63 ∧ t.regs.staged = s.regs.staged ∧
        SameRegs s t [R.genStat, R.genIgncnt, R.genIgnloc, R.evtStat, R.evtLostcnt]) ∧
      (s.setupOpen = true → s.inStop h = true → ∃ t, exec i s = .next t ∧
        t = { s with regs := { s.regs with held := s.regs.held ++ [(addr, n, v, s.ticks)] } }) ∧
      (s.setupOpen = false → exec i s = .next s)

/-- CHECK, EPOCH_CHECK_COMPLETE, APPLY, DISCARD and EPOCH_INSTANT (R459 to R463): the phases of an epoch; a check that
finds a fault goes back to STAGED with CFG_FAIL; APPLY arms an instant at least 100 µs ahead; the instant installs
every staged value at once and counts the epoch, and work accepted before it finds the values that it replaced. -/
def Obligations.EpochsApply : Prop :=
  ∀ (v : BitVec 32) (errs : Errs) (s : State), s.setupOpen = true → s.regs.held = [] →
    let now := s.time.meridian.toNat
    (bitsOf v.toNat 0 2 = 1 → s.cfg.phase = .staged → ∃ t, exec (.check v) s = .next t ∧
      t.cfg = { s.cfg with phase := .checking } ∧ (∀ a, a ≠ R.cfgCmd → t.rd a = s.rd a) ∧
      t = { s with regs := t.regs, cfg := t.cfg }) ∧
    (let u := s.readTables s.tables errs
     s.cfg.phase = .checking →
      (u.epochFail = none → exec (.epochCheckComplete errs) s = .next { u with cfg := { u.cfg with phase := .checked } }) ∧
      (∀ f, u.epochFail = some f → ∃ t, exec (.epochCheckComplete errs) s = .next t ∧
        t.cfg = { u.cfg with phase := .staged } ∧ t.rd R.cfgFail = failImage f % 2 ^ 64 ∧
        t.regs.staged = u.regs.staged ∧ Flagged u t R.cfgStat 0 R.cfgChkcnt 1)) ∧
    (bitsOf v.toNat 0 2 = 2 → s.cfg.phase = .checked →
      let at_ := if s.rd R.cfgInstant = 0 then now + 1600000 else s.rd R.cfgInstant
      (now + 1600000 ≤ at_ → ∃ t, exec (.apply v) s = .next t ∧ t.cfg = { s.cfg with
          phase := .armed
          at_ := BitVec.ofNat 64 at_ }) ∧
      (at_ < now + 1600000 → ∃ t, exec (.apply v) s = .next t ∧ t.cfg = s.cfg ∧
        Flagged s t R.cfgStat 1 R.cfgApfcnt 1)) ∧
    (bitsOf v.toNat 0 2 = 3 → (s.cfg.phase = .staged ∨ s.cfg.phase = .checked ∨
        (s.cfg.phase = .armed ∧ now < s.cfg.at_.toNat)) →
      ∃ t, exec (.discard v) s = .next t ∧ t.cfg.phase = .idle ∧ t.regs.staged = [] ∧
        ∀ a, a ≠ R.cfgCmd → t.rd a = s.rd a) ∧
    (let u := s.readTables (s.tables.filter fun r => r.1 = s.nextVal R.pwrPhtab || r.1 = s.nextVal R.stmResbase) errs
     s.cfg.phase = .armed → s.cfg.at_.toNat ≤ now → s.lateFail = none → ∃ t, exec (.epochInstant errs) s = .next t ∧
      t.regs.staged = [] ∧ t.rd R.cfgEpoch = (u.nextVal R.cfgEpoch + 1) % 2 ^ 32 ∧ t.rd R.cfgLast = u.cfg.at_.toNat ∧
      (t.rd R.cfgStat).testBit 2 ∧
      (∀ a ∈ [R.pwrCap, R.pwrPrio, R.pwrPhtab, R.pwrDusk, R.pwrDuskhi, R.stmResbase, R.stmRescnt, R.updShtab, R.updShcnt,
        R.updPartab, R.updLrtab, R.lnkRtbase, R.lnkGtbase, R.genStattab], t.rd a = u.nextVal a) ∧
      (∀ i, i < 256 → SMap.val 0 t.phtab i = t.mem.byte (t.rd R.pwrPhtab + 4 * i)) ∧
      (t.cfg.phase = .idle ∨ t.cfg.phase = .applying) ∧
      (u.dev.st = .draining → u.dev.drained = true → t.dev.st = .detached) ∧
      (∀ c, u.leaving = c → c ≠ [] → t.hbm.mapOut ≠ none ∧ t.cfg.phase = .applying) ∧
      (∀ j ∈ u.stw.jobs, j.ord < u.order → (∀ p ∈ u.cfg.old, p.1 ≤ j.ord) →
        ∀ a ∈ [R.lnkRtbase, R.lnkGtbase, R.updShtab, R.updShcnt, R.updPartab, R.updLrtab],
          (t.putVals (t.oldVals j.ord)).rd a = u.rd a)) ∧
    (∀ f, s.cfg.phase = .armed → s.cfg.at_.toNat ≤ now → s.lateFail = some f → ∃ t, exec (.epochInstant errs) s = .next t ∧
      t.cfg.phase = .staged ∧ t.regs.staged = s.regs.staged ∧ t.rd R.cfgEpoch = s.rd R.cfgEpoch ∧
      Flagged s t R.cfgStat 1 R.cfgApfcnt 1)

/-- EVENT_RECORD, EVT_CONS_WRITE, SETUP_ACCESS_TIMEOUT and REFCLK_LOSS (R411, R423, R467 to R471): the oldest record
of a unit is written at EVT_PROD with its phase; without room one of severity DEGRADE or higher waits in the reserve
and a lower one is lost and counted; software's index frees places; a write held for 10 µs is dropped; a lost
reference holds over and stops the units. -/
def Obligations.EventsAndReference : Prop :=
  ∀ s : State,
    (∀ (u : Nat) (r : EvRec) (l : List EvRec), SMap.find u s.evt.queues = some (r :: l) →
      let room := bitsOf (s.rd R.evtCtl) 0 1 = 1 ∧
        (s.rd R.evtProd + 2 ^ 32 - s.rd R.evtCons) % 2 ^ 32 < 2 ^ bitsOf (s.rd R.evtSize) 0 5
      let k := s.rd R.evtProd
      let n := 2 ^ bitsOf (s.rd R.evtSize) 0 5
      let at_ := s.rd R.evtBase + 32 * (k % n)
      s.evt.reserve = [] → s.evt.lost = 0 →
      (room → at_ ≥ hostBase → ∃ t, exec (.eventRecord u) s = .next t ∧
        t.mem.bytes at_ 32 = r.bytes ((k / n + 1) % 2) ∧ t.rd R.evtProd = (k + 1) % 2 ^ 32 ∧
        SMap.val [] t.evt.queues u = l ∧
        (∀ a, (a < at_ ∨ at_ + 32 ≤ a) → t.mem.byte a = s.mem.byte a) ∧
        t = { s with mem := t.mem, cls := t.cls, evt := t.evt, regs := t.regs } ∧ SameRegs s t [R.evtProd]) ∧
      (¬room → r.sev.code ≥ 2 → ∃ t, exec (.eventRecord u) s = .next t ∧ t.evt.reserve = [r] ∧
        t = { s with evt := t.evt }) ∧
      (¬room → r.sev.code < 2 → ∃ t, exec (.eventRecord u) s = .next t ∧ t.evt.lost = 1 ∧ t.evt.reserve = [] ∧
        Flagged s t R.evtStat 0 R.evtLostcnt 1)) ∧
    (∀ v : BitVec 32, s.setupOpen = true → s.regs.held = [] → s.evt.reserve = [] → s.evt.lost = 0 →
      (s.rd R.evtProd + 2 ^ 32 - v.toNat) % 2 ^ 32 ≤ 2 ^ bitsOf (s.rd R.evtSize) 0 5 →
      ∃ t, exec (.evtConsWrite v) s = .next t ∧ t.rd R.evtCons = v.toNat ∧ SameRegs s t [R.evtCons] ∧
        t = { s with regs := t.regs }) ∧
    (∀ (a n : Nat) (v : Word) (at_ : Nat), s.regs.held = [(a, n, v, at_)] → at_ + 1000 ≤ s.ticks →
      ∃ t, exec .setupAccessTimeout s = .next t ∧ t.regs.held = [] ∧ Flagged s t R.clkStat 2 R.clkRegtmocnt 1 ∧
        t.mem = s.mem ∧ t.cl = s.cl) ∧
    (∀ errs : Errs, s.dev.st ≠ .off → s.time.holdover = false → ∃ t, exec (.refclkLoss errs) s = .next t ∧ t.time.holdover = true ∧
      t.time.slew = 0 ∧ t.dev.st = .fault ∧ t.dev.stopped = true ∧ Flagged s t R.clkStat 0 R.clkRefcnt 1)

/-- MAPOUT_FLUSH, MAPOUT_DONE, MARGIN_RUN_START and MARGIN_RUN_DONE (R223 to R225, R228, R229): the flush takes the
channels out of the map and records them; the end clears HBM and lets held work go on; a margin run on a channel
spoils HBM, and its windows are reported, with a flag when one is below its minimum. -/
def Obligations.ChannelsAndMargins : Prop :=
  ∀ s : State,
    (∀ m, s.hbm.mapOut = some m → m.flushed = false → s.oldDone m.ord = true →
      ∃ t, exec (.mapoutFlush []) s = .next t ∧ (∀ c ∈ m.chans, (t.chan c).st = .mapped ∧ c ∈ t.hbm.mapRec) ∧
        (∀ c, c ∉ m.chans → t.chan c = s.chan c) ∧ t.hbm.mapOut = some { m with flushed := true } ∧
        t.hbm.spoiled = true ∧ bitsOf (t.rd R.stmCkctl) 0 1 = 0 ∧ t.shc.lines = [] ∧ t.shc.comb = []) ∧
    (∀ m, s.hbm.mapOut = some m → m.flushed = true → ∃ t, exec .mapoutDone s = .next t ∧ t.hbm.mapOut = none ∧
      t.hbm.spoiled = false ∧ (∀ a, a < hostBase → t.mem.byte a = 0) ∧
      (∀ a, a ≥ hostBase → t.mem.byte a = s.mem.byte a) ∧ (∀ o, t.heldBack o = false) ∧
      Flagged s t R.memStat 5 R.memMapcnt 1) ∧
    (∀ v : BitVec 32, s.dev.st = .standby → s.setupOpen = true → s.regs.held = [] → s.hbm.margin = none →
      bitsOf v.toNat 10 1 = 1 → bitsOf v.toNat 0 10 < 640 →
      ∃ t, exec (.marginRunStart v) s = .next t ∧ t.hbm.margin = some (bitsOf v.toNat 0 10) ∧ t.hbm.spoiled = true ∧
        bitsOf (t.rd R.memMgctl) 11 2 = 1 ∧ t = { s with hbm := t.hbm, regs := t.regs }) ∧
    (∀ (c : Nat) (rdt wrt rdv wrv vddq : BitVec 8), s.hbm.margin = some c → c < 640 →
      let pass := rdt.toNat ≥ 24 ∧ wrt.toNat ≥ 24 ∧ rdv.toNat ≥ 60 ∧ wrv.toNat ≥ 60 ∧ vddq.toNat ≥ 30
      ∃ t, exec (.marginRunDone rdt wrt rdv wrv vddq) s = .next t ∧ t.hbm = { s.hbm with
          margin := none
          spoiled := true } ∧
        (let r := t.rd R.memMgres
         bitsOf r 0 8 = rdt.toNat ∧ bitsOf r 8 8 = wrt.toNat ∧ bitsOf r 16 8 = rdv.toNat ∧ bitsOf r 24 8 = wrv.toNat ∧
           bitsOf r 32 8 = vddq.toNat ∧ (bitsOf r 40 1 = 1 ↔ pass) ∧ bitsOf r 41 1 = 1 ∧ bitsOf r 42 10 = c) ∧
        bitsOf (t.rd R.memMgctl) 11 2 = 2 ∧ (¬pass → Flagged s t R.memStat 6 R.memMglowcnt 1))

/-- POWER_UP, CORE_RAIL_LOSS and POWER_DOWN (R480, R483 to R485): the last core rail of an orderly power-up begins a
cold start, a rail out of turn holds the device in OFF; a core rail lost takes the device to OFF, where it keeps no
record and no session, but after a unit stop VRET and the rails of the compute and optical dies may go. RESET_N_FALL,
RESET_N_RISE and VAUX_REMOVED (R17, R432, R450, R482, R494): RESET_N low ends the session and holds the device in
DAWN; its rise returns the test access port to IDCODE and begins the start that waits, cold when FORCECOLD or a loss
of power asks for it; without VAUX the sticky registers are lost but for BANK. -/
def Obligations.RailsAndReset : Prop :=
  (∀ (r : Fin 13) (s : State),
     (s.pins.rail[r] = false → ∃ t, exec (.powerUp r) s = .next t ∧ t.pins.rail = s.pins.rail.set r true ∧
       (s.dev.st = .off → (∃ q : Fin 13, railStep q.val < railStep r.val ∧ s.pins.rail[q] = false) →
         t.dev.st = .off ∧ t.pins.bad = true) ∧
       (s.dev.st = .off → s.dev.inReset = false → s.pins.bad = false → (∀ q : Fin 13, q ≠ r → s.pins.rail[q] = true) →
         t.dev.st = .dawn ∧ t.dev.start = some ⟨true, s.ticks⟩)) ∧
     (r ≠ 0 → s.pins.rail[r] = true →
       (∃ t, exec (.coreRailLoss r) s = .next t ∧ t.pins.rail = s.pins.rail.set r false ∧ t.dev.st = .off ∧
         (s.dev.st ≠ .off → t.cl = [] ∧ t.evt.queues = [] ∧ t.sec.session = none ∧ t.mem = s.mem ∧
           t.dev.powerLost = true)) ∧
       (s.dev.stopped = true → s.dev.st = .fault → r = 1 ∨ 7 ≤ r.val → ∃ t, exec (.powerDown r) s = .next t ∧
         t.pins.rail = s.pins.rail.set r false ∧ t.dev = s.dev ∧ t.sec = s.sec ∧ t.mem = s.mem ∧
         (r ≠ 1 → t.cl = s.cl) ∧ ∀ c, (t.clus c).region = (s.clus c).region ∧
           ((s.clus c).region ≠ .dark → t.clus c = s.clus c)) ∧
       (¬(s.dev.stopped = true ∧ s.dev.st = .fault ∧ (r = 1 ∨ 7 ≤ r.val)) → ∃ t, exec (.powerDown r) s = .next t ∧
         t.pins.rail = s.pins.rail.set r false ∧ t.dev.st = .off))) ∧
  (∀ s : State,
     (∀ errs : Errs, ∃ t, exec (.resetNFall errs) s = .next t ∧ t.dev.inReset = true ∧
       (s.dev.st = .off ∨ s.dev.st = .dawn → t = { s with dev := { s.dev with inReset := true } }) ∧
       (s.dev.st ≠ .off → s.dev.st ≠ .dawn → t.dev.st = .dawn ∧ t.dev.start = none ∧ t.sec.session = none ∧
         t.dev.selfRefresh = true ∧ t.shc.lines = [] ∧ t.regs.staged = [] ∧ t.cfg.phase = .idle)) ∧
     (s.dev.inReset = true → ∃ t, exec .resetNRise s = .next t ∧ t.dev.inReset = false ∧ t.tap.instr = 0x01 ∧
       t.tap.drives = false ∧ t.tap.highz = false ∧
       (s.coreUp = true → s.dev.start.isSome = true ∨ s.pins.bad = false → s.dev.st = .dawn →
         let cold := (s.dev.start.map (·.cold)).getD false || bitsOf (s.rd R.secBoot) 4 1 = 1 || s.dev.powerLost ||
           s.dev.faultCold
         t.dev.st = .dawn ∧ t.dev.start = some ⟨cold, s.ticks⟩ ∧ bitsOf (t.rd R.secBoot) 4 1 = 0 ∧
           bitsOf (t.rd R.secBoot) 2 1 = (if cold then 0 else 1) ∧ t.regs.staged = [] ∧
           (cold = true → t.sync.obj = [] ∧ t.time.meridian = 0 ∧ t.runGen = 0))) ∧
     (∃ t, exec .vauxRemoved s = .next t ∧ t.pins.rail = s.pins.rail.set 0 false ∧ t.dev.st = .off ∧
       t.dev.powerLost = true ∧ t.rd R.genLaststop = 0 ∧ t.rd R.genStoptime = 0 ∧
       t.rd R.secBoot = 8 * bitsOf (s.rd R.secBoot) 3 1 ∧ t.pins.trip = false ∧ t.sec.i3cAddr = none ∧ t.tap = Tap.reset))

/-- START_COMPLETE (R432 to R437): a start whose steps all pass reaches STANDBY with the bank the boot ROM chose, each
image measured and SEC_FW showing its security version, a cold one with memory cleared, a warm one with its contents kept where
every stack is within 15 °C of its training; without an image that is accepted, or past 30 s of a warm
start, the device is in FAULT and a warm start counts its failure, the third forcing a cold start. -/
def Obligations.StartEnds : Prop :=
  ∀ (obs : StartObs) (errs : Errs) (s : State) (q : StartReq), s.dev.st = .dawn → s.dev.inReset = false → s.dev.start = some q →
    s.coreUp = true → obs.fail = none →
    let late := q.cold = false ∧ 30 * 100000000 < s.ticks - q.at_
    let fails := bitsOf (s.rd R.secBoot) 0 2
    (∀ b, s.bootBank obs = some b → ¬late → s.rd R.updCommita = 0 → ∃ t, exec (.startComplete obs errs) s = .next t ∧
      t.dev.st = .standby ∧ t.dev.start = none ∧ t.sec.active = b ∧ t.sec.svn = obs.svn[b] ∧
      t.rd R.secFw = obs.svn[b].toNat + s.fuse.minSvn.toNat * 2 ^ 16 ∧ bitsOf (t.rd R.secBoot) 0 2 = 0 ∧
      (∀ i : Fin 6, t.sec.meas[i.val] = b256 (sha256 (bytes256 s.sec.meas[i.val] ++ sha256 obs.comps[i]))) ∧
      t.fuse = s.fuse ∧ t.pending = s.pending ∧
      (q.cold = true → s.priv.due = none → t.sec.sealMem = false ∧ ∀ a, a < bellBase → t.mem.byte a = 0) ∧
      (q.cold = false → s.priv.due = none → (t.sec.meas.toList.drop 1).take 5 = s.sec.trained →
        (∀ k, k < 20 → ((SMap.val StackSt.reset s.thm.stack k).temp.toInt - SMap.val 0 s.hbm.trainT k).natAbs ≤ 60) →
        t.mem = s.mem ∧ t.hbm.chan = s.hbm.chan)) ∧
    (s.bootBank obs = none ∨ late → ∃ t, exec (.startComplete obs errs) s = .next t ∧ t.dev.st = .fault ∧ t.dev.start = none ∧
      bitsOf (t.rd R.genLaststop) 0 16 = 0x6001 ∧
      (q.cold = true → bitsOf (t.rd R.secBoot) 0 2 = fails) ∧
      (q.cold = false → bitsOf (t.rd R.secBoot) 0 2 = min (fails + 1) 3 ∧
        (fails ≥ 2 → bitsOf (t.rd R.secBoot) 4 1 = 1)))

/-- Reset (R160, R416, R464 and the reset columns of the register tables): after the power-on reset the device is in
DAWN with a cold start begun; no command waits and none is in flight, the Meridian counter and the run generation are
0, nothing is staged, memory lists nothing and is in canonical form, and registers hold the values their tables give.
-/
def Obligations.ResetState : Prop :=
  let s := State.reset
  s.pending = [] ∧ s.dev.st = .dawn ∧ s.dev.start = some ⟨true, 0⟩ ∧ s.sec.session = none ∧ s.mem = [] ∧
    s.mem.wf = true ∧ s.time.meridian = 0 ∧ s.runGen = 0 ∧ s.regs.staged = [] ∧ s.evt.queues = [] ∧
    (∀ a, s.nextVal a = s.rd a) ∧ (∀ c, (s.clus c).flight = []) ∧
    (∀ d : Die, (s.eng d.val).jobs = []) ∧ s.stw.jobs = [] ∧
    (∀ p ∈ [(R.memScrub, 0x118), (R.memRepcfg, 4), (R.pwrCap, 0xBB8A28), (R.pwrPrio, 0x24),
      (R.secSesscfg, 0x3A1E), (R.evtSize, 12), (R.updCtl, 0)], s.rd p.1 = p.2)

/-- Management commands (R13, R427 to R429, R438, R441, R442): what a row of Table 15.4 does not run, it completes
with the first status of R13 that applies: MALFORMED with the offset, UNSUPPORTED for an unknown code, AUTH_FAIL when
its authority fails, STATE_REFUSED in a state that does not allow it. Authority (R438, R439, R442, R444): a session's
command passes with the session's SID, channel, next SEQ and MAC, and advances SEQ; a proof passes once, with a nonce
of its channel no older than 10 s and the right HMAC; a failure counts, the fifth in a row starts a refusal of 60 s
that doubles, and a refusal checks nothing. -/
def Obligations.ManagementAuthority : Prop :=
  (∀ (m : Mgmt) (errs : Errs) (vb : Bool) (s : State), ∀ q ∈ mgmtRows m errs vb,
     (∀ c u o, s.mgmtTake q.2.1 m = some (c, u) → u.mgmtBad c q.2.2 = some o →
       exec q.1 s = .next (u.mgmtDone c 0x10 o [])) ∧
     (∀ c u, s.mgmtTake q.2.1 m = some (c, u) → u.mgmtBad c q.2.2 = none → isMgmt c.opc = false →
       exec q.1 s = .next (u.mgmtDone c 0x11 0 [])) ∧
     (∀ c u v, MgmtFormed s m q.2.1 q.2.2 c u → u.authorise c = (none, v) →
       exec q.1 s = .next (v.mgmtDone c 0x50 0 []) ∧ (v.rd R.secStat).testBit 0 = true) ∧
     (∀ c u v nd, MgmtFormed s m q.2.1 q.2.2 c u → u.authorise c = (some nd, v) →
       mgmtLegal q.2.1 (c.chan = 0) v.dev.st = false → exec q.1 s = .next (v.mgmtDone c 0x20 0 []))) ∧
  (∀ (s : State) (c : MCall),
     (∀ x, s.sec.session = some x → s.sessioned c = true →
       let good := c.sid = x.sid.toNat ∧ c.chan = x.chan ∧ c.seq = (x.seq + 1).toNat ∧
         c.mac = (hmac (bytes256 x.km) (c.head ++ c.args)).take 16
       (good → s.authorise c = (some [], { s with sec := { s.sec with
         session := some { x with seq := x.seq + 1 }
         lastCmd := s.ticks } })) ∧
       (¬good → ∃ t, s.authorise c = (none, t) ∧ t.sec = s.sec ∧ Flagged s t R.secStat 0 R.secAuthcnt 1)) ∧
     (s.sec.session = none → s.sessioned c = true → ∃ t, s.authorise c = (none, t) ∧ t.sec = s.sec) ∧
     (∀ (key : BitVec 256) (nc proof tail label : List Byte), s.refusing c.chan = true →
       ∃ t, s.checkProof c.chan (some key) label nc proof tail = (none, t) ∧ t.sec = s.sec ∧
         Flagged s t R.secStat 0 R.secAuthcnt 1) ∧
     (∀ (key : BitVec 256) (nc proof tail label : List Byte) (n : BitVec 256) (at_ : Nat), s.refusing c.chan = false →
       s.sec.nonce[c.chan] = some (n, at_) →
       let good := s.ticks - at_ ≤ 10 * 100000000 ∧
         proof = hmac (bytes256 key) (label ++ bytes256 n ++ nc ++ natLe 16 s.fuse.serial.toNat ++ tail)
       let f := s.sec.fails[c.chan] + 1
       (good → s.checkProof c.chan (some key) label nc proof tail = (some (bytes256 n), { s with sec := { s.sec with
         nonce := s.sec.nonce.set c.chan none
         fails := s.sec.fails.set c.chan 0
         refuse := s.sec.refuse.set c.chan none } })) ∧
       (¬good → ∃ t, s.checkProof c.chan (some key) label nc proof tail = (none, t) ∧ t.sec.nonce[c.chan] = none ∧
         t.sec.fails[c.chan] = f ∧ Flagged s t R.secStat 0 R.secAuthcnt 1 ∧
         (f < 5 → t.sec.refuse = s.sec.refuse) ∧
         (5 ≤ f → t.sec.refuse[c.chan] = some (s.ticks + min (60 * 2 ^ (f - 5)) 3600 * 100000000) ∧
           Flagged s t R.secStat 1 R.secLockcnt 1) ∧
         (f = 5 → Raised s t 0x6005 srcSd c.chan.val 60 0))))

/-- CLOSE_SESSION, RUN, HOLD, DRAIN, EXTEND and START (R425, R428, R431, R432, R434, R442): the session's commands
that move the device. HOLD waits for the commit; RUN enters the step or goes back to a drain, DRAIN drains; EXTEND
extends M7; the end of a session disables its rings and leaves STANDBY, but FAULT stays; START begins a start, cold
when P0 asks for it. SESSION_IDLE_TIMEOUT, PROOF_REFUSAL_EXPIRY and DYNAMIC_ADDRESS_ASSIGNMENT (R442, R444, R478): a
session unused for SEC_SESSCFG.IDLE minutes ends; a refusal ends at its time; the target takes its dynamic address. -/
def Obligations.SessionCommands : Prop :=
  (∀ (m : Mgmt) (s u : State) (c : MCall) (nd : List Byte),
     (MgmtRuns s m 0x95 0 c nd u → ∃ v t, exec (.closeSession m) s = .next t ∧ MgmtEnds u v c 0 [] ∧
       t.sec = { v.sec with session := none } ∧ t.dev.job = false ∧ t.priv.drbgOn = false ∧ t.priv.drbgKey = 0 ∧
       t.dev.st = (if u.dev.st = .fault then .fault else .standby) ∧
       ∀ p : Port, ((u.port p.val).st = .up → (t.port p.val).st = .pairing ∧ (t.port p.val).kdk = none) ∧
         ((u.port p.val).st = .retrain → (t.port p.val).st = .retrain ∧ (t.port p.val).kdk = none)) ∧
     (MgmtRuns s m 0x96 0 c nd u → ∃ t, exec (.run m) s = .next t ∧
       t.dev.st = (if u.dev.drainBack then .draining else .running) ∧ t.sec.session = u.sec.session ∧
       t.dev.heldReplay = false ∧ t.dev.drainBack = false) ∧
     (MgmtRuns s m 0x97 0 c nd u → ∃ t, exec (.hold m) s = .next t ∧
       MgmtEnds { u with dev := { u.dev with holdPending := true } } t c 0 []) ∧
     (MgmtRuns s m 0x98 0 c nd u → ∃ t, exec (.drain m) s = .next t ∧ t.dev.st = .draining ∧ t.dev.drained = false ∧
       (u.dev.st = .running → MgmtEnds { u with dev := { u.dev with
         st := .draining
         drained := false } } t c 0 [])) ∧
     (MgmtRuns s m 0x99 0 c nd u → ∃ t, exec (.extend m) s = .next t ∧
       MgmtEnds { u with sec := { u.sec with
         meas := u.sec.meas.set 7 (b256 (sha256 (bytes256 u.sec.meas[7] ++ sha256 c.args))) } } t c 0 []) ∧
     (∀ errs : Errs, MgmtRuns s m 0x9A 0 c nd u → ∃ t, exec (.start m errs) s = .next t ∧ t.dev.st = .dawn ∧ t.sec.session = none ∧
       t.sec.meas = Vector.replicate 8 0 ∧ t.pending = s.pending ∧
       t.dev.start = some ⟨c.p0 % 2 = 1 || bitsOf (u.rd R.secBoot) 4 1 = 1 || u.dev.powerLost || u.dev.faultCold, u.ticks⟩)) ∧
  (∀ s : State,
     (∀ x, s.sec.session = some x → s.dev.st = .ready ∨ s.dev.st = .held ∨ s.dev.st = .detached →
       let due := bitsOf (s.rd R.secSesscfg) 0 8 * 60 * 100000000 ≤ s.ticks - s.sec.lastCmd
       (due → ∃ t, exec .sessionIdleTimeout s = .next t ∧ t.sec.session = none ∧ t.dev.st = .standby ∧
         t.dev.job = false ∧ t.priv.drbgOn = false) ∧
       (¬due → exec .sessionIdleTimeout s = .next s)) ∧
     (∀ (ring : Bool) (t0 : Nat),
       let ch : Fin 2 := if ring then 1 else 0
       s.sec.refuse[ch] = some t0 →
       (t0 ≤ s.ticks → exec (.proofRefusalExpiry ring) s = .next { s with sec := { s.sec with
         refuse := s.sec.refuse.set ch none } }) ∧
       (s.ticks < t0 → exec (.proofRefusalExpiry ring) s = .next s)) ∧
     (∀ a, exec (.dynamicAddressAssignment a) s = .next { s with sec := { s.sec with i3cAddr := some a } }))

/-- GET_STATUS, GET_NONCE, GET_QUOTE and GET_CERTS (R429, R438, R439, R445): the response each returns, and that
nothing but a fresh nonce of the channel changes. The nonce, the signature and the certificate bytes are free values
(log 1). -/
def Obligations.StatusNonceQuote : Prop :=
  ∀ (m : Mgmt) (s u : State) (c : MCall) (nd : List Byte),
    (MgmtRuns s m 0x90 32 c nd u → ∃ t, exec (.getStatus m) s = .next t ∧ MgmtEnds u t c 0 u.statusResp ∧
      u.statusResp.length = 32 ∧ leNat (u.statusResp.take 4) = u.dev.st.code) ∧
    (MgmtRuns s m 0x91 64 c nd u → ∃ t n, exec (.getNonce m) s = .next t ∧
      MgmtEnds { u with
        free := u.free + 1
        sec := { u.sec with nonce := u.sec.nonce.set c.chan (some (n, u.ticks)) } } t c 0
        (bytes256 n ++ natLe 16 u.fuse.serial.toNat ++ natLe 16 u.sec.salt.toNat)) ∧
    (MgmtRuns s m 0x92 896 c nd u → ∃ t q, exec (.getQuote m) s = .next t ∧ q = u.quoteBody c.args ∧
      MgmtEnds u t c 0 (q ++ fit 384 (Config.sign u.sec.attKey (b256 (sha256 q)))) ∧
      q.take 4 = ascii "EXQ1" ∧ (q.drop 32).take 32 = fit 32 c.args ∧
      (q.drop 96).take 256 = u.sec.meas.toList.flatMap bytes256) ∧
    (MgmtRuns s m 0x93 4096 c nd u → ∃ t d, exec (.getCerts m) s = .next t ∧ MgmtEnds u t c 0 d ∧ d.length ≤ 4096)

/-- OPEN_SESSION (R440, R441, R443): a proof that passes, over a key that unwraps and a manifest that can be read,
opens the next session: the device is READY, M6 is extended by the manifest, the session's keys are derived, a sealed
one instantiates the DRBG, and without RESUME device memory reads zero. A key that does not unwrap fails
authentication and changes no session. -/
def Obligations.OpenSessionOpens : Prop :=
  ∀ (m : Mgmt) (s u : State) (c : MCall) (nd : List Byte), MgmtRuns s m 0x94 48 c nd u →
    let a := c.args
    let slot := leAt a 65 1
    let isSealed := leAt a 64 1 % 2 = 1
    let key := bytes256 ((u.slotKey slot).getD 0)
    let sid : BitVec 16 := if u.sec.lastSid = 0xFFFF then 1 else u.sec.lastSid + 1
    let ctx := nd ++ a.take 32 ++ natLe 2 sid.toNat
    let kw := kdf key (ascii "ETNX-SWRP") ctx
    (keyUnwrap kw ((a.drop 96).take 40) = none → ∃ t, exec (.openSession m) s = .next t ∧
      t.sec.session = u.sec.session ∧ t.dev.st = u.dev.st ∧ (t.rd R.secStat).testBit 0 = true) ∧
    (∀ lk man v, keyUnwrap kw ((a.drop 96).take 40) = some lk →
      u.memRead .steward 0 (leAt a 80 8) (leAt a 88 4) [] = ((0, man), v) →
      let resume := leAt a 64 1 / 2 % 2 = 1 ∧ v.sec.kept = true ∧ slot = v.sec.lastSlot ∧
        (isSealed ∨ v.sec.sealMem = false)
      ∃ t x, exec (.openSession m) s = .next t ∧ t.dev.st = .ready ∧ t.dev.job = true ∧ t.sec.session = some x ∧
        t.sec.lastSid = sid ∧ t.runGen = 0 ∧
        x.sid = sid ∧ x.chan = c.chan ∧ x.slot = slot ∧ (x.isSealed = true ↔ isSealed) ∧ x.seq = 0 ∧
        x.km = b256 (kdf key (ascii "ETNX-SMAC") ctx) ∧ x.kw = b256 kw ∧ x.kmin = leAt a 68 4 ∧
        t.sec.meas[6] = b256 (sha256 (bytes256 v.sec.meas[6] ++ sha256 man)) ∧
        (isSealed → t.priv.drbgOn = true ∧ t.sec.sealMem = true) ∧
        (¬resume → c.ring = none → ∀ b, b < bellBase → t.mem.byte b = 0) ∧
        (c.ring = none → ∃ r, t.sec.resp = some r ∧ r.data.take 3 = natLe 2 sid.toNat ++
          natLe 1 ((if resume then 1 else 0) + if isSealed then 2 else 0) ∧
          r.data.drop 16 = hmac key (ascii "ETNX-ACPT" ++ nd ++ a.take 32 ++ natLe 2 sid.toNat)))

/-- CLEAR_MAPREC, PROVISION_KEY, SET_PASSWORD, FW_WRITE and ADVANCE_SVN (R225, R431, R433, R439): each maintenance
command changes its one record: the map-out record is emptied, a slot takes or loses its key, the password and its
salt are replaced, image bytes reach the inactive bank, which FINAL prefers when it verifies, and the fused minimum
rises to the active image's version. -/
def Obligations.MaintenanceCommands : Prop :=
  ∀ (m : Mgmt) (s u : State) (c : MCall) (nd : List Byte),
    let slot := c.p0 % 256
    let rest := c.args.drop 64
    (MgmtRuns s m 0x9B 0 c nd u → ∃ t, exec (.clearMaprec m) s = .next t ∧
      MgmtEnds { u with hbm := { u.hbm with mapRec := [] } } t c 0 []) ∧
    (MgmtRuns s m 0x9C 0 c nd u →
      (rest.take 40 = natLe 40 0 → ∃ t, exec (.provisionKey m) s = .next t ∧
        MgmtEnds { u with sec := { u.sec with keys := SMap.del slot u.sec.keys } } t c 0 []) ∧
      (∀ k, rest.take 40 ≠ natLe 40 0 → keyUnwrap (u.maintWrap nd c) (rest.take 40) = some k →
        ∃ t, exec (.provisionKey m) s = .next t ∧
          MgmtEnds { u with sec := { u.sec with keys := SMap.put slot (b256 k) u.sec.keys } } t c 0 []) ∧
      (rest.take 40 ≠ natLe 40 0 → keyUnwrap (u.maintWrap nd c) (rest.take 40) = none →
        ∃ t, exec (.provisionKey m) s = .next t ∧ t.sec.keys = u.sec.keys ∧ (t.rd R.secStat).testBit 0 = true)) ∧
    (MgmtRuns s m 0x9D 0 c nd u →
      (∀ k, keyUnwrap (u.maintWrap nd c) ((rest.drop 16).take 40) = some k → ∃ t, exec (.setPassword m) s = .next t ∧
        MgmtEnds { u with sec := { u.sec with
          kpw := some (b256 k)
          salt := BitVec.ofNat 128 (leAt rest 0 16) } } t c 0 []) ∧
      (keyUnwrap (u.maintWrap nd c) ((rest.drop 16).take 40) = none → ∃ t, exec (.setPassword m) s = .next t ∧
        t.sec.kpw = u.sec.kpw ∧ t.sec.salt = u.sec.salt)) ∧
    (∀ ok, MgmtRuns s m 0x9E 0 c nd u →
      let b : Fin 2 := if u.sec.active = 0 then 1 else 0
      let bank := u.sec.bank.set b (u.sec.bank[b].write (c.p0 % 2 ^ 32) rest)
      let final := bitsOf c.p0 32 1 = 1
      (¬final → ∃ t, exec (.fwWrite m ok) s = .next t ∧
        MgmtEnds { u with sec := { u.sec with bank } } t c 0 []) ∧
      (final → ok = true → ∃ t, exec (.fwWrite m ok) s = .next t ∧ t.sec.bank = bank ∧
        bitsOf (t.rd R.secBoot) 3 1 = b.val) ∧
      (final → ok = false → ∃ t, exec (.fwWrite m ok) s = .next t ∧ MgmtEnds u t c 0x50 [])) ∧
    (MgmtRuns s m 0x9F 0 c nd u → ∃ t, exec (.advanceSvn m) s = .next t ∧
      t.fuse = { u.fuse with minSvn := BitVec.ofNat 16 (max u.fuse.minSvn.toNat u.sec.svn.toNat) } ∧
      bitsOf (t.rd R.secFw) 16 16 = max u.fuse.minSvn.toNat u.sec.svn.toNat)

/-- The test access port (R491 to R496): IDCODE, SAMPLE/PRELOAD and BYPASS act at any time; the instructions that
drive, release or test act while the compliance enable holds and no release classes are enforced, SCAN also only while
the debug fuses are open, RETREAD for a Dark cluster, and the next start is then cold; else the instruction, like any other
code, is refused and acts as BYPASS. When RESET_N rises the port returns to IDCODE and every pin to its function. Without VAUX no
instruction acts. -/
def Obligations.TestAccessPort : Prop :=
  ∀ s : State,
    let loaded : BitVec 8 → Tap := fun code => { s.tap with
      instr := code
      refused := false
      drives := false
      highz := false
      sel := none }
    let vaux := s.pins.rail[(0 : Fin 13)]
    let enabled := s.dev.inReset = true ∧ (∀ r : Fin 13, r ≠ 0 → s.pins.rail[r] = true) ∧ s.sec.sealMem = false
    let refused : Host.Outcome State Fault Refusal := .next { s with tap := { s.tap with
      instr := 0xFF
      refused := true
      drives := false
      highz := false
      sel := none } }
    let forces : Instr → Tap → Prop := fun i x => ∃ t, exec i s = .next t ∧ t = { s with tap := x, regs := t.regs } ∧
      SameRegs s t [R.secBoot] ∧ t.rd R.secBoot = setBits (s.rd R.secBoot) 4 1 1 % 2 ^ 64
    (vaux = true →
      exec .idcode s = .next { s with tap := { loaded 0x01 with data := 0xBE020A5B } } ∧
      (∀ p d, exec (.samplePreload p d) s = .next { s with tap := { loaded 0x02 with
        captured := p
        latched := d } }) ∧
      exec (.bypass 0xFF) s = .next { s with tap := loaded 0xFF } ∧
      (∀ o : BitVec 8, o ≠ 0xFF → exec (.bypass o) s = refused) ∧
      (enabled →
        (∀ p, ∀ q ∈ [(Instr.extest p, 0x03#8), (.extestPulse p, 0x04#8), (.extestTrain p, 0x05#8)],
          forces q.1 { loaded q.2 with
            captured := p
            drives := true }) ∧
        forces .clamp { loaded 0x06 with drives := true } ∧
        forces .highz { loaded 0x07 with highz := true } ∧
        (∀ d f r, ∃ x, forces (.mbist d f r) x ∧ d ∈ x.wiped ∧ x.data.toNat = f.toNat + r.toNat * 2 ^ 16 ∧
          x = { loaded 0x20 with
            data := x.data
            wiped := x.wiped }) ∧
        (s.fuse.debugOpen = true → forces .scan (loaded 0x22)) ∧
        (s.fuse.debugOpen = false → exec .scan s = refused) ∧
        (∀ w : BitVec 16, s.tap.sel = none →
          (bitsOf w.toNat 0 7 < 96 → (s.clus (bitsOf w.toNat 0 7)).region = .dark → bitsOf w.toNat 8 2 < 3 →
            exec (.retread w) s = .next { s with tap := { loaded 0x21 with
              sel := some w
              pos := 0 } }) ∧
          ((s.clus (bitsOf w.toNat 0 7)).region ≠ .dark → exec (.retread w) s = refused)) ∧
        (∀ w v : BitVec 16, s.tap.sel = some w → (s.clus (bitsOf w.toNat 0 7)).region = .dark →
          bitsOf w.toNat 0 7 < 96 → bitsOf w.toNat 8 2 = 1 → s.tap.pos < 786432 →
          ¬ Fin.ofNat 5 (dieOf (bitsOf w.toNat 0 7)) ∈ s.tap.wiped →
          ∃ x, exec (.retread v) s = .next { s with tap := { loaded 0x21 with
              sel := some w
              pos := s.tap.pos + 1
              data := x } } ∧
            x.toNat = leNat ((s.clus (bitsOf w.toNat 0 7)).buf.bytes (8 * s.tap.pos) 8))) ∧
      (¬enabled → ∀ p d f r w, ∀ i ∈ [Instr.extest p, .extestPulse p, .extestTrain p, .clamp, .highz, .mbist d f r, .scan,
        .retread w], exec i s = refused)) ∧
    (s.dev.inReset = true → ∃ t, exec .resetNRise s = .next t ∧ t.tap.instr = 0x01 ∧ t.tap.drives = false ∧
      t.tap.highz = false ∧ (bitsOf (s.rd R.secBoot) 4 1 = 1 → s.coreUp = true → s.dev.st = .dawn →
        s.dev.start.isSome = true ∨ s.pins.bad = false → t.dev.start = some ⟨true, s.ticks⟩)) ∧
    (vaux = false → ∀ p d f r w c o, ∀ i ∈ [Instr.idcode, .samplePreload p c, .bypass o, .extest p,
      .extestPulse p, .extestTrain p, .clamp, .highz, .mbist d f r, .scan, .retread w], exec i s = .next s)

/-- Memory keeps its canonical form: whatever command is in front, and in every state, a step that goes on leaves the
memory listed with strictly rising addresses and without a zero byte when it found it so. The form is the model's own
(log 5). -/
def Obligations.StepKeepsMemoryForm : Prop :=
  ∀ s t : State, s.mem.wf = true → step s = .next t → t.mem.wf = true

/-- What no command touches: the queue of waiting commands and the reference ticks; and the fuses, of which
ADVANCE_SVN alone raises the minimum security version (R433), which no step lowers. -/
def Obligations.CommandsKeepQueueAndFuses : Prop :=
  ∀ (i : Instr) (s t : State), exec i s = .next t →
    t.pending = s.pending ∧ t.ticks = s.ticks ∧
    ((∀ m, i ≠ .advanceSvn m) → t.fuse = s.fuse) ∧
    t.fuse = { s.fuse with minSvn := t.fuse.minSvn } ∧ s.fuse.minSvn.toNat ≤ t.fuse.minSvn.toNat
end

