-- ==== Sys2Proof/Laws/State.lean ====
section
/-!
SUPPORT. What the named updates of the state leave unchanged, one lemma for each field, and what the sparse tables, the
register file and the clusters read after a write.
-/

namespace Sys2Proof.Machine

/-! ### Sparse tables -/

theorem SMap.find_put {α : Type} (k j : Nat) (v : α) (m : SMap α) :
    SMap.find j (SMap.put k v m) = if k = j then some v else SMap.find j m := by
  induction m with
  | nil => simp [SMap.put, SMap.find]
  | cons p t ih =>
    obtain ⟨x, w⟩ := p
    simp only [SMap.put]
    split
    · simp [SMap.find]
    · split
      · rename_i h; subst h
        by_cases h' : k = j <;> simp [SMap.find, h']
      · by_cases h' : x = j
        · subst h'
          have : ¬ k = x := by omega
          simp [SMap.find, this]
        · simp [SMap.find, h', ih]

theorem SMap.val_put {α : Type} (d : α) (k j : Nat) (v : α) (m : SMap α) :
    SMap.val d (SMap.put k v m) j = if k = j then v else SMap.val d m j := by
  simp only [SMap.val, SMap.find_put]; split <;> rfl

@[simp] theorem SMap.val_put_same {α : Type} (d : α) (k : Nat) (v : α) (m : SMap α) :
    SMap.val d (SMap.put k v m) k = v := by simp [SMap.val_put]

theorem SMap.val_put_ne {α : Type} (d : α) {k j : Nat} (v : α) (m : SMap α) (h : j ≠ k) :
    SMap.val d (SMap.put k v m) j = SMap.val d m j := by simp [SMap.val_put, Ne.symm h]

theorem SMap.find_del {α : Type} (k j : Nat) (m : SMap α) :
    SMap.find j (SMap.del k m) = if j = k then none else SMap.find j m := by
  induction m with
  | nil => simp [SMap.del, SMap.find]
  | cons p t ih =>
    obtain ⟨x, w⟩ := p
    simp only [SMap.del] at ih ⊢
    by_cases h : x = k
    · subst h
      by_cases h' : j = x
      · subst h'; simpa using ih
      · have : ¬ x = j := fun e => h' e.symm
        simpa [SMap.find, h', this] using ih
    · by_cases h' : x = j
      · subst h'; simp [SMap.find, h]
      · simpa [SMap.find, h, h'] using ih

/-- Values changed in place, key by key. -/
theorem SMap.find_map {α β : Type} (f : α → β) (m : SMap α) (k : Nat) :
    SMap.find k (m.map fun (p : Nat × α) => (p.1, f p.2)) = (SMap.find k m).map f := by
  induction m with
  | nil => rfl
  | cons p t ih =>
    obtain ⟨x, w⟩ := p
    simp only [List.map_cons, SMap.find]
    split
    · rfl
    · exact ih

theorem SMap.val_map {α : Type} (d : α) (f : α → α) (hd : f d = d) (m : SMap α) (k : Nat) :
    SMap.val d (m.map fun (p : Nat × α) => (p.1, f p.2)) k = f (SMap.val d m k) := by
  simp only [SMap.val, SMap.find_map]
  cases SMap.find k m <;> simp [hd]

/-! ### Clusters, objects and the register file after a write -/

@[simp] theorem State.clus_setClus_same (s : State) (c : Nat) (x : Cl) : (s.setClus c x).clus c = x := by
  simp [State.clus, State.setClus]
theorem State.clus_setClus_ne (s : State) {c d : Nat} (x : Cl) (h : d ≠ c) : (s.setClus c x).clus d = s.clus d := by
  simp [State.clus, State.setClus, SMap.val_put_ne _ _ _ h]
@[simp] theorem State.clus_onClus_same (s : State) (c : Nat) (f : Cl → Cl) : (s.onClus c f).clus c = f (s.clus c) := by
  simp [State.onClus]
theorem State.clus_onClus_ne (s : State) {c d : Nat} (f : Cl → Cl) (h : d ≠ c) : (s.onClus c f).clus d = s.clus d :=
  s.clus_setClus_ne _ h
@[simp] theorem Cl.veAt_setVe_same (x : Cl) (v : Nat) (y : VeSt) : (x.setVe v y).veAt v = y := by
  simp [Cl.veAt, Cl.setVe]
theorem Cl.veAt_setVe_ne (x : Cl) {v u : Nat} (y : VeSt) (h : u ≠ v) : (x.setVe v y).veAt u = x.veAt u := by
  simp [Cl.veAt, Cl.setVe, SMap.val_put_ne _ _ _ h]
@[simp] theorem Cl.tileAt_setTile_same (x : Cl) (t : Nat) (y : TileSt) : (x.setTile t y).tileAt t = y := by
  simp [Cl.tileAt, Cl.setTile]
theorem Cl.tileAt_setTile_ne (x : Cl) {t u : Nat} (y : TileSt) (h : u ≠ t) : (x.setTile t y).tileAt u = x.tileAt u := by
  simp [Cl.tileAt, Cl.setTile, SMap.val_put_ne _ _ _ h]
@[simp] theorem State.obj_setObj_same (s : State) (o : Nat) (x : SyncObj) : (s.setObj o x).obj o = x := by
  simp [State.obj, State.setObj]
theorem State.obj_setObj_ne (s : State) {o p : Nat} (x : SyncObj) (h : p ≠ o) : (s.setObj o x).obj p = s.obj p := by
  simp [State.obj, State.setObj, SMap.val_put_ne _ _ _ h]

theorem State.rd_wr (s : State) (a b v : Nat) : (s.wr a v).rd b = if a = b then v % 2 ^ 64 else s.rd b := by
  simp only [State.rd, State.wr, SMap.find_put]
  by_cases h : a = b
  · simp [h, BitVec.toNat_ofNat]
  · simp [h]
@[simp] theorem State.rd_wr_same (s : State) (a v : Nat) : (s.wr a v).rd a = v % 2 ^ 64 := by simp [State.rd_wr]
theorem State.rd_wr_ne (s : State) {a b : Nat} (v : Nat) (h : b ≠ a) : (s.wr a v).rd b = s.rd b := by
  simp [State.rd_wr, Ne.symm h]
/-- A W1C flag with its counter leaves every other register. -/
theorem State.rd_flag_ne (s : State) {st cnt a : Nat} (bit n : Nat) (h1 : a ≠ st) (h2 : a ≠ cnt) :
    (s.flag st bit cnt n).rd a = s.rd a := by
  unfold State.flag
  split
  · rfl
  · simp only [State.count, State.wf]; rw [State.rd_wr_ne _ _ h2, State.rd_wr_ne _ _ h1]
/-- The companion counter saturates (R20). -/
theorem State.rd_flag_count (s : State) {st cnt : Nat} (bit n : Nat) (hn : n ≠ 0) (h : cnt ≠ st) :
    (s.flag st bit cnt n).rd cnt = min (s.rd cnt + n) 0xFFFFFFFF := by
  unfold State.flag
  rw [if_neg hn]
  simp only [State.count, State.wf, State.rd_wr_same]
  rw [State.rd_wr_ne _ _ h]
  omega

/-! ### Fields that the named updates leave -/

@[simp] theorem State.setClus_pending (s : State) (c : Nat) (x : Cl) : (s.setClus c x).pending = s.pending := rfl
@[simp] theorem State.setClus_ticks (s : State) (c : Nat) (x : Cl) : (s.setClus c x).ticks = s.ticks := rfl
@[simp] theorem State.setClus_free (s : State) (c : Nat) (x : Cl) : (s.setClus c x).free = s.free := rfl
@[simp] theorem State.setClus_fuse (s : State) (c : Nat) (x : Cl) : (s.setClus c x).fuse = s.fuse := rfl
@[simp] theorem State.setClus_dev (s : State) (c : Nat) (x : Cl) : (s.setClus c x).dev = s.dev := rfl
@[simp] theorem State.setClus_time (s : State) (c : Nat) (x : Cl) : (s.setClus c x).time = s.time := rfl
@[simp] theorem State.setClus_regs (s : State) (c : Nat) (x : Cl) : (s.setClus c x).regs = s.regs := rfl
@[simp] theorem State.setClus_cfg (s : State) (c : Nat) (x : Cl) : (s.setClus c x).cfg = s.cfg := rfl
@[simp] theorem State.setClus_evt (s : State) (c : Nat) (x : Cl) : (s.setClus c x).evt = s.evt := rfl
@[simp] theorem State.setClus_mem (s : State) (c : Nat) (x : Cl) : (s.setClus c x).mem = s.mem := rfl
@[simp] theorem State.setClus_cls (s : State) (c : Nat) (x : Cl) : (s.setClus c x).cls = s.cls := rfl
@[simp] theorem State.setClus_hbm (s : State) (c : Nat) (x : Cl) : (s.setClus c x).hbm = s.hbm := rfl
@[simp] theorem State.setClus_shc (s : State) (c : Nat) (x : Cl) : (s.setClus c x).shc = s.shc := rfl
@[simp] theorem State.setClus_cb (s : State) (c : Nat) (x : Cl) : (s.setClus c x).cb = s.cb := rfl
@[simp] theorem State.setClus_cbLoads (s : State) (c : Nat) (x : Cl) : (s.setClus c x).cbLoads = s.cbLoads := rfl
@[simp] theorem State.setClus_stat (s : State) (c : Nat) (x : Cl) : (s.setClus c x).stat = s.stat := rfl
@[simp] theorem State.setClus_runGen (s : State) (c : Nat) (x : Cl) : (s.setClus c x).runGen = s.runGen := rfl
@[simp] theorem State.setClus_sync (s : State) (c : Nat) (x : Cl) : (s.setClus c x).sync = s.sync := rfl
@[simp] theorem State.setClus_resTab (s : State) (c : Nat) (x : Cl) : (s.setClus c x).resTab = s.resTab := rfl
@[simp] theorem State.setClus_resSuspended (s : State) (c : Nat) (x : Cl) : (s.setClus c x).resSuspended = s.resSuspended := rfl
@[simp] theorem State.setClus_buckets (s : State) (c : Nat) (x : Cl) : (s.setClus c x).buckets = s.buckets := rfl
@[simp] theorem State.setClus_phtab (s : State) (c : Nat) (x : Cl) : (s.setClus c x).phtab = s.phtab := rfl
@[simp] theorem State.setClus_learn (s : State) (c : Nat) (x : Cl) : (s.setClus c x).learn = s.learn := rfl
@[simp] theorem State.setClus_order (s : State) (c : Nat) (x : Cl) : (s.setClus c x).order = s.order := rfl
@[simp] theorem State.setClus_pw (s : State) (c : Nat) (x : Cl) : (s.setClus c x).pw = s.pw := rfl
@[simp] theorem State.setClus_thm (s : State) (c : Nat) (x : Cl) : (s.setClus c x).thm = s.thm := rfl
@[simp] theorem State.setClus_pins (s : State) (c : Nat) (x : Cl) : (s.setClus c x).pins = s.pins := rfl
@[simp] theorem State.setClus_tap (s : State) (c : Nat) (x : Cl) : (s.setClus c x).tap = s.tap := rfl
@[simp] theorem State.setClus_lnk (s : State) (c : Nat) (x : Cl) : (s.setClus c x).lnk = s.lnk := rfl
@[simp] theorem State.setClus_stw (s : State) (c : Nat) (x : Cl) : (s.setClus c x).stw = s.stw := rfl
@[simp] theorem State.setClus_priv (s : State) (c : Nat) (x : Cl) : (s.setClus c x).priv = s.priv := rfl
@[simp] theorem State.setClus_sec (s : State) (c : Nat) (x : Cl) : (s.setClus c x).sec = s.sec := rfl
@[simp] theorem State.setClus_answer (s : State) (c : Nat) (x : Cl) : (s.setClus c x).answer = s.answer := rfl

@[simp] theorem State.onClus_pending (s : State) (c : Nat) (f : Cl → Cl) : (s.onClus c f).pending = s.pending := rfl
@[simp] theorem State.onClus_ticks (s : State) (c : Nat) (f : Cl → Cl) : (s.onClus c f).ticks = s.ticks := rfl
@[simp] theorem State.onClus_free (s : State) (c : Nat) (f : Cl → Cl) : (s.onClus c f).free = s.free := rfl
@[simp] theorem State.onClus_fuse (s : State) (c : Nat) (f : Cl → Cl) : (s.onClus c f).fuse = s.fuse := rfl
@[simp] theorem State.onClus_dev (s : State) (c : Nat) (f : Cl → Cl) : (s.onClus c f).dev = s.dev := rfl
@[simp] theorem State.onClus_time (s : State) (c : Nat) (f : Cl → Cl) : (s.onClus c f).time = s.time := rfl
@[simp] theorem State.onClus_regs (s : State) (c : Nat) (f : Cl → Cl) : (s.onClus c f).regs = s.regs := rfl
@[simp] theorem State.onClus_cfg (s : State) (c : Nat) (f : Cl → Cl) : (s.onClus c f).cfg = s.cfg := rfl
@[simp] theorem State.onClus_evt (s : State) (c : Nat) (f : Cl → Cl) : (s.onClus c f).evt = s.evt := rfl
@[simp] theorem State.onClus_mem (s : State) (c : Nat) (f : Cl → Cl) : (s.onClus c f).mem = s.mem := rfl
@[simp] theorem State.onClus_cls (s : State) (c : Nat) (f : Cl → Cl) : (s.onClus c f).cls = s.cls := rfl
@[simp] theorem State.onClus_hbm (s : State) (c : Nat) (f : Cl → Cl) : (s.onClus c f).hbm = s.hbm := rfl
@[simp] theorem State.onClus_shc (s : State) (c : Nat) (f : Cl → Cl) : (s.onClus c f).shc = s.shc := rfl
@[simp] theorem State.onClus_cb (s : State) (c : Nat) (f : Cl → Cl) : (s.onClus c f).cb = s.cb := rfl
@[simp] theorem State.onClus_cbLoads (s : State) (c : Nat) (f : Cl → Cl) : (s.onClus c f).cbLoads = s.cbLoads := rfl
@[simp] theorem State.onClus_stat (s : State) (c : Nat) (f : Cl → Cl) : (s.onClus c f).stat = s.stat := rfl
@[simp] theorem State.onClus_runGen (s : State) (c : Nat) (f : Cl → Cl) : (s.onClus c f).runGen = s.runGen := rfl
@[simp] theorem State.onClus_sync (s : State) (c : Nat) (f : Cl → Cl) : (s.onClus c f).sync = s.sync := rfl
@[simp] theorem State.onClus_resTab (s : State) (c : Nat) (f : Cl → Cl) : (s.onClus c f).resTab = s.resTab := rfl
@[simp] theorem State.onClus_resSuspended (s : State) (c : Nat) (f : Cl → Cl) : (s.onClus c f).resSuspended = s.resSuspended := rfl
@[simp] theorem State.onClus_buckets (s : State) (c : Nat) (f : Cl → Cl) : (s.onClus c f).buckets = s.buckets := rfl
@[simp] theorem State.onClus_phtab (s : State) (c : Nat) (f : Cl → Cl) : (s.onClus c f).phtab = s.phtab := rfl
@[simp] theorem State.onClus_learn (s : State) (c : Nat) (f : Cl → Cl) : (s.onClus c f).learn = s.learn := rfl
@[simp] theorem State.onClus_order (s : State) (c : Nat) (f : Cl → Cl) : (s.onClus c f).order = s.order := rfl
@[simp] theorem State.onClus_pw (s : State) (c : Nat) (f : Cl → Cl) : (s.onClus c f).pw = s.pw := rfl
@[simp] theorem State.onClus_thm (s : State) (c : Nat) (f : Cl → Cl) : (s.onClus c f).thm = s.thm := rfl
@[simp] theorem State.onClus_pins (s : State) (c : Nat) (f : Cl → Cl) : (s.onClus c f).pins = s.pins := rfl
@[simp] theorem State.onClus_tap (s : State) (c : Nat) (f : Cl → Cl) : (s.onClus c f).tap = s.tap := rfl
@[simp] theorem State.onClus_lnk (s : State) (c : Nat) (f : Cl → Cl) : (s.onClus c f).lnk = s.lnk := rfl
@[simp] theorem State.onClus_stw (s : State) (c : Nat) (f : Cl → Cl) : (s.onClus c f).stw = s.stw := rfl
@[simp] theorem State.onClus_priv (s : State) (c : Nat) (f : Cl → Cl) : (s.onClus c f).priv = s.priv := rfl
@[simp] theorem State.onClus_sec (s : State) (c : Nat) (f : Cl → Cl) : (s.onClus c f).sec = s.sec := rfl
@[simp] theorem State.onClus_answer (s : State) (c : Nat) (f : Cl → Cl) : (s.onClus c f).answer = s.answer := rfl

@[simp] theorem State.onTile_pending (s : State) (c t : Nat) (f : TileSt → TileSt) : (s.onTile c t f).pending = s.pending := rfl
@[simp] theorem State.onTile_ticks (s : State) (c t : Nat) (f : TileSt → TileSt) : (s.onTile c t f).ticks = s.ticks := rfl
@[simp] theorem State.onTile_free (s : State) (c t : Nat) (f : TileSt → TileSt) : (s.onTile c t f).free = s.free := rfl
@[simp] theorem State.onTile_fuse (s : State) (c t : Nat) (f : TileSt → TileSt) : (s.onTile c t f).fuse = s.fuse := rfl
@[simp] theorem State.onTile_dev (s : State) (c t : Nat) (f : TileSt → TileSt) : (s.onTile c t f).dev = s.dev := rfl
@[simp] theorem State.onTile_time (s : State) (c t : Nat) (f : TileSt → TileSt) : (s.onTile c t f).time = s.time := rfl
@[simp] theorem State.onTile_regs (s : State) (c t : Nat) (f : TileSt → TileSt) : (s.onTile c t f).regs = s.regs := rfl
@[simp] theorem State.onTile_cfg (s : State) (c t : Nat) (f : TileSt → TileSt) : (s.onTile c t f).cfg = s.cfg := rfl
@[simp] theorem State.onTile_evt (s : State) (c t : Nat) (f : TileSt → TileSt) : (s.onTile c t f).evt = s.evt := rfl
@[simp] theorem State.onTile_mem (s : State) (c t : Nat) (f : TileSt → TileSt) : (s.onTile c t f).mem = s.mem := rfl
@[simp] theorem State.onTile_cls (s : State) (c t : Nat) (f : TileSt → TileSt) : (s.onTile c t f).cls = s.cls := rfl
@[simp] theorem State.onTile_hbm (s : State) (c t : Nat) (f : TileSt → TileSt) : (s.onTile c t f).hbm = s.hbm := rfl
@[simp] theorem State.onTile_shc (s : State) (c t : Nat) (f : TileSt → TileSt) : (s.onTile c t f).shc = s.shc := rfl
@[simp] theorem State.onTile_cb (s : State) (c t : Nat) (f : TileSt → TileSt) : (s.onTile c t f).cb = s.cb := rfl
@[simp] theorem State.onTile_cbLoads (s : State) (c t : Nat) (f : TileSt → TileSt) : (s.onTile c t f).cbLoads = s.cbLoads := rfl
@[simp] theorem State.onTile_stat (s : State) (c t : Nat) (f : TileSt → TileSt) : (s.onTile c t f).stat = s.stat := rfl
@[simp] theorem State.onTile_runGen (s : State) (c t : Nat) (f : TileSt → TileSt) : (s.onTile c t f).runGen = s.runGen := rfl
@[simp] theorem State.onTile_sync (s : State) (c t : Nat) (f : TileSt → TileSt) : (s.onTile c t f).sync = s.sync := rfl
@[simp] theorem State.onTile_resTab (s : State) (c t : Nat) (f : TileSt → TileSt) : (s.onTile c t f).resTab = s.resTab := rfl
@[simp] theorem State.onTile_resSuspended (s : State) (c t : Nat) (f : TileSt → TileSt) : (s.onTile c t f).resSuspended = s.resSuspended := rfl
@[simp] theorem State.onTile_buckets (s : State) (c t : Nat) (f : TileSt → TileSt) : (s.onTile c t f).buckets = s.buckets := rfl
@[simp] theorem State.onTile_phtab (s : State) (c t : Nat) (f : TileSt → TileSt) : (s.onTile c t f).phtab = s.phtab := rfl
@[simp] theorem State.onTile_learn (s : State) (c t : Nat) (f : TileSt → TileSt) : (s.onTile c t f).learn = s.learn := rfl
@[simp] theorem State.onTile_order (s : State) (c t : Nat) (f : TileSt → TileSt) : (s.onTile c t f).order = s.order := rfl
@[simp] theorem State.onTile_pw (s : State) (c t : Nat) (f : TileSt → TileSt) : (s.onTile c t f).pw = s.pw := rfl
@[simp] theorem State.onTile_thm (s : State) (c t : Nat) (f : TileSt → TileSt) : (s.onTile c t f).thm = s.thm := rfl
@[simp] theorem State.onTile_pins (s : State) (c t : Nat) (f : TileSt → TileSt) : (s.onTile c t f).pins = s.pins := rfl
@[simp] theorem State.onTile_tap (s : State) (c t : Nat) (f : TileSt → TileSt) : (s.onTile c t f).tap = s.tap := rfl
@[simp] theorem State.onTile_lnk (s : State) (c t : Nat) (f : TileSt → TileSt) : (s.onTile c t f).lnk = s.lnk := rfl
@[simp] theorem State.onTile_stw (s : State) (c t : Nat) (f : TileSt → TileSt) : (s.onTile c t f).stw = s.stw := rfl
@[simp] theorem State.onTile_priv (s : State) (c t : Nat) (f : TileSt → TileSt) : (s.onTile c t f).priv = s.priv := rfl
@[simp] theorem State.onTile_sec (s : State) (c t : Nat) (f : TileSt → TileSt) : (s.onTile c t f).sec = s.sec := rfl
@[simp] theorem State.onTile_answer (s : State) (c t : Nat) (f : TileSt → TileSt) : (s.onTile c t f).answer = s.answer := rfl

@[simp] theorem State.onVe_pending (s : State) (c v : Nat) (f : VeSt → VeSt) : (s.onVe c v f).pending = s.pending := rfl
@[simp] theorem State.onVe_ticks (s : State) (c v : Nat) (f : VeSt → VeSt) : (s.onVe c v f).ticks = s.ticks := rfl
@[simp] theorem State.onVe_free (s : State) (c v : Nat) (f : VeSt → VeSt) : (s.onVe c v f).free = s.free := rfl
@[simp] theorem State.onVe_fuse (s : State) (c v : Nat) (f : VeSt → VeSt) : (s.onVe c v f).fuse = s.fuse := rfl
@[simp] theorem State.onVe_dev (s : State) (c v : Nat) (f : VeSt → VeSt) : (s.onVe c v f).dev = s.dev := rfl
@[simp] theorem State.onVe_time (s : State) (c v : Nat) (f : VeSt → VeSt) : (s.onVe c v f).time = s.time := rfl
@[simp] theorem State.onVe_regs (s : State) (c v : Nat) (f : VeSt → VeSt) : (s.onVe c v f).regs = s.regs := rfl
@[simp] theorem State.onVe_cfg (s : State) (c v : Nat) (f : VeSt → VeSt) : (s.onVe c v f).cfg = s.cfg := rfl
@[simp] theorem State.onVe_evt (s : State) (c v : Nat) (f : VeSt → VeSt) : (s.onVe c v f).evt = s.evt := rfl
@[simp] theorem State.onVe_mem (s : State) (c v : Nat) (f : VeSt → VeSt) : (s.onVe c v f).mem = s.mem := rfl
@[simp] theorem State.onVe_cls (s : State) (c v : Nat) (f : VeSt → VeSt) : (s.onVe c v f).cls = s.cls := rfl
@[simp] theorem State.onVe_hbm (s : State) (c v : Nat) (f : VeSt → VeSt) : (s.onVe c v f).hbm = s.hbm := rfl
@[simp] theorem State.onVe_shc (s : State) (c v : Nat) (f : VeSt → VeSt) : (s.onVe c v f).shc = s.shc := rfl
@[simp] theorem State.onVe_cb (s : State) (c v : Nat) (f : VeSt → VeSt) : (s.onVe c v f).cb = s.cb := rfl
@[simp] theorem State.onVe_cbLoads (s : State) (c v : Nat) (f : VeSt → VeSt) : (s.onVe c v f).cbLoads = s.cbLoads := rfl
@[simp] theorem State.onVe_stat (s : State) (c v : Nat) (f : VeSt → VeSt) : (s.onVe c v f).stat = s.stat := rfl
@[simp] theorem State.onVe_runGen (s : State) (c v : Nat) (f : VeSt → VeSt) : (s.onVe c v f).runGen = s.runGen := rfl
@[simp] theorem State.onVe_sync (s : State) (c v : Nat) (f : VeSt → VeSt) : (s.onVe c v f).sync = s.sync := rfl
@[simp] theorem State.onVe_resTab (s : State) (c v : Nat) (f : VeSt → VeSt) : (s.onVe c v f).resTab = s.resTab := rfl
@[simp] theorem State.onVe_resSuspended (s : State) (c v : Nat) (f : VeSt → VeSt) : (s.onVe c v f).resSuspended = s.resSuspended := rfl
@[simp] theorem State.onVe_buckets (s : State) (c v : Nat) (f : VeSt → VeSt) : (s.onVe c v f).buckets = s.buckets := rfl
@[simp] theorem State.onVe_phtab (s : State) (c v : Nat) (f : VeSt → VeSt) : (s.onVe c v f).phtab = s.phtab := rfl
@[simp] theorem State.onVe_learn (s : State) (c v : Nat) (f : VeSt → VeSt) : (s.onVe c v f).learn = s.learn := rfl
@[simp] theorem State.onVe_order (s : State) (c v : Nat) (f : VeSt → VeSt) : (s.onVe c v f).order = s.order := rfl
@[simp] theorem State.onVe_pw (s : State) (c v : Nat) (f : VeSt → VeSt) : (s.onVe c v f).pw = s.pw := rfl
@[simp] theorem State.onVe_thm (s : State) (c v : Nat) (f : VeSt → VeSt) : (s.onVe c v f).thm = s.thm := rfl
@[simp] theorem State.onVe_pins (s : State) (c v : Nat) (f : VeSt → VeSt) : (s.onVe c v f).pins = s.pins := rfl
@[simp] theorem State.onVe_tap (s : State) (c v : Nat) (f : VeSt → VeSt) : (s.onVe c v f).tap = s.tap := rfl
@[simp] theorem State.onVe_lnk (s : State) (c v : Nat) (f : VeSt → VeSt) : (s.onVe c v f).lnk = s.lnk := rfl
@[simp] theorem State.onVe_stw (s : State) (c v : Nat) (f : VeSt → VeSt) : (s.onVe c v f).stw = s.stw := rfl
@[simp] theorem State.onVe_priv (s : State) (c v : Nat) (f : VeSt → VeSt) : (s.onVe c v f).priv = s.priv := rfl
@[simp] theorem State.onVe_sec (s : State) (c v : Nat) (f : VeSt → VeSt) : (s.onVe c v f).sec = s.sec := rfl
@[simp] theorem State.onVe_answer (s : State) (c v : Nat) (f : VeSt → VeSt) : (s.onVe c v f).answer = s.answer := rfl

@[simp] theorem State.onJob_pending (s : State) (c n : Nat) (f : Job → Job) : (s.onJob c n f).pending = s.pending := rfl
@[simp] theorem State.onJob_ticks (s : State) (c n : Nat) (f : Job → Job) : (s.onJob c n f).ticks = s.ticks := rfl
@[simp] theorem State.onJob_free (s : State) (c n : Nat) (f : Job → Job) : (s.onJob c n f).free = s.free := rfl
@[simp] theorem State.onJob_fuse (s : State) (c n : Nat) (f : Job → Job) : (s.onJob c n f).fuse = s.fuse := rfl
@[simp] theorem State.onJob_dev (s : State) (c n : Nat) (f : Job → Job) : (s.onJob c n f).dev = s.dev := rfl
@[simp] theorem State.onJob_time (s : State) (c n : Nat) (f : Job → Job) : (s.onJob c n f).time = s.time := rfl
@[simp] theorem State.onJob_regs (s : State) (c n : Nat) (f : Job → Job) : (s.onJob c n f).regs = s.regs := rfl
@[simp] theorem State.onJob_cfg (s : State) (c n : Nat) (f : Job → Job) : (s.onJob c n f).cfg = s.cfg := rfl
@[simp] theorem State.onJob_evt (s : State) (c n : Nat) (f : Job → Job) : (s.onJob c n f).evt = s.evt := rfl
@[simp] theorem State.onJob_mem (s : State) (c n : Nat) (f : Job → Job) : (s.onJob c n f).mem = s.mem := rfl
@[simp] theorem State.onJob_cls (s : State) (c n : Nat) (f : Job → Job) : (s.onJob c n f).cls = s.cls := rfl
@[simp] theorem State.onJob_hbm (s : State) (c n : Nat) (f : Job → Job) : (s.onJob c n f).hbm = s.hbm := rfl
@[simp] theorem State.onJob_shc (s : State) (c n : Nat) (f : Job → Job) : (s.onJob c n f).shc = s.shc := rfl
@[simp] theorem State.onJob_cb (s : State) (c n : Nat) (f : Job → Job) : (s.onJob c n f).cb = s.cb := rfl
@[simp] theorem State.onJob_cbLoads (s : State) (c n : Nat) (f : Job → Job) : (s.onJob c n f).cbLoads = s.cbLoads := rfl
@[simp] theorem State.onJob_stat (s : State) (c n : Nat) (f : Job → Job) : (s.onJob c n f).stat = s.stat := rfl
@[simp] theorem State.onJob_runGen (s : State) (c n : Nat) (f : Job → Job) : (s.onJob c n f).runGen = s.runGen := rfl
@[simp] theorem State.onJob_sync (s : State) (c n : Nat) (f : Job → Job) : (s.onJob c n f).sync = s.sync := rfl
@[simp] theorem State.onJob_resTab (s : State) (c n : Nat) (f : Job → Job) : (s.onJob c n f).resTab = s.resTab := rfl
@[simp] theorem State.onJob_resSuspended (s : State) (c n : Nat) (f : Job → Job) : (s.onJob c n f).resSuspended = s.resSuspended := rfl
@[simp] theorem State.onJob_buckets (s : State) (c n : Nat) (f : Job → Job) : (s.onJob c n f).buckets = s.buckets := rfl
@[simp] theorem State.onJob_phtab (s : State) (c n : Nat) (f : Job → Job) : (s.onJob c n f).phtab = s.phtab := rfl
@[simp] theorem State.onJob_learn (s : State) (c n : Nat) (f : Job → Job) : (s.onJob c n f).learn = s.learn := rfl
@[simp] theorem State.onJob_order (s : State) (c n : Nat) (f : Job → Job) : (s.onJob c n f).order = s.order := rfl
@[simp] theorem State.onJob_pw (s : State) (c n : Nat) (f : Job → Job) : (s.onJob c n f).pw = s.pw := rfl
@[simp] theorem State.onJob_thm (s : State) (c n : Nat) (f : Job → Job) : (s.onJob c n f).thm = s.thm := rfl
@[simp] theorem State.onJob_pins (s : State) (c n : Nat) (f : Job → Job) : (s.onJob c n f).pins = s.pins := rfl
@[simp] theorem State.onJob_tap (s : State) (c n : Nat) (f : Job → Job) : (s.onJob c n f).tap = s.tap := rfl
@[simp] theorem State.onJob_lnk (s : State) (c n : Nat) (f : Job → Job) : (s.onJob c n f).lnk = s.lnk := rfl
@[simp] theorem State.onJob_stw (s : State) (c n : Nat) (f : Job → Job) : (s.onJob c n f).stw = s.stw := rfl
@[simp] theorem State.onJob_priv (s : State) (c n : Nat) (f : Job → Job) : (s.onJob c n f).priv = s.priv := rfl
@[simp] theorem State.onJob_sec (s : State) (c n : Nat) (f : Job → Job) : (s.onJob c n f).sec = s.sec := rfl
@[simp] theorem State.onJob_answer (s : State) (c n : Nat) (f : Job → Job) : (s.onJob c n f).answer = s.answer := rfl

@[simp] theorem State.setObj_pending (s : State) (o : Nat) (x : SyncObj) : (s.setObj o x).pending = s.pending := rfl
@[simp] theorem State.setObj_ticks (s : State) (o : Nat) (x : SyncObj) : (s.setObj o x).ticks = s.ticks := rfl
@[simp] theorem State.setObj_free (s : State) (o : Nat) (x : SyncObj) : (s.setObj o x).free = s.free := rfl
@[simp] theorem State.setObj_fuse (s : State) (o : Nat) (x : SyncObj) : (s.setObj o x).fuse = s.fuse := rfl
@[simp] theorem State.setObj_dev (s : State) (o : Nat) (x : SyncObj) : (s.setObj o x).dev = s.dev := rfl
@[simp] theorem State.setObj_time (s : State) (o : Nat) (x : SyncObj) : (s.setObj o x).time = s.time := rfl
@[simp] theorem State.setObj_regs (s : State) (o : Nat) (x : SyncObj) : (s.setObj o x).regs = s.regs := rfl
@[simp] theorem State.setObj_cfg (s : State) (o : Nat) (x : SyncObj) : (s.setObj o x).cfg = s.cfg := rfl
@[simp] theorem State.setObj_evt (s : State) (o : Nat) (x : SyncObj) : (s.setObj o x).evt = s.evt := rfl
@[simp] theorem State.setObj_mem (s : State) (o : Nat) (x : SyncObj) : (s.setObj o x).mem = s.mem := rfl
@[simp] theorem State.setObj_cls (s : State) (o : Nat) (x : SyncObj) : (s.setObj o x).cls = s.cls := rfl
@[simp] theorem State.setObj_hbm (s : State) (o : Nat) (x : SyncObj) : (s.setObj o x).hbm = s.hbm := rfl
@[simp] theorem State.setObj_shc (s : State) (o : Nat) (x : SyncObj) : (s.setObj o x).shc = s.shc := rfl
@[simp] theorem State.setObj_cb (s : State) (o : Nat) (x : SyncObj) : (s.setObj o x).cb = s.cb := rfl
@[simp] theorem State.setObj_cbLoads (s : State) (o : Nat) (x : SyncObj) : (s.setObj o x).cbLoads = s.cbLoads := rfl
@[simp] theorem State.setObj_stat (s : State) (o : Nat) (x : SyncObj) : (s.setObj o x).stat = s.stat := rfl
@[simp] theorem State.setObj_runGen (s : State) (o : Nat) (x : SyncObj) : (s.setObj o x).runGen = s.runGen := rfl
@[simp] theorem State.setObj_resTab (s : State) (o : Nat) (x : SyncObj) : (s.setObj o x).resTab = s.resTab := rfl
@[simp] theorem State.setObj_resSuspended (s : State) (o : Nat) (x : SyncObj) : (s.setObj o x).resSuspended = s.resSuspended := rfl
@[simp] theorem State.setObj_buckets (s : State) (o : Nat) (x : SyncObj) : (s.setObj o x).buckets = s.buckets := rfl
@[simp] theorem State.setObj_phtab (s : State) (o : Nat) (x : SyncObj) : (s.setObj o x).phtab = s.phtab := rfl
@[simp] theorem State.setObj_learn (s : State) (o : Nat) (x : SyncObj) : (s.setObj o x).learn = s.learn := rfl
@[simp] theorem State.setObj_order (s : State) (o : Nat) (x : SyncObj) : (s.setObj o x).order = s.order := rfl
@[simp] theorem State.setObj_cl (s : State) (o : Nat) (x : SyncObj) : (s.setObj o x).cl = s.cl := rfl
@[simp] theorem State.setObj_pw (s : State) (o : Nat) (x : SyncObj) : (s.setObj o x).pw = s.pw := rfl
@[simp] theorem State.setObj_thm (s : State) (o : Nat) (x : SyncObj) : (s.setObj o x).thm = s.thm := rfl
@[simp] theorem State.setObj_pins (s : State) (o : Nat) (x : SyncObj) : (s.setObj o x).pins = s.pins := rfl
@[simp] theorem State.setObj_tap (s : State) (o : Nat) (x : SyncObj) : (s.setObj o x).tap = s.tap := rfl
@[simp] theorem State.setObj_lnk (s : State) (o : Nat) (x : SyncObj) : (s.setObj o x).lnk = s.lnk := rfl
@[simp] theorem State.setObj_stw (s : State) (o : Nat) (x : SyncObj) : (s.setObj o x).stw = s.stw := rfl
@[simp] theorem State.setObj_priv (s : State) (o : Nat) (x : SyncObj) : (s.setObj o x).priv = s.priv := rfl
@[simp] theorem State.setObj_sec (s : State) (o : Nat) (x : SyncObj) : (s.setObj o x).sec = s.sec := rfl
@[simp] theorem State.setObj_answer (s : State) (o : Nat) (x : SyncObj) : (s.setObj o x).answer = s.answer := rfl

@[simp] theorem State.setChan_pending (s : State) (c : Nat) (x : Chan) : (s.setChan c x).pending = s.pending := rfl
@[simp] theorem State.setChan_ticks (s : State) (c : Nat) (x : Chan) : (s.setChan c x).ticks = s.ticks := rfl
@[simp] theorem State.setChan_free (s : State) (c : Nat) (x : Chan) : (s.setChan c x).free = s.free := rfl
@[simp] theorem State.setChan_fuse (s : State) (c : Nat) (x : Chan) : (s.setChan c x).fuse = s.fuse := rfl
@[simp] theorem State.setChan_dev (s : State) (c : Nat) (x : Chan) : (s.setChan c x).dev = s.dev := rfl
@[simp] theorem State.setChan_time (s : State) (c : Nat) (x : Chan) : (s.setChan c x).time = s.time := rfl
@[simp] theorem State.setChan_regs (s : State) (c : Nat) (x : Chan) : (s.setChan c x).regs = s.regs := rfl
@[simp] theorem State.setChan_cfg (s : State) (c : Nat) (x : Chan) : (s.setChan c x).cfg = s.cfg := rfl
@[simp] theorem State.setChan_evt (s : State) (c : Nat) (x : Chan) : (s.setChan c x).evt = s.evt := rfl
@[simp] theorem State.setChan_mem (s : State) (c : Nat) (x : Chan) : (s.setChan c x).mem = s.mem := rfl
@[simp] theorem State.setChan_cls (s : State) (c : Nat) (x : Chan) : (s.setChan c x).cls = s.cls := rfl
@[simp] theorem State.setChan_shc (s : State) (c : Nat) (x : Chan) : (s.setChan c x).shc = s.shc := rfl
@[simp] theorem State.setChan_cb (s : State) (c : Nat) (x : Chan) : (s.setChan c x).cb = s.cb := rfl
@[simp] theorem State.setChan_cbLoads (s : State) (c : Nat) (x : Chan) : (s.setChan c x).cbLoads = s.cbLoads := rfl
@[simp] theorem State.setChan_stat (s : State) (c : Nat) (x : Chan) : (s.setChan c x).stat = s.stat := rfl
@[simp] theorem State.setChan_runGen (s : State) (c : Nat) (x : Chan) : (s.setChan c x).runGen = s.runGen := rfl
@[simp] theorem State.setChan_sync (s : State) (c : Nat) (x : Chan) : (s.setChan c x).sync = s.sync := rfl
@[simp] theorem State.setChan_resTab (s : State) (c : Nat) (x : Chan) : (s.setChan c x).resTab = s.resTab := rfl
@[simp] theorem State.setChan_resSuspended (s : State) (c : Nat) (x : Chan) : (s.setChan c x).resSuspended = s.resSuspended := rfl
@[simp] theorem State.setChan_buckets (s : State) (c : Nat) (x : Chan) : (s.setChan c x).buckets = s.buckets := rfl
@[simp] theorem State.setChan_phtab (s : State) (c : Nat) (x : Chan) : (s.setChan c x).phtab = s.phtab := rfl
@[simp] theorem State.setChan_learn (s : State) (c : Nat) (x : Chan) : (s.setChan c x).learn = s.learn := rfl
@[simp] theorem State.setChan_order (s : State) (c : Nat) (x : Chan) : (s.setChan c x).order = s.order := rfl
@[simp] theorem State.setChan_cl (s : State) (c : Nat) (x : Chan) : (s.setChan c x).cl = s.cl := rfl
@[simp] theorem State.setChan_pw (s : State) (c : Nat) (x : Chan) : (s.setChan c x).pw = s.pw := rfl
@[simp] theorem State.setChan_thm (s : State) (c : Nat) (x : Chan) : (s.setChan c x).thm = s.thm := rfl
@[simp] theorem State.setChan_pins (s : State) (c : Nat) (x : Chan) : (s.setChan c x).pins = s.pins := rfl
@[simp] theorem State.setChan_tap (s : State) (c : Nat) (x : Chan) : (s.setChan c x).tap = s.tap := rfl
@[simp] theorem State.setChan_lnk (s : State) (c : Nat) (x : Chan) : (s.setChan c x).lnk = s.lnk := rfl
@[simp] theorem State.setChan_stw (s : State) (c : Nat) (x : Chan) : (s.setChan c x).stw = s.stw := rfl
@[simp] theorem State.setChan_priv (s : State) (c : Nat) (x : Chan) : (s.setChan c x).priv = s.priv := rfl
@[simp] theorem State.setChan_sec (s : State) (c : Nat) (x : Chan) : (s.setChan c x).sec = s.sec := rfl
@[simp] theorem State.setChan_answer (s : State) (c : Nat) (x : Chan) : (s.setChan c x).answer = s.answer := rfl

@[simp] theorem State.setRing_pending (s : State) (r : Nat) (x : Ring) : (s.setRing r x).pending = s.pending := rfl
@[simp] theorem State.setRing_ticks (s : State) (r : Nat) (x : Ring) : (s.setRing r x).ticks = s.ticks := rfl
@[simp] theorem State.setRing_free (s : State) (r : Nat) (x : Ring) : (s.setRing r x).free = s.free := rfl
@[simp] theorem State.setRing_fuse (s : State) (r : Nat) (x : Ring) : (s.setRing r x).fuse = s.fuse := rfl
@[simp] theorem State.setRing_dev (s : State) (r : Nat) (x : Ring) : (s.setRing r x).dev = s.dev := rfl
@[simp] theorem State.setRing_time (s : State) (r : Nat) (x : Ring) : (s.setRing r x).time = s.time := rfl
@[simp] theorem State.setRing_regs (s : State) (r : Nat) (x : Ring) : (s.setRing r x).regs = s.regs := rfl
@[simp] theorem State.setRing_cfg (s : State) (r : Nat) (x : Ring) : (s.setRing r x).cfg = s.cfg := rfl
@[simp] theorem State.setRing_evt (s : State) (r : Nat) (x : Ring) : (s.setRing r x).evt = s.evt := rfl
@[simp] theorem State.setRing_mem (s : State) (r : Nat) (x : Ring) : (s.setRing r x).mem = s.mem := rfl
@[simp] theorem State.setRing_cls (s : State) (r : Nat) (x : Ring) : (s.setRing r x).cls = s.cls := rfl
@[simp] theorem State.setRing_hbm (s : State) (r : Nat) (x : Ring) : (s.setRing r x).hbm = s.hbm := rfl
@[simp] theorem State.setRing_shc (s : State) (r : Nat) (x : Ring) : (s.setRing r x).shc = s.shc := rfl
@[simp] theorem State.setRing_cb (s : State) (r : Nat) (x : Ring) : (s.setRing r x).cb = s.cb := rfl
@[simp] theorem State.setRing_cbLoads (s : State) (r : Nat) (x : Ring) : (s.setRing r x).cbLoads = s.cbLoads := rfl
@[simp] theorem State.setRing_stat (s : State) (r : Nat) (x : Ring) : (s.setRing r x).stat = s.stat := rfl
@[simp] theorem State.setRing_runGen (s : State) (r : Nat) (x : Ring) : (s.setRing r x).runGen = s.runGen := rfl
@[simp] theorem State.setRing_sync (s : State) (r : Nat) (x : Ring) : (s.setRing r x).sync = s.sync := rfl
@[simp] theorem State.setRing_resTab (s : State) (r : Nat) (x : Ring) : (s.setRing r x).resTab = s.resTab := rfl
@[simp] theorem State.setRing_resSuspended (s : State) (r : Nat) (x : Ring) : (s.setRing r x).resSuspended = s.resSuspended := rfl
@[simp] theorem State.setRing_buckets (s : State) (r : Nat) (x : Ring) : (s.setRing r x).buckets = s.buckets := rfl
@[simp] theorem State.setRing_phtab (s : State) (r : Nat) (x : Ring) : (s.setRing r x).phtab = s.phtab := rfl
@[simp] theorem State.setRing_learn (s : State) (r : Nat) (x : Ring) : (s.setRing r x).learn = s.learn := rfl
@[simp] theorem State.setRing_order (s : State) (r : Nat) (x : Ring) : (s.setRing r x).order = s.order := rfl
@[simp] theorem State.setRing_cl (s : State) (r : Nat) (x : Ring) : (s.setRing r x).cl = s.cl := rfl
@[simp] theorem State.setRing_pw (s : State) (r : Nat) (x : Ring) : (s.setRing r x).pw = s.pw := rfl
@[simp] theorem State.setRing_thm (s : State) (r : Nat) (x : Ring) : (s.setRing r x).thm = s.thm := rfl
@[simp] theorem State.setRing_pins (s : State) (r : Nat) (x : Ring) : (s.setRing r x).pins = s.pins := rfl
@[simp] theorem State.setRing_tap (s : State) (r : Nat) (x : Ring) : (s.setRing r x).tap = s.tap := rfl
@[simp] theorem State.setRing_lnk (s : State) (r : Nat) (x : Ring) : (s.setRing r x).lnk = s.lnk := rfl
@[simp] theorem State.setRing_priv (s : State) (r : Nat) (x : Ring) : (s.setRing r x).priv = s.priv := rfl
@[simp] theorem State.setRing_sec (s : State) (r : Nat) (x : Ring) : (s.setRing r x).sec = s.sec := rfl
@[simp] theorem State.setRing_answer (s : State) (r : Nat) (x : Ring) : (s.setRing r x).answer = s.answer := rfl

@[simp] theorem State.onStw_pending (s : State) (k : Nat) (f : StwJob → StwJob) : (s.onStw k f).pending = s.pending := rfl
@[simp] theorem State.onStw_ticks (s : State) (k : Nat) (f : StwJob → StwJob) : (s.onStw k f).ticks = s.ticks := rfl
@[simp] theorem State.onStw_free (s : State) (k : Nat) (f : StwJob → StwJob) : (s.onStw k f).free = s.free := rfl
@[simp] theorem State.onStw_fuse (s : State) (k : Nat) (f : StwJob → StwJob) : (s.onStw k f).fuse = s.fuse := rfl
@[simp] theorem State.onStw_dev (s : State) (k : Nat) (f : StwJob → StwJob) : (s.onStw k f).dev = s.dev := rfl
@[simp] theorem State.onStw_time (s : State) (k : Nat) (f : StwJob → StwJob) : (s.onStw k f).time = s.time := rfl
@[simp] theorem State.onStw_regs (s : State) (k : Nat) (f : StwJob → StwJob) : (s.onStw k f).regs = s.regs := rfl
@[simp] theorem State.onStw_cfg (s : State) (k : Nat) (f : StwJob → StwJob) : (s.onStw k f).cfg = s.cfg := rfl
@[simp] theorem State.onStw_evt (s : State) (k : Nat) (f : StwJob → StwJob) : (s.onStw k f).evt = s.evt := rfl
@[simp] theorem State.onStw_mem (s : State) (k : Nat) (f : StwJob → StwJob) : (s.onStw k f).mem = s.mem := rfl
@[simp] theorem State.onStw_cls (s : State) (k : Nat) (f : StwJob → StwJob) : (s.onStw k f).cls = s.cls := rfl
@[simp] theorem State.onStw_hbm (s : State) (k : Nat) (f : StwJob → StwJob) : (s.onStw k f).hbm = s.hbm := rfl
@[simp] theorem State.onStw_shc (s : State) (k : Nat) (f : StwJob → StwJob) : (s.onStw k f).shc = s.shc := rfl
@[simp] theorem State.onStw_cb (s : State) (k : Nat) (f : StwJob → StwJob) : (s.onStw k f).cb = s.cb := rfl
@[simp] theorem State.onStw_cbLoads (s : State) (k : Nat) (f : StwJob → StwJob) : (s.onStw k f).cbLoads = s.cbLoads := rfl
@[simp] theorem State.onStw_stat (s : State) (k : Nat) (f : StwJob → StwJob) : (s.onStw k f).stat = s.stat := rfl
@[simp] theorem State.onStw_runGen (s : State) (k : Nat) (f : StwJob → StwJob) : (s.onStw k f).runGen = s.runGen := rfl
@[simp] theorem State.onStw_sync (s : State) (k : Nat) (f : StwJob → StwJob) : (s.onStw k f).sync = s.sync := rfl
@[simp] theorem State.onStw_resTab (s : State) (k : Nat) (f : StwJob → StwJob) : (s.onStw k f).resTab = s.resTab := rfl
@[simp] theorem State.onStw_resSuspended (s : State) (k : Nat) (f : StwJob → StwJob) : (s.onStw k f).resSuspended = s.resSuspended := rfl
@[simp] theorem State.onStw_buckets (s : State) (k : Nat) (f : StwJob → StwJob) : (s.onStw k f).buckets = s.buckets := rfl
@[simp] theorem State.onStw_phtab (s : State) (k : Nat) (f : StwJob → StwJob) : (s.onStw k f).phtab = s.phtab := rfl
@[simp] theorem State.onStw_learn (s : State) (k : Nat) (f : StwJob → StwJob) : (s.onStw k f).learn = s.learn := rfl
@[simp] theorem State.onStw_order (s : State) (k : Nat) (f : StwJob → StwJob) : (s.onStw k f).order = s.order := rfl
@[simp] theorem State.onStw_cl (s : State) (k : Nat) (f : StwJob → StwJob) : (s.onStw k f).cl = s.cl := rfl
@[simp] theorem State.onStw_pw (s : State) (k : Nat) (f : StwJob → StwJob) : (s.onStw k f).pw = s.pw := rfl
@[simp] theorem State.onStw_thm (s : State) (k : Nat) (f : StwJob → StwJob) : (s.onStw k f).thm = s.thm := rfl
@[simp] theorem State.onStw_pins (s : State) (k : Nat) (f : StwJob → StwJob) : (s.onStw k f).pins = s.pins := rfl
@[simp] theorem State.onStw_tap (s : State) (k : Nat) (f : StwJob → StwJob) : (s.onStw k f).tap = s.tap := rfl
@[simp] theorem State.onStw_lnk (s : State) (k : Nat) (f : StwJob → StwJob) : (s.onStw k f).lnk = s.lnk := rfl
@[simp] theorem State.onStw_priv (s : State) (k : Nat) (f : StwJob → StwJob) : (s.onStw k f).priv = s.priv := rfl
@[simp] theorem State.onStw_sec (s : State) (k : Nat) (f : StwJob → StwJob) : (s.onStw k f).sec = s.sec := rfl
@[simp] theorem State.onStw_answer (s : State) (k : Nat) (f : StwJob → StwJob) : (s.onStw k f).answer = s.answer := rfl

@[simp] theorem State.wr_pending (s : State) (a v : Nat) : (s.wr a v).pending = s.pending := rfl
@[simp] theorem State.wr_ticks (s : State) (a v : Nat) : (s.wr a v).ticks = s.ticks := rfl
@[simp] theorem State.wr_free (s : State) (a v : Nat) : (s.wr a v).free = s.free := rfl
@[simp] theorem State.wr_fuse (s : State) (a v : Nat) : (s.wr a v).fuse = s.fuse := rfl
@[simp] theorem State.wr_dev (s : State) (a v : Nat) : (s.wr a v).dev = s.dev := rfl
@[simp] theorem State.wr_time (s : State) (a v : Nat) : (s.wr a v).time = s.time := rfl
@[simp] theorem State.wr_cfg (s : State) (a v : Nat) : (s.wr a v).cfg = s.cfg := rfl
@[simp] theorem State.wr_evt (s : State) (a v : Nat) : (s.wr a v).evt = s.evt := rfl
@[simp] theorem State.wr_mem (s : State) (a v : Nat) : (s.wr a v).mem = s.mem := rfl
@[simp] theorem State.wr_cls (s : State) (a v : Nat) : (s.wr a v).cls = s.cls := rfl
@[simp] theorem State.wr_hbm (s : State) (a v : Nat) : (s.wr a v).hbm = s.hbm := rfl
@[simp] theorem State.wr_shc (s : State) (a v : Nat) : (s.wr a v).shc = s.shc := rfl
@[simp] theorem State.wr_cb (s : State) (a v : Nat) : (s.wr a v).cb = s.cb := rfl
@[simp] theorem State.wr_cbLoads (s : State) (a v : Nat) : (s.wr a v).cbLoads = s.cbLoads := rfl
@[simp] theorem State.wr_stat (s : State) (a v : Nat) : (s.wr a v).stat = s.stat := rfl
@[simp] theorem State.wr_runGen (s : State) (a v : Nat) : (s.wr a v).runGen = s.runGen := rfl
@[simp] theorem State.wr_sync (s : State) (a v : Nat) : (s.wr a v).sync = s.sync := rfl
@[simp] theorem State.wr_resTab (s : State) (a v : Nat) : (s.wr a v).resTab = s.resTab := rfl
@[simp] theorem State.wr_resSuspended (s : State) (a v : Nat) : (s.wr a v).resSuspended = s.resSuspended := rfl
@[simp] theorem State.wr_buckets (s : State) (a v : Nat) : (s.wr a v).buckets = s.buckets := rfl
@[simp] theorem State.wr_phtab (s : State) (a v : Nat) : (s.wr a v).phtab = s.phtab := rfl
@[simp] theorem State.wr_learn (s : State) (a v : Nat) : (s.wr a v).learn = s.learn := rfl
@[simp] theorem State.wr_order (s : State) (a v : Nat) : (s.wr a v).order = s.order := rfl
@[simp] theorem State.wr_cl (s : State) (a v : Nat) : (s.wr a v).cl = s.cl := rfl
@[simp] theorem State.wr_pw (s : State) (a v : Nat) : (s.wr a v).pw = s.pw := rfl
@[simp] theorem State.wr_thm (s : State) (a v : Nat) : (s.wr a v).thm = s.thm := rfl
@[simp] theorem State.wr_pins (s : State) (a v : Nat) : (s.wr a v).pins = s.pins := rfl
@[simp] theorem State.wr_tap (s : State) (a v : Nat) : (s.wr a v).tap = s.tap := rfl
@[simp] theorem State.wr_lnk (s : State) (a v : Nat) : (s.wr a v).lnk = s.lnk := rfl
@[simp] theorem State.wr_stw (s : State) (a v : Nat) : (s.wr a v).stw = s.stw := rfl
@[simp] theorem State.wr_priv (s : State) (a v : Nat) : (s.wr a v).priv = s.priv := rfl
@[simp] theorem State.wr_sec (s : State) (a v : Nat) : (s.wr a v).sec = s.sec := rfl
@[simp] theorem State.wr_answer (s : State) (a v : Nat) : (s.wr a v).answer = s.answer := rfl

@[simp] theorem State.wf_pending (s : State) (a lo len v : Nat) : (s.wf a lo len v).pending = s.pending := rfl
@[simp] theorem State.wf_ticks (s : State) (a lo len v : Nat) : (s.wf a lo len v).ticks = s.ticks := rfl
@[simp] theorem State.wf_free (s : State) (a lo len v : Nat) : (s.wf a lo len v).free = s.free := rfl
@[simp] theorem State.wf_fuse (s : State) (a lo len v : Nat) : (s.wf a lo len v).fuse = s.fuse := rfl
@[simp] theorem State.wf_dev (s : State) (a lo len v : Nat) : (s.wf a lo len v).dev = s.dev := rfl
@[simp] theorem State.wf_time (s : State) (a lo len v : Nat) : (s.wf a lo len v).time = s.time := rfl
@[simp] theorem State.wf_cfg (s : State) (a lo len v : Nat) : (s.wf a lo len v).cfg = s.cfg := rfl
@[simp] theorem State.wf_evt (s : State) (a lo len v : Nat) : (s.wf a lo len v).evt = s.evt := rfl
@[simp] theorem State.wf_mem (s : State) (a lo len v : Nat) : (s.wf a lo len v).mem = s.mem := rfl
@[simp] theorem State.wf_cls (s : State) (a lo len v : Nat) : (s.wf a lo len v).cls = s.cls := rfl
@[simp] theorem State.wf_hbm (s : State) (a lo len v : Nat) : (s.wf a lo len v).hbm = s.hbm := rfl
@[simp] theorem State.wf_shc (s : State) (a lo len v : Nat) : (s.wf a lo len v).shc = s.shc := rfl
@[simp] theorem State.wf_cb (s : State) (a lo len v : Nat) : (s.wf a lo len v).cb = s.cb := rfl
@[simp] theorem State.wf_cbLoads (s : State) (a lo len v : Nat) : (s.wf a lo len v).cbLoads = s.cbLoads := rfl
@[simp] theorem State.wf_stat (s : State) (a lo len v : Nat) : (s.wf a lo len v).stat = s.stat := rfl
@[simp] theorem State.wf_runGen (s : State) (a lo len v : Nat) : (s.wf a lo len v).runGen = s.runGen := rfl
@[simp] theorem State.wf_sync (s : State) (a lo len v : Nat) : (s.wf a lo len v).sync = s.sync := rfl
@[simp] theorem State.wf_resTab (s : State) (a lo len v : Nat) : (s.wf a lo len v).resTab = s.resTab := rfl
@[simp] theorem State.wf_resSuspended (s : State) (a lo len v : Nat) : (s.wf a lo len v).resSuspended = s.resSuspended := rfl
@[simp] theorem State.wf_buckets (s : State) (a lo len v : Nat) : (s.wf a lo len v).buckets = s.buckets := rfl
@[simp] theorem State.wf_phtab (s : State) (a lo len v : Nat) : (s.wf a lo len v).phtab = s.phtab := rfl
@[simp] theorem State.wf_learn (s : State) (a lo len v : Nat) : (s.wf a lo len v).learn = s.learn := rfl
@[simp] theorem State.wf_order (s : State) (a lo len v : Nat) : (s.wf a lo len v).order = s.order := rfl
@[simp] theorem State.wf_cl (s : State) (a lo len v : Nat) : (s.wf a lo len v).cl = s.cl := rfl
@[simp] theorem State.wf_pw (s : State) (a lo len v : Nat) : (s.wf a lo len v).pw = s.pw := rfl
@[simp] theorem State.wf_thm (s : State) (a lo len v : Nat) : (s.wf a lo len v).thm = s.thm := rfl
@[simp] theorem State.wf_pins (s : State) (a lo len v : Nat) : (s.wf a lo len v).pins = s.pins := rfl
@[simp] theorem State.wf_tap (s : State) (a lo len v : Nat) : (s.wf a lo len v).tap = s.tap := rfl
@[simp] theorem State.wf_lnk (s : State) (a lo len v : Nat) : (s.wf a lo len v).lnk = s.lnk := rfl
@[simp] theorem State.wf_stw (s : State) (a lo len v : Nat) : (s.wf a lo len v).stw = s.stw := rfl
@[simp] theorem State.wf_priv (s : State) (a lo len v : Nat) : (s.wf a lo len v).priv = s.priv := rfl
@[simp] theorem State.wf_sec (s : State) (a lo len v : Nat) : (s.wf a lo len v).sec = s.sec := rfl
@[simp] theorem State.wf_answer (s : State) (a lo len v : Nat) : (s.wf a lo len v).answer = s.answer := rfl

@[simp] theorem State.count_pending (s : State) (a n : Nat) : (s.count a n).pending = s.pending := rfl
@[simp] theorem State.count_ticks (s : State) (a n : Nat) : (s.count a n).ticks = s.ticks := rfl
@[simp] theorem State.count_free (s : State) (a n : Nat) : (s.count a n).free = s.free := rfl
@[simp] theorem State.count_fuse (s : State) (a n : Nat) : (s.count a n).fuse = s.fuse := rfl
@[simp] theorem State.count_dev (s : State) (a n : Nat) : (s.count a n).dev = s.dev := rfl
@[simp] theorem State.count_time (s : State) (a n : Nat) : (s.count a n).time = s.time := rfl
@[simp] theorem State.count_cfg (s : State) (a n : Nat) : (s.count a n).cfg = s.cfg := rfl
@[simp] theorem State.count_evt (s : State) (a n : Nat) : (s.count a n).evt = s.evt := rfl
@[simp] theorem State.count_mem (s : State) (a n : Nat) : (s.count a n).mem = s.mem := rfl
@[simp] theorem State.count_cls (s : State) (a n : Nat) : (s.count a n).cls = s.cls := rfl
@[simp] theorem State.count_hbm (s : State) (a n : Nat) : (s.count a n).hbm = s.hbm := rfl
@[simp] theorem State.count_shc (s : State) (a n : Nat) : (s.count a n).shc = s.shc := rfl
@[simp] theorem State.count_cb (s : State) (a n : Nat) : (s.count a n).cb = s.cb := rfl
@[simp] theorem State.count_cbLoads (s : State) (a n : Nat) : (s.count a n).cbLoads = s.cbLoads := rfl
@[simp] theorem State.count_stat (s : State) (a n : Nat) : (s.count a n).stat = s.stat := rfl
@[simp] theorem State.count_runGen (s : State) (a n : Nat) : (s.count a n).runGen = s.runGen := rfl
@[simp] theorem State.count_sync (s : State) (a n : Nat) : (s.count a n).sync = s.sync := rfl
@[simp] theorem State.count_resTab (s : State) (a n : Nat) : (s.count a n).resTab = s.resTab := rfl
@[simp] theorem State.count_resSuspended (s : State) (a n : Nat) : (s.count a n).resSuspended = s.resSuspended := rfl
@[simp] theorem State.count_buckets (s : State) (a n : Nat) : (s.count a n).buckets = s.buckets := rfl
@[simp] theorem State.count_phtab (s : State) (a n : Nat) : (s.count a n).phtab = s.phtab := rfl
@[simp] theorem State.count_learn (s : State) (a n : Nat) : (s.count a n).learn = s.learn := rfl
@[simp] theorem State.count_order (s : State) (a n : Nat) : (s.count a n).order = s.order := rfl
@[simp] theorem State.count_cl (s : State) (a n : Nat) : (s.count a n).cl = s.cl := rfl
@[simp] theorem State.count_pw (s : State) (a n : Nat) : (s.count a n).pw = s.pw := rfl
@[simp] theorem State.count_thm (s : State) (a n : Nat) : (s.count a n).thm = s.thm := rfl
@[simp] theorem State.count_pins (s : State) (a n : Nat) : (s.count a n).pins = s.pins := rfl
@[simp] theorem State.count_tap (s : State) (a n : Nat) : (s.count a n).tap = s.tap := rfl
@[simp] theorem State.count_lnk (s : State) (a n : Nat) : (s.count a n).lnk = s.lnk := rfl
@[simp] theorem State.count_stw (s : State) (a n : Nat) : (s.count a n).stw = s.stw := rfl
@[simp] theorem State.count_priv (s : State) (a n : Nat) : (s.count a n).priv = s.priv := rfl
@[simp] theorem State.count_sec (s : State) (a n : Nat) : (s.count a n).sec = s.sec := rfl
@[simp] theorem State.count_answer (s : State) (a n : Nat) : (s.count a n).answer = s.answer := rfl

@[simp] theorem State.tally_pending (s : State) (a n : Nat) : (s.tally a n).pending = s.pending := rfl
@[simp] theorem State.tally_ticks (s : State) (a n : Nat) : (s.tally a n).ticks = s.ticks := rfl
@[simp] theorem State.tally_free (s : State) (a n : Nat) : (s.tally a n).free = s.free := rfl
@[simp] theorem State.tally_fuse (s : State) (a n : Nat) : (s.tally a n).fuse = s.fuse := rfl
@[simp] theorem State.tally_dev (s : State) (a n : Nat) : (s.tally a n).dev = s.dev := rfl
@[simp] theorem State.tally_time (s : State) (a n : Nat) : (s.tally a n).time = s.time := rfl
@[simp] theorem State.tally_cfg (s : State) (a n : Nat) : (s.tally a n).cfg = s.cfg := rfl
@[simp] theorem State.tally_evt (s : State) (a n : Nat) : (s.tally a n).evt = s.evt := rfl
@[simp] theorem State.tally_mem (s : State) (a n : Nat) : (s.tally a n).mem = s.mem := rfl
@[simp] theorem State.tally_cls (s : State) (a n : Nat) : (s.tally a n).cls = s.cls := rfl
@[simp] theorem State.tally_hbm (s : State) (a n : Nat) : (s.tally a n).hbm = s.hbm := rfl
@[simp] theorem State.tally_shc (s : State) (a n : Nat) : (s.tally a n).shc = s.shc := rfl
@[simp] theorem State.tally_cb (s : State) (a n : Nat) : (s.tally a n).cb = s.cb := rfl
@[simp] theorem State.tally_cbLoads (s : State) (a n : Nat) : (s.tally a n).cbLoads = s.cbLoads := rfl
@[simp] theorem State.tally_stat (s : State) (a n : Nat) : (s.tally a n).stat = s.stat := rfl
@[simp] theorem State.tally_runGen (s : State) (a n : Nat) : (s.tally a n).runGen = s.runGen := rfl
@[simp] theorem State.tally_sync (s : State) (a n : Nat) : (s.tally a n).sync = s.sync := rfl
@[simp] theorem State.tally_resTab (s : State) (a n : Nat) : (s.tally a n).resTab = s.resTab := rfl
@[simp] theorem State.tally_resSuspended (s : State) (a n : Nat) : (s.tally a n).resSuspended = s.resSuspended := rfl
@[simp] theorem State.tally_buckets (s : State) (a n : Nat) : (s.tally a n).buckets = s.buckets := rfl
@[simp] theorem State.tally_phtab (s : State) (a n : Nat) : (s.tally a n).phtab = s.phtab := rfl
@[simp] theorem State.tally_learn (s : State) (a n : Nat) : (s.tally a n).learn = s.learn := rfl
@[simp] theorem State.tally_order (s : State) (a n : Nat) : (s.tally a n).order = s.order := rfl
@[simp] theorem State.tally_cl (s : State) (a n : Nat) : (s.tally a n).cl = s.cl := rfl
@[simp] theorem State.tally_pw (s : State) (a n : Nat) : (s.tally a n).pw = s.pw := rfl
@[simp] theorem State.tally_thm (s : State) (a n : Nat) : (s.tally a n).thm = s.thm := rfl
@[simp] theorem State.tally_pins (s : State) (a n : Nat) : (s.tally a n).pins = s.pins := rfl
@[simp] theorem State.tally_tap (s : State) (a n : Nat) : (s.tally a n).tap = s.tap := rfl
@[simp] theorem State.tally_lnk (s : State) (a n : Nat) : (s.tally a n).lnk = s.lnk := rfl
@[simp] theorem State.tally_stw (s : State) (a n : Nat) : (s.tally a n).stw = s.stw := rfl
@[simp] theorem State.tally_priv (s : State) (a n : Nat) : (s.tally a n).priv = s.priv := rfl
@[simp] theorem State.tally_sec (s : State) (a n : Nat) : (s.tally a n).sec = s.sec := rfl
@[simp] theorem State.tally_answer (s : State) (a n : Nat) : (s.tally a n).answer = s.answer := rfl
@[simp] theorem State.flag_pending (s : State) (a b c n : Nat) : (s.flag a b c n).pending = s.pending := by
  unfold State.flag; split <;> rfl
@[simp] theorem State.flag_ticks (s : State) (a b c n : Nat) : (s.flag a b c n).ticks = s.ticks := by
  unfold State.flag; split <;> rfl
@[simp] theorem State.flag_free (s : State) (a b c n : Nat) : (s.flag a b c n).free = s.free := by
  unfold State.flag; split <;> rfl
@[simp] theorem State.flag_fuse (s : State) (a b c n : Nat) : (s.flag a b c n).fuse = s.fuse := by
  unfold State.flag; split <;> rfl
@[simp] theorem State.flag_dev (s : State) (a b c n : Nat) : (s.flag a b c n).dev = s.dev := by
  unfold State.flag; split <;> rfl
@[simp] theorem State.flag_time (s : State) (a b c n : Nat) : (s.flag a b c n).time = s.time := by
  unfold State.flag; split <;> rfl
@[simp] theorem State.flag_cfg (s : State) (a b c n : Nat) : (s.flag a b c n).cfg = s.cfg := by
  unfold State.flag; split <;> rfl
@[simp] theorem State.flag_evt (s : State) (a b c n : Nat) : (s.flag a b c n).evt = s.evt := by
  unfold State.flag; split <;> rfl
@[simp] theorem State.flag_mem (s : State) (a b c n : Nat) : (s.flag a b c n).mem = s.mem := by
  unfold State.flag; split <;> rfl
@[simp] theorem State.flag_cls (s : State) (a b c n : Nat) : (s.flag a b c n).cls = s.cls := by
  unfold State.flag; split <;> rfl
@[simp] theorem State.flag_hbm (s : State) (a b c n : Nat) : (s.flag a b c n).hbm = s.hbm := by
  unfold State.flag; split <;> rfl
@[simp] theorem State.flag_shc (s : State) (a b c n : Nat) : (s.flag a b c n).shc = s.shc := by
  unfold State.flag; split <;> rfl
@[simp] theorem State.flag_cb (s : State) (a b c n : Nat) : (s.flag a b c n).cb = s.cb := by
  unfold State.flag; split <;> rfl
@[simp] theorem State.flag_cbLoads (s : State) (a b c n : Nat) : (s.flag a b c n).cbLoads = s.cbLoads := by
  unfold State.flag; split <;> rfl
@[simp] theorem State.flag_stat (s : State) (a b c n : Nat) : (s.flag a b c n).stat = s.stat := by
  unfold State.flag; split <;> rfl
@[simp] theorem State.flag_runGen (s : State) (a b c n : Nat) : (s.flag a b c n).runGen = s.runGen := by
  unfold State.flag; split <;> rfl
@[simp] theorem State.flag_sync (s : State) (a b c n : Nat) : (s.flag a b c n).sync = s.sync := by
  unfold State.flag; split <;> rfl
@[simp] theorem State.flag_resTab (s : State) (a b c n : Nat) : (s.flag a b c n).resTab = s.resTab := by
  unfold State.flag; split <;> rfl
@[simp] theorem State.flag_resSuspended (s : State) (a b c n : Nat) : (s.flag a b c n).resSuspended = s.resSuspended := by
  unfold State.flag; split <;> rfl
@[simp] theorem State.flag_buckets (s : State) (a b c n : Nat) : (s.flag a b c n).buckets = s.buckets := by
  unfold State.flag; split <;> rfl
@[simp] theorem State.flag_phtab (s : State) (a b c n : Nat) : (s.flag a b c n).phtab = s.phtab := by
  unfold State.flag; split <;> rfl
@[simp] theorem State.flag_learn (s : State) (a b c n : Nat) : (s.flag a b c n).learn = s.learn := by
  unfold State.flag; split <;> rfl
@[simp] theorem State.flag_order (s : State) (a b c n : Nat) : (s.flag a b c n).order = s.order := by
  unfold State.flag; split <;> rfl
@[simp] theorem State.flag_cl (s : State) (a b c n : Nat) : (s.flag a b c n).cl = s.cl := by
  unfold State.flag; split <;> rfl
@[simp] theorem State.flag_pw (s : State) (a b c n : Nat) : (s.flag a b c n).pw = s.pw := by
  unfold State.flag; split <;> rfl
@[simp] theorem State.flag_thm (s : State) (a b c n : Nat) : (s.flag a b c n).thm = s.thm := by
  unfold State.flag; split <;> rfl
@[simp] theorem State.flag_pins (s : State) (a b c n : Nat) : (s.flag a b c n).pins = s.pins := by
  unfold State.flag; split <;> rfl
@[simp] theorem State.flag_tap (s : State) (a b c n : Nat) : (s.flag a b c n).tap = s.tap := by
  unfold State.flag; split <;> rfl
@[simp] theorem State.flag_lnk (s : State) (a b c n : Nat) : (s.flag a b c n).lnk = s.lnk := by
  unfold State.flag; split <;> rfl
@[simp] theorem State.flag_stw (s : State) (a b c n : Nat) : (s.flag a b c n).stw = s.stw := by
  unfold State.flag; split <;> rfl
@[simp] theorem State.flag_priv (s : State) (a b c n : Nat) : (s.flag a b c n).priv = s.priv := by
  unfold State.flag; split <;> rfl
@[simp] theorem State.flag_sec (s : State) (a b c n : Nat) : (s.flag a b c n).sec = s.sec := by
  unfold State.flag; split <;> rfl
@[simp] theorem State.flag_answer (s : State) (a b c n : Nat) : (s.flag a b c n).answer = s.answer := by
  unfold State.flag; split <;> rfl

/-! ### Events -/

theorem State.loseRec_frame (s : State) : s.loseRec = { s with evt := s.loseRec.evt, regs := s.loseRec.regs } := rfl
theorem State.sendRec_frame (s : State) (r : EvRec) :
    s.sendRec r = { s with evt := (s.sendRec r).evt, regs := (s.sendRec r).regs } := by
  by_cases h : (s.dev.selfRefresh || decide ((SMap.val [] s.evt.queues (unitNo r.code.toNat r.src)).length ≥ 8)) = true
  · have e : s.sendRec r = s.loseRec := by simp only [State.sendRec]; rw [if_pos h]
    rw [e]; rfl
  · simp only [State.sendRec]
    rw [if_neg h]
theorem State.enterFault_frame (s : State) :
    s.enterFault = { s with cfg := s.enterFault.cfg, regs := s.enterFault.regs, dev := s.enterFault.dev } := by
  by_cases h : s.dev.st = .off
  · have e : s.enterFault = s := by simp only [State.enterFault]; rw [if_pos h]
    rw [e]
  · simp only [State.enterFault]; rw [if_neg h]; rfl
/-- What an event touches: its queue, the registers, and with its response (R15) the device and the epoch. -/
theorem State.raiseAs_frame (s : State) (sev : Sev) (k : Nat) (q : Src) (a x y : Nat) (h : Bool) :
    ∃ e r d c, s.raiseAs sev k q a x y h = { s with evt := e, regs := r, dev := d, cfg := c } := by
  simp only [State.raiseAs]
  generalize hr : (⟨s.time.meridian, BitVec.ofNat 16 k, sev, q, BitVec.ofNat 16 a, BitVec.ofNat 64 x,
    BitVec.ofNat 64 y, false⟩ : EvRec) = r
  have ht := s.sendRec_frame r
  generalize s.sendRec r = t at ht
  clear hr
  cases sev with
  | stop =>
    dsimp only
    generalize hw : State.recordStop _ k q = w
    have hw' : w = { t with regs := w.regs, dev := w.dev } := by subst hw; rfl
    have hu := w.enterFault_frame
    generalize w.enterFault = u at hu
    exact ⟨_, _, _, _, by rw [hu, hw', ht]⟩
  | replay =>
    dsimp only
    split
    · exact ⟨_, _, _, _, by rw [ht]⟩
    · exact ⟨_, _, _, _, ht⟩
  | info => exact ⟨_, _, _, _, ht⟩
  | notice => exact ⟨_, _, _, _, ht⟩
  | degrade => exact ⟨_, _, _, _, ht⟩
theorem State.raise_frame (s : State) (k : Nat) (q : Src) (a x y : Nat) :
    ∃ e r d c, s.raise k q a x y = { s with evt := e, regs := r, dev := d, cfg := c } :=
  s.raiseAs_frame (sevOf k) k q a x y false

@[simp] theorem State.raise_pending (s : State) (k : Nat) (q : Src) (a x y : Nat) : (s.raise k q a x y).pending = s.pending := by
  obtain ⟨_, _, _, _, e⟩ := s.raise_frame k q a x y; rw [e]
@[simp] theorem State.raise_ticks (s : State) (k : Nat) (q : Src) (a x y : Nat) : (s.raise k q a x y).ticks = s.ticks := by
  obtain ⟨_, _, _, _, e⟩ := s.raise_frame k q a x y; rw [e]
@[simp] theorem State.raise_free (s : State) (k : Nat) (q : Src) (a x y : Nat) : (s.raise k q a x y).free = s.free := by
  obtain ⟨_, _, _, _, e⟩ := s.raise_frame k q a x y; rw [e]
@[simp] theorem State.raise_fuse (s : State) (k : Nat) (q : Src) (a x y : Nat) : (s.raise k q a x y).fuse = s.fuse := by
  obtain ⟨_, _, _, _, e⟩ := s.raise_frame k q a x y; rw [e]
@[simp] theorem State.raise_time (s : State) (k : Nat) (q : Src) (a x y : Nat) : (s.raise k q a x y).time = s.time := by
  obtain ⟨_, _, _, _, e⟩ := s.raise_frame k q a x y; rw [e]
@[simp] theorem State.raise_mem (s : State) (k : Nat) (q : Src) (a x y : Nat) : (s.raise k q a x y).mem = s.mem := by
  obtain ⟨_, _, _, _, e⟩ := s.raise_frame k q a x y; rw [e]
@[simp] theorem State.raise_cls (s : State) (k : Nat) (q : Src) (a x y : Nat) : (s.raise k q a x y).cls = s.cls := by
  obtain ⟨_, _, _, _, e⟩ := s.raise_frame k q a x y; rw [e]
@[simp] theorem State.raise_hbm (s : State) (k : Nat) (q : Src) (a x y : Nat) : (s.raise k q a x y).hbm = s.hbm := by
  obtain ⟨_, _, _, _, e⟩ := s.raise_frame k q a x y; rw [e]
@[simp] theorem State.raise_shc (s : State) (k : Nat) (q : Src) (a x y : Nat) : (s.raise k q a x y).shc = s.shc := by
  obtain ⟨_, _, _, _, e⟩ := s.raise_frame k q a x y; rw [e]
@[simp] theorem State.raise_cb (s : State) (k : Nat) (q : Src) (a x y : Nat) : (s.raise k q a x y).cb = s.cb := by
  obtain ⟨_, _, _, _, e⟩ := s.raise_frame k q a x y; rw [e]
@[simp] theorem State.raise_cbLoads (s : State) (k : Nat) (q : Src) (a x y : Nat) : (s.raise k q a x y).cbLoads = s.cbLoads := by
  obtain ⟨_, _, _, _, e⟩ := s.raise_frame k q a x y; rw [e]
@[simp] theorem State.raise_stat (s : State) (k : Nat) (q : Src) (a x y : Nat) : (s.raise k q a x y).stat = s.stat := by
  obtain ⟨_, _, _, _, e⟩ := s.raise_frame k q a x y; rw [e]
@[simp] theorem State.raise_runGen (s : State) (k : Nat) (q : Src) (a x y : Nat) : (s.raise k q a x y).runGen = s.runGen := by
  obtain ⟨_, _, _, _, e⟩ := s.raise_frame k q a x y; rw [e]
@[simp] theorem State.raise_sync (s : State) (k : Nat) (q : Src) (a x y : Nat) : (s.raise k q a x y).sync = s.sync := by
  obtain ⟨_, _, _, _, e⟩ := s.raise_frame k q a x y; rw [e]
@[simp] theorem State.raise_resTab (s : State) (k : Nat) (q : Src) (a x y : Nat) : (s.raise k q a x y).resTab = s.resTab := by
  obtain ⟨_, _, _, _, e⟩ := s.raise_frame k q a x y; rw [e]
@[simp] theorem State.raise_resSuspended (s : State) (k : Nat) (q : Src) (a x y : Nat) : (s.raise k q a x y).resSuspended = s.resSuspended := by
  obtain ⟨_, _, _, _, e⟩ := s.raise_frame k q a x y; rw [e]
@[simp] theorem State.raise_buckets (s : State) (k : Nat) (q : Src) (a x y : Nat) : (s.raise k q a x y).buckets = s.buckets := by
  obtain ⟨_, _, _, _, e⟩ := s.raise_frame k q a x y; rw [e]
@[simp] theorem State.raise_phtab (s : State) (k : Nat) (q : Src) (a x y : Nat) : (s.raise k q a x y).phtab = s.phtab := by
  obtain ⟨_, _, _, _, e⟩ := s.raise_frame k q a x y; rw [e]
@[simp] theorem State.raise_learn (s : State) (k : Nat) (q : Src) (a x y : Nat) : (s.raise k q a x y).learn = s.learn := by
  obtain ⟨_, _, _, _, e⟩ := s.raise_frame k q a x y; rw [e]
@[simp] theorem State.raise_order (s : State) (k : Nat) (q : Src) (a x y : Nat) : (s.raise k q a x y).order = s.order := by
  obtain ⟨_, _, _, _, e⟩ := s.raise_frame k q a x y; rw [e]
@[simp] theorem State.raise_cl (s : State) (k : Nat) (q : Src) (a x y : Nat) : (s.raise k q a x y).cl = s.cl := by
  obtain ⟨_, _, _, _, e⟩ := s.raise_frame k q a x y; rw [e]
@[simp] theorem State.raise_pw (s : State) (k : Nat) (q : Src) (a x y : Nat) : (s.raise k q a x y).pw = s.pw := by
  obtain ⟨_, _, _, _, e⟩ := s.raise_frame k q a x y; rw [e]
@[simp] theorem State.raise_thm (s : State) (k : Nat) (q : Src) (a x y : Nat) : (s.raise k q a x y).thm = s.thm := by
  obtain ⟨_, _, _, _, e⟩ := s.raise_frame k q a x y; rw [e]
@[simp] theorem State.raise_pins (s : State) (k : Nat) (q : Src) (a x y : Nat) : (s.raise k q a x y).pins = s.pins := by
  obtain ⟨_, _, _, _, e⟩ := s.raise_frame k q a x y; rw [e]
@[simp] theorem State.raise_tap (s : State) (k : Nat) (q : Src) (a x y : Nat) : (s.raise k q a x y).tap = s.tap := by
  obtain ⟨_, _, _, _, e⟩ := s.raise_frame k q a x y; rw [e]
@[simp] theorem State.raise_lnk (s : State) (k : Nat) (q : Src) (a x y : Nat) : (s.raise k q a x y).lnk = s.lnk := by
  obtain ⟨_, _, _, _, e⟩ := s.raise_frame k q a x y; rw [e]
@[simp] theorem State.raise_stw (s : State) (k : Nat) (q : Src) (a x y : Nat) : (s.raise k q a x y).stw = s.stw := by
  obtain ⟨_, _, _, _, e⟩ := s.raise_frame k q a x y; rw [e]
@[simp] theorem State.raise_priv (s : State) (k : Nat) (q : Src) (a x y : Nat) : (s.raise k q a x y).priv = s.priv := by
  obtain ⟨_, _, _, _, e⟩ := s.raise_frame k q a x y; rw [e]
@[simp] theorem State.raise_sec (s : State) (k : Nat) (q : Src) (a x y : Nat) : (s.raise k q a x y).sec = s.sec := by
  obtain ⟨_, _, _, _, e⟩ := s.raise_frame k q a x y; rw [e]
@[simp] theorem State.raise_answer (s : State) (k : Nat) (q : Src) (a x y : Nat) : (s.raise k q a x y).answer = s.answer := by
  obtain ⟨_, _, _, _, e⟩ := s.raise_frame k q a x y; rw [e]

end Sys2Proof.Machine
end

