-- ==== Sys2Proof/Laws/Mem.lean ====
section
/-!
SUPPORT. Byte memories: what a byte reads after a write or a wipe, that both keep the canonical form (log 5), and how
numbers and their little-endian bytes go over into each other.
-/

namespace Sys2Proof.Machine

/-! ### Finding a cell -/

theorem SMap.find_append {α : Type} (k : Nat) (l m : SMap α) :
    SMap.find k (l ++ m) = (SMap.find k l).or (SMap.find k m) := by
  induction l with
  | nil => rfl
  | cons p t ih =>
    obtain ⟨x, v⟩ := p
    simp only [List.cons_append, SMap.find, ih]
    split <;> rfl

theorem SMap.find_filter {α : Type} (k : Nat) (f : Nat → Bool) (m : SMap α) :
    SMap.find k (m.filter fun p => f p.1) = if f k then SMap.find k m else none := by
  induction m with
  | nil => simp [SMap.find]
  | cons p t ih =>
    obtain ⟨x, v⟩ := p
    simp only [List.filter_cons]
    by_cases h : x = k
    · subst h
      by_cases hf : f x
      · simp [hf, SMap.find]
      · simp only [hf, Bool.false_eq_true, if_false]
        rw [ih]; simp [hf]
    · by_cases hf : f x
      · simp only [hf, if_true, SMap.find, if_neg h]; exact ih
      · simp only [hf, Bool.false_eq_true, if_false, SMap.find, if_neg h]; exact ih

theorem Mem.find_cells (k a : Nat) (bs : List Byte) :
    SMap.find k (Mem.cells a bs) = if a ≤ k ∧ k < a + bs.length ∧ bs.getD (k - a) 0 ≠ 0 then some (bs.getD (k - a) 0) else none := by
  induction bs generalizing a with
  | nil => simp [Mem.cells, SMap.find]
  | cons b t ih =>
    have low : SMap.find k (Mem.cells (a + 1) t) = if a + 1 ≤ k ∧ k < a + 1 + t.length ∧ t.getD (k - (a + 1)) 0 ≠ 0 then
        some (t.getD (k - (a + 1)) 0) else none := ih (a + 1)
    by_cases h : k = a
    · subst h
      have no : SMap.find k (Mem.cells (k + 1) t) = none := by rw [low, if_neg (by omega)]
      rw [Mem.cells, Nat.sub_self, List.getD_cons_zero]
      by_cases hb : b = 0
      · rw [if_pos hb, no, if_neg (by simp [hb])]
      · rw [if_neg hb, SMap.find, if_pos rfl, if_pos ⟨Nat.le_refl k, by simp, hb⟩]
    · have step : SMap.find k (Mem.cells a (b :: t)) = SMap.find k (Mem.cells (a + 1) t) := by
        rw [Mem.cells]
        by_cases hb : b = 0
        · rw [if_pos hb]
        · rw [if_neg hb, SMap.find, if_neg (Ne.symm h)]
      rw [step, low]
      by_cases h' : a < k
      · have e : k - a = (k - (a + 1)) + 1 := by omega
        rw [e, List.getD_cons_succ, List.length_cons]
        have c : (a + 1 ≤ k ∧ k < a + 1 + t.length ∧ t.getD (k - (a + 1)) 0 ≠ 0) ↔
            (a ≤ k ∧ k < a + (t.length + 1) ∧ t.getD (k - (a + 1)) 0 ≠ 0) :=
          ⟨fun x => ⟨by omega, by omega, x.2.2⟩, fun x => ⟨by omega, by omega, x.2.2⟩⟩
        simp only [c]
      · rw [if_neg (by omega), if_neg (by omega)]

/-! ### Reading after a write -/

/-- A byte after a write of a byte string. -/
theorem Mem.byte_write (m : Mem) (a k : Nat) (bs : List Byte) :
    (m.write a bs).byte k = if a ≤ k ∧ k < a + bs.length then bs.getD (k - a) 0 else m.byte k := by
  unfold Mem.byte Mem.write
  rw [SMap.find_append, SMap.find_append, SMap.find_filter k (fun x => decide (x < a)),
    SMap.find_filter k (fun x => decide (a + bs.length ≤ x)), Mem.find_cells]
  by_cases h1 : k < a
  · rw [if_pos (by simpa using h1), if_neg (by omega), if_neg (by simp; omega), if_neg (by omega)]
    simp
  · by_cases h2 : a + bs.length ≤ k
    · rw [if_neg (by simpa using h1), if_neg (by omega), if_pos (by simpa using h2), if_neg (by omega)]
      simp
    · rw [if_neg (by simpa using h1), if_neg (show ¬ decide (a + bs.length ≤ k) = true by simpa using h2),
        if_pos (show a ≤ k ∧ k < a + bs.length by omega)]
      by_cases h3 : bs.getD (k - a) 0 = 0
      · rw [if_neg fun x => x.2.2 h3, h3]; rfl
      · rw [if_pos ⟨by omega, by omega, h3⟩]; rfl

/-- A byte after a wipe. -/
theorem Mem.byte_wipe (m : Mem) (a n k : Nat) :
    (m.wipe a n).byte k = if a ≤ k ∧ k < a + n then 0 else m.byte k := by
  unfold Mem.byte Mem.wipe
  rw [SMap.find_filter k (fun x => decide (x < a) || decide (a + n ≤ x))]
  by_cases h : a ≤ k ∧ k < a + n
  · rw [if_neg (by simp; omega), if_pos h]; rfl
  · rw [if_pos (by simp; omega), if_neg h]

theorem Mem.bytes_eq (m : Mem) (a n : Nat) : m.bytes a n = (List.range n).map fun i => m.byte (a + i) := by
  unfold Mem.bytes
  apply List.map_congr_left
  intro i hi
  have := List.mem_range.1 hi
  unfold Mem.byte Mem.slice
  rw [SMap.find_filter (a + i) (fun x => decide (a ≤ x) && decide (x < a + n))]
  rw [if_pos (by simp; omega)]

@[simp] theorem Mem.bytes_length (m : Mem) (a n : Nat) : (m.bytes a n).length = n := by simp [Mem.bytes_eq]

theorem Mem.bytes_congr {m w : Mem} {a n : Nat} (h : ∀ i, i < n → m.byte (a + i) = w.byte (a + i)) :
    m.bytes a n = w.bytes a n := by
  rw [Mem.bytes_eq, Mem.bytes_eq]
  exact List.map_congr_left fun i hi => h i (List.mem_range.1 hi)

/-- A byte string read where it was written. -/
theorem Mem.bytes_write_same (m : Mem) (a : Nat) (bs : List Byte) : (m.write a bs).bytes a bs.length = bs := by
  rw [Mem.bytes_eq]
  apply List.ext_getElem
  · simp
  · intro i h1 h2
    rw [List.getElem_map, List.getElem_range, Mem.byte_write, if_pos ⟨by omega, by omega⟩]
    rw [show a + i - a = i by omega, List.getD_eq_getElem?_getD, List.getElem?_eq_getElem h2]
    rfl

/-- A byte string read elsewhere than it was written. -/
theorem Mem.bytes_write_ne (m : Mem) (a b n : Nat) (bs : List Byte) (h : b + n ≤ a ∨ a + bs.length ≤ b) :
    (m.write a bs).bytes b n = m.bytes b n :=
  Mem.bytes_congr fun i hi => by rw [Mem.byte_write, if_neg (by omega)]

/-! ### The canonical form -/

theorem Mem.wfFrom_mono {lo hi : Nat} {m : Mem} (h : lo ≤ hi) (w : Mem.wfFrom hi m = true) : Mem.wfFrom lo m = true := by
  cases m with
  | nil => rfl
  | cons p t =>
    obtain ⟨x, b⟩ := p
    simp only [Mem.wfFrom, Bool.and_eq_true, decide_eq_true_eq] at w ⊢
    exact ⟨⟨by omega, w.1.2⟩, w.2⟩

theorem Mem.wfFrom_filter {lo : Nat} (f : Nat → Bool) {m : Mem} (w : Mem.wfFrom lo m = true) :
    Mem.wfFrom lo (m.filter fun p => f p.1) = true := by
  induction m generalizing lo with
  | nil => rfl
  | cons p t ih =>
    obtain ⟨x, b⟩ := p
    simp only [Mem.wfFrom, Bool.and_eq_true, decide_eq_true_eq] at w
    rw [List.filter_cons]
    have tail := ih w.2
    split
    · simp only [Mem.wfFrom, Bool.and_eq_true, decide_eq_true_eq]
      exact ⟨w.1, tail⟩
    · exact Mem.wfFrom_mono (by omega) tail

/-- Cells of a canonical memory that lie from an address on are canonical from it. -/
theorem Mem.wfFrom_of_ge {lo hi : Nat} {m : Mem} (w : Mem.wfFrom lo m = true) (h : ∀ p ∈ m, hi ≤ p.1) :
    Mem.wfFrom hi m = true := by
  cases m with
  | nil => rfl
  | cons p t =>
    obtain ⟨x, b⟩ := p
    simp only [Mem.wfFrom, Bool.and_eq_true, decide_eq_true_eq] at w ⊢
    exact ⟨⟨h (x, b) (by simp), w.1.2⟩, w.2⟩

theorem Mem.wfFrom_append {lo mid : Nat} {l m : Mem} (hl : Mem.wfFrom lo l = true) (hm : Mem.wfFrom mid m = true)
    (hlo : lo ≤ mid) (h : ∀ p ∈ l, p.1 < mid) : Mem.wfFrom lo (l ++ m) = true := by
  induction l generalizing lo with
  | nil => exact Mem.wfFrom_mono hlo hm
  | cons p t ih =>
    obtain ⟨x, b⟩ := p
    simp only [Mem.wfFrom, Bool.and_eq_true, decide_eq_true_eq] at hl
    simp only [List.cons_append, Mem.wfFrom, Bool.and_eq_true, decide_eq_true_eq]
    have := h (x, b) (by simp)
    exact ⟨hl.1, ih hl.2 (by omega) fun p hp => h p (by simp [hp])⟩

theorem Mem.cells_wf (a : Nat) (bs : List Byte) :
    Mem.wfFrom a (Mem.cells a bs) = true ∧ ∀ p ∈ Mem.cells a bs, p.1 < a + bs.length := by
  induction bs generalizing a with
  | nil => exact ⟨rfl, by simp [Mem.cells]⟩
  | cons b t ih =>
    obtain ⟨w, h⟩ := ih (a + 1)
    have h' : ∀ p ∈ Mem.cells (a + 1) t, p.1 < a + (b :: t).length := fun p hp => by
      have := h p hp; rw [List.length_cons]; omega
    by_cases hb : b = 0
    · simp only [Mem.cells, hb, if_true]
      exact ⟨Mem.wfFrom_mono (by omega) w, by simpa [hb] using h'⟩
    · simp only [Mem.cells, hb, if_false]
      refine ⟨?_, ?_⟩
      · simp only [Mem.wfFrom, Bool.and_eq_true, decide_eq_true_eq]
        exact ⟨⟨Nat.le_refl a, by simpa using hb⟩, w⟩
      · intro p hp
        rcases List.mem_cons.1 hp with rfl | hp
        · simp
        · exact h' p hp

/-- A write keeps the canonical form. -/
theorem Mem.write_wf {m : Mem} (h : m.wf = true) (a : Nat) (bs : List Byte) : (m.write a bs).wf = true := by
  unfold Mem.wf Mem.write at *
  have hi : Mem.wfFrom (a + bs.length) (m.filter fun p => decide (a + bs.length ≤ p.1)) = true :=
    Mem.wfFrom_of_ge (Mem.wfFrom_filter (fun x => decide (a + bs.length ≤ x)) h) fun p hp => by
      simpa using (List.mem_filter.1 hp).2
  have mid : Mem.wfFrom a (Mem.cells a bs ++ m.filter fun p => decide (a + bs.length ≤ p.1)) = true :=
    Mem.wfFrom_append (Mem.cells_wf a bs).1 hi (by omega) (Mem.cells_wf a bs).2
  rw [List.append_assoc]
  exact Mem.wfFrom_append (Mem.wfFrom_filter (fun x => decide (x < a)) h) mid (by omega) fun p hp => by
    simpa using (List.mem_filter.1 hp).2

/-- A wipe keeps the canonical form. -/
theorem Mem.wipe_wf {m : Mem} (h : m.wf = true) (a n : Nat) : (m.wipe a n).wf = true :=
  Mem.wfFrom_filter (fun x => decide (x < a) || decide (a + n ≤ x)) h

theorem reset_mem_wf : State.reset.mem.wf = true := rfl

/-! ### Numbers and bytes -/

@[simp] theorem natLe_length (n v : Nat) : (natLe n v).length = n := by
  induction n generalizing v with
  | zero => rfl
  | succ n ih => simp [natLe, ih]

theorem leNat_lt (bs : List Byte) : leNat bs < 256 ^ bs.length := by
  induction bs with
  | nil => simp [leNat]
  | cons b t ih =>
    have := b.isLt
    simp only [leNat, List.length_cons, Nat.pow_succ]
    omega

/-- A number that fits, through its bytes. -/
theorem leNat_natLe (n v : Nat) : leNat (natLe n v) = v % 256 ^ n := by
  induction n generalizing v with
  | zero => simp [natLe, leNat, Nat.mod_one]
  | succ n ih =>
    simp only [natLe, leNat, ih, BitVec.toNat_ofNat]
    rw [show 256 ^ (n + 1) = 256 * 256 ^ n from Nat.pow_succ', Nat.mod_mul]

/-- A byte string through its number. -/
theorem natLe_leNat (bs : List Byte) : natLe bs.length (leNat bs) = bs := by
  induction bs with
  | nil => rfl
  | cons b t ih =>
    have := b.isLt
    simp only [List.length_cons, natLe, leNat]
    rw [show (b.toNat + 256 * leNat t) / 256 = leNat t by omega, ih]
    congr 1
    apply BitVec.eq_of_toNat_eq
    rw [BitVec.toNat_ofNat]
    omega

end Sys2Proof.Machine
end

