-- ==== Sys2Proof/Laws/MemOps.lean ====
section
/-!
SUPPORT. What every operation over memory keeps: the queue of waiting commands, the reference ticks, the fuses, and the
canonical form of memory. Each shared operation has one lemma here, for use in place of its definition.
-/

namespace Sys2Proof.Machine

/-- t keeps of s what no operation over memory touches. -/
structure State.Keeps (s t : State) : Prop where
  pending : t.pending = s.pending
  ticks : t.ticks = s.ticks
  fuse : t.fuse = s.fuse
  wf : s.mem.wf = true → t.mem.wf = true

namespace State.Keeps

protected theorem refl (s : State) : s.Keeps s := ⟨rfl, rfl, rfl, id⟩
protected theorem comp {s t u : State} (h : s.Keeps t) (k : t.Keeps u) : s.Keeps u :=
  ⟨k.pending.trans h.pending, k.ticks.trans h.ticks, k.fuse.trans h.fuse, fun w => k.wf (h.wf w)⟩
/-- An update of fields that leaves those four. -/
theorem of_eq {s t : State} (h1 : t.pending = s.pending) (h2 : t.ticks = s.ticks) (h3 : t.fuse = s.fuse)
    (h4 : t.mem = s.mem) : s.Keeps t := ⟨h1, h2, h3, fun w => h4 ▸ w⟩
/-- A write into memory. -/
theorem mem_write {s t : State} (a : Nat) (bs : List Byte) (h1 : t.pending = s.pending) (h2 : t.ticks = s.ticks)
    (h3 : t.fuse = s.fuse) (h4 : t.mem = s.mem.write a bs) : s.Keeps t :=
  ⟨h1, h2, h3, fun w => h4 ▸ Mem.write_wf w a bs⟩
theorem mem_wipe {s t : State} (a n : Nat) (h1 : t.pending = s.pending) (h2 : t.ticks = s.ticks)
    (h3 : t.fuse = s.fuse) (h4 : t.mem = s.mem.wipe a n) : s.Keeps t :=
  ⟨h1, h2, h3, fun w => h4 ▸ Mem.wipe_wf w a n⟩
/-- A fold of operations that each keep it. -/
theorem foldl {α : Type} (f : State → α → State) (h : ∀ (s : State) (a : α), s.Keeps (f s a)) (l : List α) :
    ∀ s : State, s.Keeps (l.foldl f s) := by
  induction l with
  | nil => exact fun s => .refl s
  | cons a l ih => exact fun s => (h s a).comp (ih _)
/-- A fold that carries an answer beside the state. -/
theorem foldl_snd {α β : Type} (f : β × State → α → β × State) (h : ∀ (r : β × State) (a : α), r.2.Keeps (f r a).2)
    (l : List α) : ∀ (b : β) (s : State), s.Keeps (l.foldl f (b, s)).2 := by
  induction l with
  | nil => exact fun _ s => .refl s
  | cons a l ih => exact fun b s => (h (b, s) a).comp (ih (f (b, s) a).1 (f (b, s) a).2)

end State.Keeps

open State.Keeps

/-! ### Registers and events -/

theorem State.wr_keeps (s : State) (a v : Nat) : s.Keeps (s.wr a v) := of_eq rfl rfl rfl rfl
theorem State.wf_keeps (s : State) (a lo n v : Nat) : s.Keeps (s.wf a lo n v) := of_eq rfl rfl rfl rfl
theorem State.flag_keeps (s : State) (a b c n : Nat) : s.Keeps (s.flag a b c n) := by
  unfold State.flag; split <;> exact of_eq rfl rfl rfl rfl
theorem State.setChan_keeps (s : State) (c : Nat) (x : Chan) : s.Keeps (s.setChan c x) := of_eq rfl rfl rfl rfl
theorem State.enterFault_keeps (s : State) : s.Keeps s.enterFault := by
  unfold State.enterFault; split <;> exact of_eq rfl rfl rfl rfl
theorem State.loseRec_keeps (s : State) : s.Keeps s.loseRec :=
  (State.flag_keeps s R.evtStat 0 R.evtLostcnt 1).comp (of_eq rfl rfl rfl rfl)
theorem State.sendRec_keeps (s : State) (r : EvRec) : s.Keeps (s.sendRec r) := by
  unfold State.sendRec
  extract_lets u q
  split
  · exact State.loseRec_keeps s
  · exact of_eq rfl rfl rfl rfl
theorem State.raiseAs_keeps (s : State) (sev : Sev) (code : Nat) (q : Src) (arg d0 d1 : Nat) (hold : Bool) :
    s.Keeps (s.raiseAs sev code q arg d0 d1 hold) := by
  unfold State.raiseAs
  extract_lets r s1
  have h : s.Keeps s1 := State.sendRec_keeps s r
  clear_value s1
  split
  · refine h.comp (State.Keeps.comp ?_ (State.enterFault_keeps _))
    exact of_eq rfl rfl rfl rfl
  · split
    · exact h.comp (of_eq rfl rfl rfl rfl)
    · exact h
  · exact h
theorem State.raise_keeps (s : State) (code : Nat) (q : Src) (arg d0 d1 : Nat) : s.Keeps (s.raise code q arg d0 d1) :=
  State.raiseAs_keeps ..
theorem State.raiseHeld_keeps (s : State) (code : Nat) (q : Src) (arg d0 d1 : Nat) :
    s.Keeps (s.raiseHeld code q arg d0 d1) := State.raiseAs_keeps ..
theorem State.raiseLimited_keeps (s : State) (key gap code : Nat) (q : Src) (arg n : Nat) (mk : Nat → Nat × Nat) :
    s.Keeps (s.raiseLimited key gap code q arg n mk) := by
  unfold State.raiseLimited
  extract_lets put
  have h : ∀ (t : State) v, t.Keeps (put t v) := fun t v => of_eq rfl rfl rfl rfl
  clear_value put
  split
  · exact (State.raise_keeps s ..).comp (h _ _)
  · split
    · exact (State.raise_keeps s ..).comp (h _ _)
    · exact h _ _

/-! ### The array code -/

theorem State.moveRow_keeps (s : State) (ch row : Nat) : s.Keeps (s.moveRow ch row) := by
  unfold State.moveRow
  extract_lets x src drop
  split
  · exact (State.setChan_keeps s ..).comp ((State.flag_keeps ..).comp (State.raise_keeps ..))
  · exact (State.setChan_keeps s ..).comp ((State.flag_keeps ..).comp (State.raise_keeps ..))
  · split
    · exact (State.setChan_keeps s ..).comp ((State.flag_keeps ..).comp (State.raise_keeps ..))
    · exact State.setChan_keeps s ..
theorem State.corrected_keeps (s : State) (ch row : Nat) : s.Keeps (s.corrected ch row) :=
  (State.setChan_keeps s ..).comp ((State.flag_keeps ..).comp (State.raiseLimited_keeps ..))
theorem wipes_wf (l : List Nat) (n : Nat) : ∀ m : Mem, m.wf = true → (l.foldl (fun m g => Mem.wipe m g n) m).wf = true := by
  induction l with
  | nil => exact fun _ h => h
  | cons a l ih => exact fun m h => ih _ (Mem.wipe_wf h a n)
theorem State.lostGrains_keeps (s : State) (ch row : Nat) (grains : List Nat) : s.Keeps (s.lostGrains ch row grains) := by
  unfold State.lostGrains
  extract_lets s1 wiped q s2 s3 x s4 s5
  have h1 : s.Keeps s1 := State.moveRow_keeps s ch row
  have h2 : s1.Keeps s2 := ⟨rfl, rfl, rfl, fun w => wipes_wf _ _ _ w⟩
  have h3 : s2.Keeps s3 := State.wr_keeps ..
  have h4 : s3.Keeps s4 := State.setChan_keeps ..
  have h5 : s4.Keeps s5 := State.flag_keeps ..
  exact h1.comp (h2.comp (h3.comp (h4.comp (h5.comp (foldl _ (fun s g => State.raiseHeld_keeps s ..) _ _)))))
theorem State.dropLine_keeps (s : State) (l : Nat) : s.Keeps (s.dropLine l) := of_eq rfl rfl rfl rfl
theorem State.lostLine_keeps (s : State) (line : Nat) : s.Keeps (s.lostLine line) := by
  unfold State.lostLine
  extract_lets k s1 v s2 s3
  have h1 : s.Keeps s1 := State.dropLine_keeps s line
  have h2 : s1.Keeps s2 := mem_wipe (line * 256) 256 rfl rfl rfl rfl
  have h3 : s2.Keeps s3 := State.flag_keeps ..
  exact h1.comp (h2.comp (h3.comp (State.raiseHeld_keeps ..)))
theorem State.eccHbm_keeps (s : State) (a n : Nat) (errs : Errs) : s.Keeps (s.eccHbm a n errs).2 := by
  unfold State.eccHbm
  extract_lets hits lines lines2 s1 arr place s2 s3 ue rows s4
  have h1 : s.Keeps s1 := foldl _ (fun s l => State.lostLine_keeps s l) _ s
  have h2 : s1.Keeps s2 := foldl _ (fun s l => State.dropLine_keeps s l) _ _
  have h3 : s2.Keeps s3 := foldl _ (fun s e => State.corrected_keeps s ..) _ _
  have h4 : s3.Keeps s4 := foldl _ (fun s e => State.lostGrains_keeps s ..) _ _
  exact h1.comp (h2.comp (h3.comp h4))
theorem State.eccHost_keeps (s : State) (hpa n : Nat) (errs : Errs) : s.Keeps (s.eccHost hpa n errs).2 := by
  unfold State.eccHost
  extract_lets arr ue s1
  refine foldl _ (fun s e => ?_) _ s
  extract_lets s2
  have h : s.Keeps s2 := mem_wipe (hostBase + e.1 * 32) 32 rfl rfl rfl rfl
  exact h.comp (State.raiseHeld_keeps ..)
theorem State.deliver_keeps (s : State) (a n base : Nat) (wrong : List Nat) : s.Keeps (s.deliver a n base wrong).2 := by
  unfold State.deliver
  extract_lets bs
  split
  · exact .refl s
  · exact of_eq rfl rfl rfl rfl
theorem State.mergeWrong_keeps (s : State) (base : Nat) (cws : List Nat) : s.Keeps (s.mergeWrong base cws) := by
  unfold State.mergeWrong
  refine foldl _ (fun s w => ?_) _ s
  have h := State.deliver_keeps s (base + 32 * w) 32 base [w]
  revert h
  generalize s.deliver (base + 32 * w) 32 base [w] = r
  exact fun h => h.comp (mem_write (base + 32 * w) r.1 rfl rfl rfl rfl)

/-! ### Lines and requests of the slices -/

theorem State.touch_keeps (s : State) (l : Nat) (d : Bool) : s.Keeps (s.touch l d) := of_eq rfl rfl rfl rfl
theorem State.touchAll_keeps (s : State) (a n : Nat) (d : Bool) : s.Keeps (s.touchAll a n d) :=
  foldl _ (fun s l => State.touch_keeps s l d) _ s
theorem State.sendReq_keeps (s : State) (who : Client) (k : Nat) : s.Keeps (s.sendReq who k) := by
  unfold State.sendReq
  extract_lets p q w s1
  split
  · split <;> exact of_eq rfl rfl rfl rfl
  · exact of_eq rfl rfl rfl rfl
theorem State.takeReq_keeps (s : State) (k : Nat) : s.Keeps (s.takeReq k) := by
  unfold State.takeReq
  split
  · exact .refl s
  · exact of_eq rfl rfl rfl rfl
theorem State.request_keeps (s : State) (who : Client) (a : Nat) : s.Keeps (s.request who a) :=
  (State.sendReq_keeps ..).comp (State.takeReq_keeps ..)
theorem State.sendAll_keeps (s : State) (who : Client) (ps : List (Nat × Nat)) : s.Keeps (s.sendAll who ps) :=
  foldl _ (fun s _p => State.sendReq_keeps s who _) _ s

/-! ### Block transactions and combining buffers -/

theorem State.ckUpdate_keeps (s : State) (a : Nat) (bs : List Byte) : s.Keeps (s.ckUpdate a bs) := by
  unfold State.ckUpdate
  extract_lets b p e
  split
  · exact .refl s
  · exact mem_write _ _ rfl rfl rfl rfl
theorem State.blockWrite_keeps (s : State) (a : Nat) (bs : List Byte) : s.Keeps (s.blockWrite a bs) :=
  ((State.ckUpdate_keeps s a bs).comp (State.touchAll_keeps _ _ _ _)).comp (mem_write a bs rfl rfl rfl rfl)
theorem State.crcFail_keeps (s : State) (who : Client) (tag b : Nat) : s.Keeps (s.crcFail who tag b) := by
  unfold State.crcFail
  split
  rename_i u i src _
  extract_lets loc again q s1 s2
  have h1 : s.Keeps s1 := of_eq rfl rfl rfl rfl
  have h2 : s1.Keeps s2 := by
    show s1.Keeps (match clientClus who with
      | some c => _
      | none => _)
    split <;> exact (State.flag_keeps ..).comp (State.wr_keeps ..)
  exact h1.comp (h2.comp (State.raiseAs_keeps ..))
theorem State.applyComb_keeps (s : State) (e : Comb) (errs : Errs) : s.Keeps (s.applyComb e errs) := by
  unfold State.applyComb
  extract_lets w base
  have h0 := State.eccHbm_keeps s base 256 errs
  split
  rename_i o s0 he
  rw [he] at h0
  split
  · exact h0
  · extract_lets s1 old new ovs cur upd s2 k
    have h1 : s0.Keeps s1 := State.mergeWrong_keeps ..
    have h2 : s1.Keeps s2 := State.blockWrite_keeps ..
    have h : s.Keeps s2 := h0.comp (h1.comp h2)
    split
    · exact h
    · exact h.comp ((State.flag_keeps ..).comp (State.raise_keeps ..))
theorem State.closeRange_keeps (s : State) (a n : Nat) (errs : Errs) : s.Keeps (s.closeRange a n errs) := by
  unfold State.closeRange
  extract_lets k es q s1
  have h1 : s.Keeps s1 := of_eq rfl rfl rfl rfl
  split
  · exact h1.comp (foldl _ (fun s e => State.applyComb_keeps s e errs) _ _)
  · exact .refl s
theorem State.closeAll_keeps (s : State) (errs : Errs) : s.Keeps (s.closeAll errs) := by
  unfold State.closeAll
  extract_lets es
  refine State.Keeps.comp ?_ (foldl _ (fun s e => State.applyComb_keeps s e errs) _ _)
  exact of_eq rfl rfl rfl rfl
theorem State.combine_keeps (s : State) (line : Nat) (op : RedOp) (el : Elem) (lanes : List (Nat × Int)) (errs : Errs) :
    s.Keeps (s.combine line op el lanes errs) := by
  unfold State.combine
  extract_lets k d es put s2 l s3
  have hp : ∀ (t : State) l, t.Keeps (put t l) := fun t l => of_eq rfl rfl rfl rfl
  clear_value put
  split
  · split
    · extract_lets ls
      exact (hp _ _).comp (of_eq rfl rfl rfl rfl)
    · extract_lets u
      have h2 : s.Keeps u := (hp _ _).comp (State.applyComb_keeps ..)
      exact h2.comp (hp _ _)
  · have h2 : s.Keeps s2 := by
      unfold s2
      clear_value es
      cases es with
      | nil => exact .refl _
      | cons e l =>
        dsimp only
        split
        · exact (hp _ _).comp (State.applyComb_keeps ..)
        · exact .refl _
    have h3 : s.Keeps s3 := h2.comp (hp _ _)
    split
    · exact h3.comp (State.wf_keeps ..)
    · exact h3

/-! ### Reads and writes -/

theorem State.setClass_keeps (s : State) (a n k : Nat) : s.Keeps (s.setClass a n k) :=
  by
  unfold State.setClass
  refine foldl _ (fun s p => ?_) _ s
  exact of_eq rfl rfl rfl rfl
theorem State.readHbmPiece_keeps (s : State) (who : Client) (tag a n : Nat) (errs : Errs) :
    s.Keeps (s.readHbmPiece who tag a n errs).2 := by
  unfold State.readHbmPiece
  extract_lets b ck have_
  split
  rename_i ra rn _
  extract_lets left s1
  have h1 : s.Keeps s1 := (State.takeReq_keeps ..).comp (State.closeRange_keeps ..)
  have h2 := State.eccHbm_keeps s1 ra rn left
  split
  rename_i e s2 he
  rw [he] at h2
  split
  · exact h1.comp h2
  · extract_lets s3
    have h3 : s2.Keeps s3 := State.touchAll_keeps ..
    split
    rename_i bs s4 hd
    have h4 : s3.Keeps s4 := by
      have h : (State.deliver ..).2 = s4 := congrArg Prod.snd hd
      exact h ▸ State.deliver_keeps ..
    have h5 := h1.comp (h2.comp (h3.comp h4))
    extract_lets out
    split
    · split
      · refine h5.comp ?_
        dsimp only
        split
        · exact of_eq rfl rfl rfl rfl
        · exact .refl _
      · exact h5.comp (State.crcFail_keeps ..)
    · exact h5
theorem State.readHostRange_keeps (s : State) (hpa n : Nat) (errs : Errs) : s.Keeps (s.readHostRange hpa n errs).2 := by
  unfold State.readHostRange
  have h := State.eccHost_keeps s hpa n errs
  split
  rename_i e s1 he
  rw [he] at h
  split
  · exact h
  · exact h.comp (State.deliver_keeps s1 (hostBase + hpa) n hostBase e.wrong)
theorem State.memRead_keeps (s : State) (who : Client) (tag a n : Nat) (errs : Errs) (noiseOk : Bool) :
    s.Keeps (s.memRead who tag a n errs noiseOk).2 := by
  unfold State.memRead
  split
  · exact .refl s
  · split
    · exact State.readHostRange_keeps ..
    · refine (State.sendAll_keeps s who _).comp (foldl_snd _ (fun r p => ?_) _ _ _)
      have h := State.readHbmPiece_keeps r.2 who tag p.1 p.2 errs
      split
      · exact State.takeReq_keeps ..
      · split
        rename_i q s1 hq
        rw [hq] at h
        split <;> exact h
theorem State.writeHbmPiece_keeps (s : State) (a : Nat) (bs : List Byte) (k : Nat) (errs : Errs) :
    s.Keeps (s.writeHbmPiece a bs k errs).2 := by
  unfold State.writeHbmPiece
  extract_lets left s1
  have h1 : s.Keeps s1 := (State.takeReq_keeps ..).comp (State.closeRange_keeps ..)
  have h2 := State.eccHbm_keeps s1 (a / 4096 * 4096) 4096 (Errs.only left (partialCw a bs.length))
  split
  rename_i e s2 he
  rw [he] at h2
  split
  · exact h1.comp h2
  · exact h1.comp (h2.comp ((State.mergeWrong_keeps s2 0 e.wrong).comp
      ((State.blockWrite_keeps _ a bs).comp (State.setClass_keeps ..))))
theorem State.writeHostRange_keeps (s : State) (hpa : Nat) (bs : List Byte) (k : Nat) (errs : Errs) :
    s.Keeps (s.writeHostRange hpa bs k errs).2 := by
  unfold State.writeHostRange
  have h := State.eccHost_keeps s hpa bs.length (Errs.only errs (partialCw hpa bs.length))
  split
  rename_i e s1 he
  rw [he] at h
  split
  · exact h
  · extract_lets s2
    have h2 : s1.Keeps s2 := State.mergeWrong_keeps ..
    refine h.comp (h2.comp (State.Keeps.comp ?_ (State.setClass_keeps ..)))
    exact mem_write _ _ rfl rfl rfl rfl
theorem State.memWrite_keeps (s : State) (who : Client) (a : Nat) (bs : List Byte) (k : Nat) (errs : Errs) :
    s.Keeps (s.memWrite who a bs k errs).2 := by
  unfold State.memWrite
  split
  · exact State.writeHostRange_keeps ..
  · refine (State.sendAll_keeps s who _).comp (foldl_snd _ (fun r p => ?_) _ _ _)
    split
    · exact State.takeReq_keeps ..
    · exact State.writeHbmPiece_keeps ..
theorem State.writeAll_keeps (s : State) (who : Client) (rs : List (Nat × List Byte)) (k : Nat) (errs : Errs) :
    s.Keeps (s.writeAll who rs k errs).2 := by
  unfold State.writeAll
  refine foldl_snd _ (fun r p => ?_) _ _ _
  split
  · exact .refl _
  · exact State.memWrite_keeps ..
theorem State.readAll_keeps (s : State) (who : Client) (tag : Nat) (rs : List (Nat × Nat)) (errs : Errs) :
    s.Keeps (s.readAll who tag rs errs).2.2 := by
  unfold State.readAll
  have h : ∀ (l : List (Nat × Nat)) (r : Nat × List (List Byte) × State), r.2.2.Keeps (l.foldl
      (fun (r : Nat × List (List Byte) × State) p =>
        if r.1 != 0 then r
        else
          let (q, s) := r.2.2.memRead who tag p.1 p.2 errs
          (q.1, r.2.1 ++ [q.2], s)) r).2.2 := by
    intro l
    induction l with
    | nil => exact fun r => .refl _
    | cons p l ih =>
      refine fun r => State.Keeps.comp ?_ (ih _)
      have h := State.memRead_keeps r.2.2 who tag p.1 p.2 errs false
      dsimp only
      split
      · exact .refl _
      · exact h
  exact h rs (0, [], s)

/-! ### Rings -/

theorem State.ringStore_keeps (s : State) (r : Nat) : s.Keeps (s.ringStore r) := mem_write _ _ rfl rfl rfl rfl
theorem State.setRing_keeps (s : State) (r : Nat) (x : Ring) : s.Keeps (s.setRing r x) := of_eq rfl rfl rfl rfl
theorem State.ringRec_keeps (s : State) (r : Nat) (mk : Nat → Block16) : s.Keeps (s.ringRec r mk) := by
  unfold State.ringRec
  extract_lets x lg k at_ pass s1
  have h : s.Keeps s1 := mem_write _ _ rfl rfl rfl rfl
  exact h.comp ((State.setRing_keeps ..).comp (State.ringStore_keeps ..))
theorem State.ringRelease_keeps (s : State) (r : Nat) : s.Keeps (s.ringRelease r) :=
  (State.setRing_keeps s ..).comp (State.ringStore_keeps ..)

end Sys2Proof.Machine
end

