-- ==== Sys2Proof/Laws/Vec.lean ====
section
/-!
SUPPORT. Vector registers: what a register reads at each width after a write in some lanes, and what an instruction that
retires changes.
-/

namespace Sys2Proof.Machine

/-! ### Integers in n bits -/

theorem sx_trunc {n : Nat} (hn : 0 < n) {v : Int} (h1 : -(2 ^ (n - 1) : Nat) ≤ v) (h2 : v < (2 ^ (n - 1) : Nat)) :
    sx n (trunc n v) = v := by
  have hp : (2 ^ n : Nat) = 2 * 2 ^ (n - 1) := by
    conv => lhs; rw [show n = (n - 1) + 1 by omega, Nat.pow_succ]
    omega
  have hpos : 0 < 2 ^ (n - 1) := Nat.two_pow_pos _
  generalize hk : 2 ^ (n - 1) = k at *
  simp only [sx, trunc, hp, hk]
  have hm : (v % ((2 * k : Nat) : Int)) = if v < 0 then v + 2 * k else v := by
    split
    · rw [← Int.add_emod_right, Int.emod_eq_of_lt] <;> push_cast <;> omega
    · rw [Int.emod_eq_of_lt] <;> push_cast <;> omega
  rw [hm]
  split
  · have : ((v + 2 * (k : Int)).toNat) % (2 * k) = (v + 2 * k).toNat := Nat.mod_eq_of_lt (by omega)
    rw [this]; split <;> (push_cast; omega)
  · have : (v.toNat) % (2 * k) = v.toNat := Nat.mod_eq_of_lt (by omega)
    rw [this]; split <;> (push_cast; omega)

theorem trunc_lt (n : Nat) (v : Int) : trunc n v < 2 ^ n := by
  have : (0 : Int) < ((2 ^ n : Nat) : Int) := by exact_mod_cast Nat.two_pow_pos n
  have h1 := Int.emod_nonneg v (Int.ne_of_gt this)
  have h2 := Int.emod_lt_of_pos v this
  unfold trunc; omega

/-! ### Flags -/

theorem packBits_testBit (l : List Bool) (i : Nat) : (packBits l).testBit i = l.getD i false := by
  induction l generalizing i with
  | nil => simp [packBits]
  | cons b t ih =>
    have e : packBits (b :: t) = 2 * packBits t + (if b then 1 else 0) := rfl
    cases i with
    | zero => rw [e]; cases b <;> simp [Nat.testBit_zero]
    | succ i =>
      rw [e, Nat.testBit_succ]
      have : (2 * packBits t + (if b = true then 1 else 0)) / 2 = packBits t := by split <;> omega
      rw [this, ih]; simp

theorem newFlags_get (old : BitVec 512) (on : Nat → Bool) (fs : List Bool) (i : Nat) (hi : i < 512) (hl : i < fs.length) :
    (newFlags old on fs).getLsbD i = if on (i % 256) then fs[i] else old.getLsbD i := by
  simp only [newFlags, BitVec.getLsbD_ofNat, hi, decide_true, Bool.true_and, packBits_testBit]
  simp [hl]

theorem newLanes_get (old : Vector (BitVec 32) 256) (on : Nat → Bool) (xs : List (BitVec 32)) (l : Nat) (hl : l < 256) :
    (newLanes old on xs)[l] = if on l then xs.getD l 0 else old[l] := by
  simp [newLanes]

/-! ### Registers at their widths -/

theorem els_length (e : VeSt) (wid n : Nat) : (e.els wid n).length = elCount wid := by
  unfold VeSt.els elCount
  split
  · simp [VReg.halves]
  · split <;> simp [VReg.words, pairWords]

/-- An element of a register by its number. -/
theorem halves_get (r : VReg) (i : Nat) (hi : i < 512) : r.halves[i]? =
    some (sx 16 (fld (r.lanes[i % 256]'(by omega)) (16 * (i / 256)) 16), r.flags.getLsbD i) := by
  simp only [VReg.halves, List.getElem?_map, List.getElem?_zipIdx, List.getElem?_append]
  by_cases h : i < 256
  · have h1 : i % 256 = i := by omega
    have h2 : i / 256 = 0 := by omega
    simp [h, h1, h2]
  · have h1 : i % 256 = i - 256 := by omega
    have h2 : i / 256 = 1 := by omega
    have h3 : i - 256 < 256 := by omega
    simp [h, h1, h2, h3]

theorem words_get (r : VReg) (i : Nat) (hi : i < 256) : r.words[i]? =
    some (sx 32 (r.lanes[i]).toNat, r.flags.getLsbD i || r.flags.getLsbD (256 + i)) := by
  simp [VReg.words, hi]

theorem pairWords_get (a b : VReg) (i : Nat) (hi : i < 256) : (pairWords a b)[i]? =
    some (sx 64 ((a.lanes[i]).toNat + 2 ^ 32 * (b.lanes[i]).toNat), a.flags.getLsbD i || a.flags.getLsbD (256 + i)) := by
  simp [pairWords, hi]

/-- Halves of the lanes written by a list of 512 elements. -/
def halfLanes (xs : List VEl) : List (BitVec 32) :=
  List.zipWith (fun a b => BitVec.ofNat 32 (trunc 16 a.1 + 2 ^ 16 * trunc 16 b.1)) (xs.take 256) (xs.drop 256)

theorem put_vr (e : VeSt) (wid n : Nat) (rx : Int) (on : Nat → Bool) (xs : List VEl) :
    (e.put wid n rx on xs).vr n = ⟨newLanes (e.vr n).lanes on (if wid = 0 then halfLanes xs
        else xs.map fun a => BitVec.ofNat 32 (trunc 32 a.1)), BitVec.ofNat 16 (trunc 16 rx),
      newFlags (e.vr n).flags on (if wid = 0 then xs.map (·.2) else xs.map (·.2) ++ xs.map (·.2))⟩ := by
  by_cases h : wid = 2
  · subst h
    simp only [VeSt.put, VeSt.vr]
    simp [SMap.val_put]
  · have h' : (wid != 2) = true := by simpa using h
    simp only [VeSt.put, h', if_true, VeSt.vr, SMap.val_put_same, halfLanes]

theorem put_vr_next (e : VeSt) (n : Nat) (rx : Int) (on : Nat → Bool) (xs : List VEl) :
    (e.put 2 n rx on xs).vr (n + 1) = ⟨newLanes (e.vr (n + 1)).lanes on (xs.map fun a =>
        BitVec.ofNat 32 (trunc 64 a.1 / 2 ^ 32)), BitVec.ofNat 16 (trunc 16 rx),
      newFlags (e.vr (n + 1)).flags on (xs.map (·.2) ++ xs.map (·.2))⟩ := by
  simp [VeSt.put, VeSt.vr]

theorem put_vr_ne (e : VeSt) (wid n : Nat) (rx : Int) (on : Nat → Bool) (xs : List VEl) {k : Nat} (h1 : k ≠ n)
    (h2 : wid = 2 → k ≠ n + 1) : (e.put wid n rx on xs).vr k = e.vr k := by
  by_cases h : wid = 2
  · subst h
    simp [VeSt.put, VeSt.vr, SMap.val_put_ne _ _ _ h1, SMap.val_put_ne _ _ _ (h2 rfl)]
  · have h' : (wid != 2) = true := by simpa using h
    simp [VeSt.put, h', VeSt.vr, SMap.val_put_ne _ _ _ h1]

/-- A write of the registers changes them alone. -/
theorem put_frame (e : VeSt) (wid n : Nat) (rx : Int) (on : Nat → Bool) (xs : List VEl) :
    e.put wid n rx on xs = { e with v := (e.put wid n rx on xs).v } := by
  unfold VeSt.put; dsimp only; split <;> rfl

theorem put_rx (e : VeSt) (wid n : Nat) {rx : Int} (h1 : -32768 ≤ rx) (h2 : rx ≤ 32767) (on : Nat → Bool)
    (xs : List VEl) : (e.put wid n rx on xs).rx n = rx := by
  have hlt := trunc_lt 16 rx
  simp only [VeSt.rx, put_vr, BitVec.toNat_ofNat, Nat.mod_eq_of_lt hlt]
  exact sx_trunc (by omega) (by simpa using h1) (by simp; omega)

/-- What a register reads after a write at the same width: the new elements in the lanes written, the old elsewhere. -/
theorem els_put (e : VeSt) (wid n : Nat) (rx : Int) (on : Nat → Bool) (xs : List VEl) (hw : wid ≤ 2)
    (hx : xs.length = elCount wid) (hr : ∀ a ∈ xs, inRange (widBits wid) a.1) (i : Nat) (hi : i < elCount wid) :
    ((e.put wid n rx on xs).els wid n)[i]? = if on (i % 256) then xs[i]? else (e.els wid n)[i]? := by
  have hxi : i < xs.length := by omega
  have hf := hr _ (List.getElem_mem hxi)
  by_cases h0 : wid = 0
  · subst h0
    simp only [elCount, if_true] at hi hx
    simp only [VeSt.els, if_true, halves_get _ _ hi, put_vr, newLanes_get _ _ _ _ (Nat.mod_lt i (by decide : 0 < 256))]
    rw [newFlags_get _ _ _ _ hi (by simpa using hxi)]
    split
    · rename_i hon
      have hz : (halfLanes xs).getD (i % 256) 0 =
          BitVec.ofNat 32 (trunc 16 (xs[i % 256]'(by omega)).1 + 2 ^ 16 * trunc 16 (xs[i % 256 + 256]'(by omega)).1) := by
        have hl : i % 256 < 256 := Nat.mod_lt _ (by decide)
        simp [halfLanes, List.getD_eq_getElem?_getD, List.getElem?_zipWith, hl,
          List.getElem?_eq_getElem (show i % 256 < xs.length by omega),
          List.getElem?_eq_getElem (show 256 + i % 256 < xs.length by omega), Nat.add_comm]
      have t1 := trunc_lt 16 (xs[i % 256]'(by omega)).1
      have t2 := trunc_lt 16 (xs[i % 256 + 256]'(by omega)).1
      rw [hz, List.getElem?_eq_getElem hxi]
      congr 1
      refine Prod.ext ?_ (by simp)
      have hv : inRange 16 xs[i].1 := hf
      by_cases h : i < 256
      · have h1 : i % 256 = i := by omega
        have h2 : i / 256 = 0 := by omega
        simp only [h1, h2, fld, BitVec.toNat_ofNat] at t1 t2 ⊢
        rw [Nat.mul_zero, Nat.shiftRight_zero, Nat.mod_mod_of_dvd _ (by decide : 2 ^ 16 ∣ 2 ^ 32),
          Nat.add_mul_mod_self_left, Nat.mod_eq_of_lt t1]
        exact sx_trunc (by omega) hv.1 hv.2
      · have h1 : i % 256 + 256 = i := by omega
        have h2 : i / 256 = 1 := by omega
        simp only [h2, fld, BitVec.toNat_ofNat]
        simp only [h1] at t2 ⊢
        rw [Nat.mul_one, Nat.shiftRight_eq_div_pow]
        have e1 : (trunc 16 (xs[i % 256]'(by omega)).1 + 2 ^ 16 * trunc 16 xs[i].1) % 2 ^ 32 / 2 ^ 16 % 2 ^ 16
            = trunc 16 xs[i].1 := by
          generalize trunc 16 xs[i].1 = y at t2
          generalize trunc 16 (xs[i % 256]'(by omega)).1 = x at t1
          simp only [Nat.reducePow] at *
          omega
        rw [e1]
        exact sx_trunc (by omega) hv.1 hv.2
    · rfl
  · have hc : elCount wid = 256 := by simp [elCount, h0]
    rw [hc] at hi hx
    have hm : i % 256 = i := by omega
    have hfl : ∀ (old : BitVec 512),
        ((newFlags old on (xs.map (·.2) ++ xs.map (·.2))).getLsbD i || (newFlags old on
          (xs.map (·.2) ++ xs.map (·.2))).getLsbD (256 + i)) =
        if on i then xs[i].2 else (old.getLsbD i || old.getLsbD (256 + i)) := by
      intro old
      rw [newFlags_get _ _ _ _ (by omega) (by simp; omega), newFlags_get _ _ _ _ (by omega) (by simp; omega)]
      have h2 : (256 + i) % 256 = i := by omega
      rw [hm, h2]
      have a1 : (xs.map (·.2) ++ xs.map (·.2))[i]'(by simp; omega) = xs[i].2 := by
        rw [List.getElem_append_left (by simpa using hxi)]; simp
      have a2 : (xs.map (·.2) ++ xs.map (·.2))[256 + i]'(by simp; omega) = xs[i].2 := by
        rw [List.getElem_append_right (by simp; omega)]; simp [hx]
      rw [a1, a2]; split <;> simp
    by_cases h1 : wid = 1
    · subst h1
      simp only [VeSt.els, Nat.one_ne_zero, if_false, if_true, words_get _ _ hi, put_vr, newLanes_get _ _ _ _ hi, hfl, hm]
      split
      · rw [List.getElem?_eq_getElem hxi]
        have : (xs.map fun a => BitVec.ofNat 32 (trunc 32 a.1)).getD i 0 = BitVec.ofNat 32 (trunc 32 xs[i].1) := by
          simp [List.getD_eq_getElem?_getD, hxi]
        rw [this, BitVec.toNat_ofNat, Nat.mod_eq_of_lt (trunc_lt 32 _)]
        congr 1
        exact Prod.ext (sx_trunc (by omega) hf.1 hf.2) rfl
      · rfl
    · have h2 : wid = 2 := by omega
      subst h2
      have hels : ∀ y : VeSt, y.els 2 n = pairWords (y.vr n) (y.vr (n + 1)) := fun _ => rfl
      rw [hels, hels, pairWords_get _ _ _ hi, pairWords_get _ _ _ hi, put_vr, put_vr_next]
      simp only [if_neg h0, newLanes_get _ _ _ _ hi, hfl, hm]
      split
      · rw [List.getElem?_eq_getElem hxi]
        have t := trunc_lt 64 xs[i].1
        have e1 : (xs.map fun a => BitVec.ofNat 32 (trunc 32 a.1)).getD i 0 = BitVec.ofNat 32 (trunc 32 xs[i].1) := by
          simp [List.getD_eq_getElem?_getD, hxi]
        have e2 : (xs.map fun a => BitVec.ofNat 32 (trunc 64 a.1 / 2 ^ 32)).getD i 0 =
            BitVec.ofNat 32 (trunc 64 xs[i].1 / 2 ^ 32) := by
          simp [List.getD_eq_getElem?_getD, hxi]
        rw [e1, e2]
        congr 1
        refine Prod.ext ?_ rfl
        have e3 : (BitVec.ofNat 32 (trunc 32 xs[i].1)).toNat + 2 ^ 32 * (BitVec.ofNat 32 (trunc 64 xs[i].1 / 2 ^ 32)).toNat
            = trunc 64 xs[i].1 := by
          rw [BitVec.toNat_ofNat, BitVec.toNat_ofNat, Nat.mod_eq_of_lt (trunc_lt 32 _)]
          have e4 : trunc 32 xs[i].1 = trunc 64 xs[i].1 % 2 ^ 32 := by
            unfold trunc
            have a1 : ((2 ^ 32 : Nat) : Int) = 4294967296 := rfl
            have a2 : ((2 ^ 64 : Nat) : Int) = 18446744073709551616 := rfl
            have a3 : (2 ^ 32 : Nat) = 4294967296 := rfl
            rw [a1, a2, a3]; omega
          rw [e4]
          generalize trunc 64 xs[i].1 = y at t
          simp only [Nat.reducePow] at *
          omega
        rw [e3]
        exact sx_trunc (by omega) hf.1 hf.2
      · rfl

/-! ### An instruction that retires -/

/-- The run after an instruction that leaves `r` (R131). -/
def ranOn (r : VRun) (sat : Nat) : VRun :=
  { r with pc := (advance r.pc r.loops).1, loops := (advance r.pc r.loops).2, sat := r.sat + sat }

/-- The state after an instruction that retires. -/
def State.retire (s : State) (c v : Nat) (e : VeSt) (r : VRun) (sat : Nat) : State :=
  (s.onVe c v fun _ => { e with run := some (ranOn r sat) }).tally (R.vecRetired c v) 1

/-- An engine at an instruction of the row's opcode, without a residue failure, does what the instruction's meaning says. -/
theorem vec_issues {s : State} {c : Cluster} {v : Engine} {opc : Nat} {x : VCtx} (h : Issues s c v opc x)
    (f : VCtx → State → VRes) :
    s.vec c v opc none f = match f x s with
      | .wait => .next s
      | .stop st => .next (s.stopProg c.val x.j st)
      | .ok s e r sat => .next (s.retire c.val v.val e r sat) := by
  have hx : x = ⟨c.val, v.val, x.j, x.j.vop.getD (s.vecOpOf x.j), x.e, x.r, x.w⟩ := by
    rw [← h.parsed, ← h.cluster, ← h.number]
  have h1 : ((s.clus c.val).veAt v.val).run = some x.r := by rw [← h.engine]; exact h.running
  have h2 : ((s.clus c.val).veAt v.val).prog[x.r.pc]? = some x.w := by rw [← h.engine]; exact h.word
  have h3 : (iOpc x.w != opc || x.j.ph != .given || x.j.stop || (s.clus c.val).region != .active
      || (s.clus c.val).clk.stopAt.isSome) = false := by
    simp [h.opcode, h.given, h.going, h.active, h.clocked]
  simp only [State.vec, h1]
  simp only [h.job, h2]
  rw [h3, ← h.engine, ← hx]
  simp only [Bool.false_eq_true, if_false, Option.filter_none]
  cases f x s <;> rfl

theorem retire_clus (s : State) (c v : Nat) (e : VeSt) (r : VRun) (sat d : Nat) :
    (s.retire c v e r sat).clus d = (s.onVe c v fun _ => { e with run := some (ranOn r sat) }).clus d := rfl
theorem retire_clus_same (s : State) (c v : Nat) (e : VeSt) (r : VRun) (sat : Nat) :
    (s.retire c v e r sat).clus c = (s.clus c).setVe v { e with run := some (ranOn r sat) } := by
  rw [retire_clus]; simp only [State.onVe, State.clus_onClus_same]
/-- The engine after an instruction that retires. -/
theorem retire_engine (s : State) (c v : Nat) (e : VeSt) (r : VRun) (sat : Nat) :
    ((s.retire c v e r sat).clus c).veAt v = { e with run := some (ranOn r sat) } := by
  rw [retire_clus_same, Cl.veAt_setVe_same]

/-- What an instruction that retires leaves. -/
theorem retires_of (s : State) (c : Cluster) (v : Engine) (e : VeSt) (r : VRun) (sat : Nat) :
    Retires s (s.retire c.val v.val e r sat) c v r sat where
  frame := rfl
  regs := ⟨rfl, fun a ha => by
    have : a ≠ R.vecRetired c.val v.val := by simpa using ha
    simp only [State.retire, State.tally]; rw [State.rd_wr_ne _ _ this]; rfl⟩
  retired := by simp only [State.retire, State.tally, State.rd_wr_same]; rw [Nat.mod_mod]; rfl
  others := fun d hd => by rw [retire_clus]; exact State.clus_onClus_ne _ _ hd
  cluster := by rw [retire_clus_same]; rfl
  engines := fun u hu => by rw [retire_clus_same]; exact Cl.veAt_setVe_ne _ _ hu
  run := by rw [retire_engine]; rfl

/-- A vector result (R119, R127): where the exponent fits and the elements fit their width, the instruction retires and
writes its destination alone. -/
theorem lanes_writes {x : VCtx} {s : State} {wid : Nat} {rx : Int} {els : List VResEl} (hw : wid ≤ 2)
    (h1 : -32768 ≤ rx) (h2 : rx ≤ 32767) (hl : els.length = elCount wid) (hr : ∀ a ∈ els, inRange (widBits wid) a.1) :
    ∃ e, x.lanes s wid rx els = .ok s e x.r (satLanes x wid fun l => els.getD l (0, false, false)) ∧
      ∀ run, WritesLanes x { e with run } wid rx fun l => els.getD l (0, false, false) := by
  have ho : rxOk rx = true := by simp [rxOk, h1, h2]
  refine ⟨x.e.put wid (iVd x.w) rx x.on (els.map fun r => (r.1, r.2.1)), ?_, fun run => ⟨?_, ?_, ?_, ?_⟩⟩
  · unfold VCtx.lanes
    rw [ho]
    simp only [Bool.not_true, Bool.false_eq_true, if_false]
    congr 1
    unfold satLanes
    have key : ∀ (l : List VResEl) (k : Nat),
        ((l.zipIdx k).filter fun p => p.1.2.2 && x.on p.2).length =
        ((List.range' k l.length).filter fun i => x.on i && (l.getD (i - k) (0, false, false)).2.2).length := by
      intro l
      induction l with
      | nil => intro k; rfl
      | cons a t ih =>
        intro k
        simp only [List.zipIdx_cons, List.length_cons, List.range'_succ, List.filter_cons]
        have hcong : (List.range' (k + 1) t.length).filter (fun i => x.on i && ((a :: t).getD (i - k) (0, false, false)).2.2)
            = (List.range' (k + 1) t.length).filter fun i => x.on i && (t.getD (i - (k + 1)) (0, false, false)).2.2 := by
          apply List.filter_congr
          intro i hi
          have : k + 1 ≤ i := (List.mem_range'_1.mp hi).1
          have e : i - k = (i - (k + 1)) + 1 := by omega
          rw [e]; rfl
        rw [hcong]
        simp only [Nat.sub_self, List.getD_cons_zero, Bool.and_comm]
        split <;> simp [ih (k + 1), Bool.and_comm]
    have := key els 0
    rw [hl] at this
    simpa [List.range_eq_range'] using this
  · have := put_frame x.e wid (iVd x.w) rx x.on (els.map fun r => (r.1, r.2.1))
    generalize x.e.put wid (iVd x.w) rx x.on (els.map fun r => (r.1, r.2.1)) = y at this
    rw [this]
  · intro n hn
    have : ∀ y : VeSt, ({ y with run } : VeSt).vr n = y.vr n := fun _ => rfl
    rw [this]
    unfold destRegs at hn
    split at hn
    · rename_i hw2
      exact put_vr_ne _ _ _ _ _ _ (by simp at hn; omega) (fun _ => by simp at hn; omega)
    · rename_i hw2
      exact put_vr_ne _ _ _ _ _ _ (by simpa using hn) (fun h => absurd h hw2)
  · exact put_rx x.e wid (iVd x.w) h1 h2 x.on _
  · intro l hlt
    have e1 : ∀ y : VeSt, VeSt.el { y with run } wid (iVd x.w) l = y.el wid (iVd x.w) l := fun _ => rfl
    rw [e1]
    have := els_put x.e wid (iVd x.w) rx x.on (els.map fun r => (r.1, r.2.1)) hw (by simpa using hl)
      (by intro a ha; obtain ⟨b, hb, rfl⟩ := List.mem_map.mp ha; exact hr b hb) l hlt
    have hll : l < els.length := by omega
    have hon : x.on (l % 256) = x.on l := by simp [VCtx.on]
    rw [hon] at this
    simp only [VeSt.el, List.getD_eq_getElem?_getD, this]
    split <;> simp [hll]

/-! ### Saturation, and a lane-wise instruction as a whole -/

theorem clampTo_limit {n : Nat} (_ : 0 < n) (v : Int) : (clampTo n v).1 = limit n v ∧
    (clampTo n v).2 = decide (limit n v ≠ v) := by
  have hpos : 0 < 2 ^ (n - 1) := Nat.two_pow_pos _
  unfold clampTo limit
  generalize 2 ^ (n - 1) = k at *
  dsimp only
  split
  · constructor
    · omega
    · simp; omega
  · split
    · constructor
      · omega
      · simp; omega
    · constructor
      · omega
      · simp; omega

theorem limit_inRange {n : Nat} (_ : 0 < n) (v : Int) : inRange n (limit n v) := by
  have hpos : 0 < 2 ^ (n - 1) := Nat.two_pow_pos _
  unfold inRange limit
  generalize 2 ^ (n - 1) = k at *
  omega

theorem widBits_pos (w : Nat) : 0 < widBits w := by unfold widBits; split <;> (try split) <;> omega

theorem rx_range (e : VeSt) (n : Nat) : -32768 ≤ e.rx n ∧ e.rx n ≤ 32767 := by
  have := (e.vr n).rx.isLt
  simp only [VeSt.rx, sx]
  rw [Nat.mod_eq_of_lt this]
  split <;> simp at * <;> omega

theorem el_get (e : VeSt) (wid n l : Nat) (hl : l < elCount wid) : (e.els wid n)[l]? = some (e.el wid n l) := by
  have : l < (e.els wid n).length := by rw [els_length]; exact hl
  simp [VeSt.el, List.getD_eq_getElem?_getD, this]

/-- From a list of results to a function of the lane. -/
theorem writes_fun {x : VCtx} {e : VeSt} {wid : Nat} {rx : Int} {f g : Nat → VResEl}
    (h : WritesLanes x e wid rx f) (hf : ∀ l, l < elCount wid → f l = g l) : WritesLanes x e wid rx g :=
  ⟨h.frame, h.others, h.exponent, fun l hl => by rw [h.lanes l hl, hf l hl]⟩

theorem satLanes_fun {x : VCtx} {wid : Nat} {f g : Nat → VResEl} (hf : ∀ l, l < elCount wid → f l = g l) :
    satLanes x wid f = satLanes x wid g := by
  unfold satLanes; congr 1; apply List.filter_congr; intro l hl; rw [hf l (by simpa using hl)]

/-- A vector instruction with a lane-wise result. -/
theorem exec_lanes {s : State} {c : Cluster} {v : Engine} {opc : Nat} {x : VCtx} (h : Issues s c v opc x)
    (m : VCtx → State → VRes) {wid : Nat} {rx : Int} {els : List VResEl} (hm : m x s = x.lanes s wid rx els)
    (hw : wid ≤ 2) (h1 : -32768 ≤ rx) (h2 : rx ≤ 32767) (hl : els.length = elCount wid) {g : Nat → VResEl}
    (hg : ∀ l, l < elCount wid → els[l]? = some (g l)) (hr : ∀ l, l < elCount wid → inRange (widBits wid) (g l).1) :
    ∃ t, s.vec c v opc none m = .next t ∧ Retires s t c v x.r (satLanes x wid g)
      ∧ WritesLanes x ((t.clus c.val).veAt v.val) wid rx g := by
  have hr' : ∀ a ∈ els, inRange (widBits wid) a.1 := by
    intro a ha
    obtain ⟨i, hi, rfl⟩ := List.mem_iff_getElem.mp ha
    have := hg i (by omega)
    rw [List.getElem?_eq_getElem hi] at this
    rw [Option.some.inj this]; exact hr i (by omega)
  obtain ⟨e, he, hwr⟩ := lanes_writes (s := s) (x := x) hw h1 h2 hl hr'
  have hfun : ∀ l, l < elCount wid → els.getD l (0, false, false) = g l := by
    intro l hl; rw [List.getD_eq_getElem?_getD, hg l hl]; rfl
  refine ⟨_, by rw [vec_issues h, hm, he], ?_, ?_⟩
  · rw [satLanes_fun hfun]; exact retires_of s c v e x.r _
  · rw [retire_engine]; exact writes_fun (hwr _) hfun

theorem vop2_limit {n : Nat} (hn : 0 < n) (f : Int → Int → Int) (a b : VEl) (ra rb : Int) :
    vop2 n f a ra b rb =
    (let r := min ra rb
     let u := a.1 * (2 ^ (ra - r).toNat : Nat)
     let w := b.1 * (2 ^ (rb - r).toNat : Nat)
     let z := f (limit n u) (limit n w)
     let sat := decide (limit n u ≠ u ∨ limit n w ≠ w ∨ limit n z ≠ z)
     (limit n z, sat || a.2 || b.2, sat)) := by
  simp only [vop2, toRx]
  simp only [(clampTo_limit hn _).1, (clampTo_limit hn _).2]
  have e : ∀ p q r : Prop, [Decidable p] → [Decidable q] → [Decidable r] →
      (decide p || decide q || decide r) = decide (p ∨ q ∨ r) := by
    intro p q r _ _ _; by_cases p <;> by_cases q <;> by_cases r <;> simp [*]
  simp only [e]

end Sys2Proof.Machine
end

