-- ==== Sys2Proof/WellFormed.lean ====
section
/-!
DEFINITION. Well-formed commands: the ranges that the types of their operands leave open. The meaning of a command is
total; an ill-formed operand names no command that the block can be given.
-/

namespace Sys2Proof

/-- Access sizes of R452 and R269. -/
def sizeOk (n : Nat) : Bool := n = 1 || n = 2 || n = 4 || n = 8

/-- Findings name a codeword of 32 bytes, so at most 32 of its bytes are in error (R215). -/
def errsOk (es : Errs) : Bool := es.all fun e => match e.2 with
  | .array k => k ≤ 32
  | .line => true

/-- Length of an access: the data written, or the length read. -/
def writeLen (w : Option (List Byte)) (len : Nat) : Nat := match w with
  | some bs => bs.length
  | none => len

/-- A request lies within one block of 4,096 bytes (R208). -/
def accessOk (a n : Nat) : Bool := 0 < n && a % 4096 + n ≤ 4096

/-- Lanes of a reduction hold values of their element type (Table 7.1). -/
def lanesOk (ty : Elem) (ls : List Int) : Bool :=
  let h : Int := match ty with
    | .i32 => 2 ^ 31
    | .i64 => 2 ^ 63
  !ls.isEmpty && ls.all fun v => -h ≤ v && v < h

/-- A message carries at most a chunk of 1 MiB (R321). -/
def msgOk (m : Msg) : Bool := m.data.length ≤ 2 ^ 20

/-- An I3C private write carries a command and at most 4,032 argument bytes (R429). -/
def mgmtOk (m : Mgmt) : Bool := match m with
  | .i3c _ args => args.length ≤ 4032
  | .ring => true

def Instr.wf (i : Instr) : Bool :=
  match i with
  | .issue _ _ _ errs => errsOk errs
  | .tileOp _ _ => true
  | .tileCmp _ _ => true
  | .vecProg _ _ errs => errsOk errs
  | .copy _ _ errs => errsOk errs
  | .place _ _ errs => errsOk errs
  | .gather _ _ errs => errsOk errs
  | .scatter _ _ errs => errsOk errs
  | .ckbuild _ _ errs => errsOk errs
  | .comet _ _ errs => errsOk errs
  | .sync _ _ => true
  | .syncReset _ _ => true
  | .cbLoad _ _ errs => errsOk errs
  | .codebookSwitch => true
  | .phase _ _ _ => true
  | .collRs _ _ _ errs => errsOk errs
  | .collAg _ _ errs => errsOk errs
  | .collA2a _ _ errs => errsOk errs
  | .collAllred _ _ _ errs => errsOk errs
  | .collPut _ _ _ errs => errsOk errs
  | .collSignal _ _ errs => errsOk errs
  | .dispatch _ _ errs => errsOk errs
  | .descriptorComplete _ _ _ => true
  | .noticeWithdrawal _ => true
  | .forecastCoverMature _ => true
  | .decoderTableLoad _ _ => true
  | .preload _ _ => true
  | .passStart _ _ _ => true
  | .passEnd _ _ => true
  | .tileClockGate _ _ => true
  | .passDrain _ _ => true
  | .requantiseUnit _ _ _ errs => errsOk errs
  | .vld _ _ => true
  | .vldq _ _ => true
  | .vdrn _ _ => true
  | .vstq _ _ _ => true
  | .vldx _ _ => true
  | .vstx _ _ _ => true
  | .vmov _ _ => true
  | .vbcast _ _ => true
  | .vins _ _ => true
  | .viota _ _ => true
  | .vscale _ _ => true
  | .vadd _ _ => true
  | .vsub _ _ => true
  | .vmul _ _ => true
  | .vmull _ _ => true
  | .vmad _ _ => true
  | .vmax _ _ => true
  | .vmin _ _ => true
  | .vabs _ _ => true
  | .vneg _ _ => true
  | .valign _ _ _ => true
  | .vnarw _ _ _ => true
  | .vwide _ _ => true
  | .vunpk _ _ => true
  | .vcmp _ _ => true
  | .vsel _ _ => true
  | .vmset _ _ => true
  | .vmop _ _ => true
  | .vexp2 _ _ _ => true
  | .vrcp _ _ _ => true
  | .vrsq _ _ _ => true
  | .vsqrt _ _ _ => true
  | .vrsum _ _ _ => true
  | .vrssq _ _ _ => true
  | .vrmv _ _ _ => true
  | .vrmax _ _ _ => true
  | .vrmin _ _ _ => true
  | .vramax _ _ _ => true
  | .vrcnt _ _ => true
  | .smovi _ _ => true
  | .sscale _ _ => true
  | .sadd _ _ => true
  | .ssub _ _ => true
  | .smul _ _ => true
  | .smax _ _ => true
  | .smin _ _ => true
  | .saddi _ _ => true
  | .smv _ _ _ => true
  | .srcp _ _ _ => true
  | .srsq _ _ _ => true
  | .ssqrt _ _ _ => true
  | .sput _ _ => true
  | .vloop _ _ => true
  | .vend _ _ => true
  | .controlCoreTrap _ _ _ => true
  | .localWaitArm _ _ _ _ => true
  | .summaryPop _ _ => true
  | .signalApply _ => true
  | .syncObjectReset _ => true
  | .replayAbort => true
  | .replayRestart => true
  | .producerDoorbell _ _ size value errs => sizeOk size && value.toNat < 2 ^ (8 * size) && errsOk errs
  | .completionDoorbell _ _ errs => errsOk errs
  | .ringFetch _ errs => errsOk errs
  | .ccLoad _ errs => errsOk errs
  | .ccStart _ => true
  | .ccStop _ => true
  | .updPrep _ _ errs => errsOk errs
  | .updApply _ _ errs => errsOk errs
  | .updCommit _ _ errs => errsOk errs
  | .hostMemoryAccess _ hpa write len _ errs => accessOk hpa (writeLen write len) && errsOk errs
  | .pcieEndpointRead _ len errs => 0 < len && errsOk errs
  | .pcieEndpointWrite _ data errs => !data.isEmpty && errsOk errs
  | .homeSliceAccess _ dpa write len _ errs => accessOk dpa (writeLen write len) && errsOk errs
  | .radd _ _ ty lanes errs => lanesOk ty lanes && errsOk errs
  | .rmax _ _ ty lanes errs => lanesOk ty lanes && errsOk errs
  | .rmin _ _ ty lanes errs => lanesOk ty lanes && errsOk errs
  | .ror _ _ lanes errs => !lanes.isEmpty && errsOk errs
  | .aadd _ _ _ errs => errsOk errs
  | .aswap _ _ _ errs => errsOk errs
  | .acas _ _ _ _ errs => errsOk errs
  | .combiningEntryClose _ errs => errsOk errs
  | .scrubRead _ word bad _ => word < 2 ^ 26 && bad ≤ 32
  | .rowRepair _ => true
  | .mapoutFlush errs => errsOk errs
  | .mapoutDone => true
  | .marginRunStart _ => true
  | .marginRunDone _ _ _ _ _ => true
  | .linkTraining _ _ => true
  | .trainingTimeout _ => true
  | .trainingRetry _ => true
  | .portEnable _ _ => true
  | .lightLoss _ _ => true
  | .wavelengthFailure _ _ _ => true
  | .dataFlitTransmit _ _ => true
  | .dataFlitReceive _ _ => true
  | .nak _ _ => true
  | .credits _ _ => true
  | .time _ _ => true
  | .lane _ _ => true
  | .rekey _ _ => true
  | .creditsIdle _ => true
  | .ackKeepalive _ => true
  | .keyDiscard _ => true
  | .lnkCtlRekey _ => true
  | .retrain _ _ => true
  | .retrainTimeout _ => true
  | .failedPortRetry _ => true
  | .rsPartial _ m _ errs => msgOk m && errsOk errs
  | .rsResultToTwin _ m errs => msgOk m && errsOk errs
  | .agData _ m errs => msgOk m && errsOk errs
  | .a2aRows _ m errs => msgOk m && errsOk errs
  | .allredUp _ m _ errs => msgOk m && errsOk errs
  | .allredDown _ m errs => msgOk m && errsOk errs
  | .put _ m errs => msgOk m && errsOk errs
  | .signal _ m => msgOk m
  | .fetch _ m errs => msgOk m && errsOk errs
  | .collectiveTimeout _ _ => true
  | .timeExchange => true
  | .timeLockTimeout => true
  | .linkQualification _ _ => true
  | .arbiterEvaluation _ => true
  | .pointFall _ => true
  | .frequencyChangeStop _ => true
  | .frequencyStopRelease _ _ _ => true
  | .phaseFailure _ _ => true
  | .uncoreRegulatorFailure _ => true
  | .connectionSense _ _ _ _ _ => true
  | .connectionClear _ => true
  | .twilightEntry _ => true
  | .dawnGrant _ => true
  | .dawnComplete _ _ => true
  | .envelope _ => true
  | .envelopeLapse => true
  | .shedNAssert => true
  | .shedNRelease => true
  | .vrAlertNAssert _ => true
  | .vrAlertNRelease _ => true
  | .loadForecastFrame _ => true
  | .coolFailNAssert errs => errsOk errs
  | .sensorReading _ _ _ _ errs => errsOk errs
  | .sensorDisagreement _ => true
  | .thermalModelUpdate m errs => m.power.all (fun p => p.1 < 96) && m.other.all (fun p => p.1 < 96) && errsOk errs
  | .stackTemperature _ _ errs => errsOk errs
  | .coolantTelemetry _ errs => errsOk errs
  | .telemetryLapse => true
  | .heatBalanceCheck => true
  | .thermtrip => true
  | .setupAccessTimeout => true
  | .refclkLoss errs => errsOk errs
  | .powerUp _ => true
  | .coreRailLoss _ => true
  | .resetNFall errs => errsOk errs
  | .resetNRise => true
  | .startComplete obs errs => obs.phases.all (fun p => p.1 < 96) && obs.fail.all (fun k => k < 32) && errsOk errs
  | .getStatus m => mgmtOk m
  | .getNonce m => mgmtOk m
  | .getQuote m => mgmtOk m
  | .getCerts m => mgmtOk m
  | .openSession m => mgmtOk m
  | .closeSession m => mgmtOk m
  | .run m => mgmtOk m
  | .hold m => mgmtOk m
  | .drain m => mgmtOk m
  | .extend m => mgmtOk m
  | .start m errs => mgmtOk m && errsOk errs
  | .clearMaprec m => mgmtOk m
  | .provisionKey m => mgmtOk m
  | .setPassword m => mgmtOk m
  | .fwWrite m _ => mgmtOk m
  | .advanceSvn m => mgmtOk m
  | .sessionIdleTimeout => true
  | .proofRefusalExpiry _ => true
  | .dynamicAddressAssignment _ => true
  | .stagedRegisterWrite _ size value => sizeOk size && value.toNat < 2 ^ (8 * size)
  | .check _ => true
  | .epochCheckComplete errs => errsOk errs
  | .apply _ => true
  | .discard _ => true
  | .epochInstant errs => errsOk errs
  | .eventRecord _ => true
  | .evtConsWrite _ => true
  | .registerWrite _ size value => sizeOk size && value.toNat < 2 ^ (8 * size)
  | .idcode => true
  | .samplePreload _ _ => true
  | .extest _ => true
  | .extestPulse _ => true
  | .extestTrain _ => true
  | .clamp => true
  | .highz => true
  | .mbist _ _ _ => true
  | .retread _ => true
  | .scan => true
  | .bypass code => code.toNat = 0 || (code.toNat > 7 && code.toNat < 0x20) || code.toNat > 0x22
  | .laneWord _ _ _ _ => true
  | .vauxRemoved => true
  | .powerDown _ => true
  | .cqconsWrite _ _ => true
  | .noticeLeadElapsed _ => true

end Sys2Proof
end

