-- ==== Sys2Proof/Tests/Slice0.lean ====
section
/-!
SUPPORT. Tests: for each statement a witness (wit_…) of states and operands that meet its hypotheses, and small runs of one
command (test_…) whose results come from the rules of the spec by hand.
-/

open Sys2Proof Sys2Proof.Machine

namespace Sys2Proof.Tests

set_option Elab.async false

/-- The next state of an outcome, or the state after reset. -/
def nx (o : Host.Outcome State Fault Refusal) : State :=
  match o with
  | .next t => t
  | _ => State.reset

/-- An outcome is a next state with a property. -/
def goes (o : Host.Outcome State Fault Refusal) (p : State → Bool) : Bool :=
  match o with
  | .next t => p t
  | _ => false

/-- A word with values at bit positions. -/
def bits (n : Nat) (l : List (Nat × Nat)) : BitVec n := BitVec.ofNat n (l.foldl (fun a p => a + p.2 * 2 ^ p.1) 0)

/-- A device in a state, its memory awake. -/
def at_ (d : DevState) : State := { State.reset with dev := { Dev.reset with st := d, start := none, selfRefresh := false } }

/-- A register written. -/
def with_ (s : State) (l : List (Nat × Nat)) : State := l.foldl (fun s p => s.wr p.1 p.2) s

/-- A cluster put in place. -/
def on_ (s : State) (c : Nat) (x : Cl) : State := s.setClus c x

/-- A descriptor in flight or queued. -/
def job (n : Nat) (b : Block64) (ph : JobPh) : Job :=
  ⟨n, b, none, ph, 0, some 0, 0, n, [], false, [], [], [], 0, 0, 0, false, 0, false, 0, 0, [], false, [], 3, none, 0, none, []⟩

/-- Cluster with a running control core. -/
def core : Cl := { Cl.reset with cc := .running }

/-- A memory with byte strings at addresses. -/
def memOf (l : List (Nat × List Byte)) : Mem := l.foldl (fun m p => m.write p.1 p.2) []

/-- A header of a tensor of 16-bit integers at exponent 1, of 512 elements in each of 4 rows, its codes at 0x10000. -/
def hdr16 : Block64 := bits 512 [(0, 2), (8, 1), (64, 0x10000), (256, 512), (288, 4), (320, 1024)]

/-! ### Issue, control cores, dispatch and completion -/

/-- A SYNC without wait, signal or argument. -/
def syncDesc : Block64 := bits 512 [(0, 0x20)]

/-- A PHASE that declares 32 tiles, with CREC. -/
def phaseDesc : Block64 := bits 512 [(0, 0x50), (10, 1), (256, 32)]

def issue0 : State := on_ (at_ .running) 3 core

theorem wit_IssueAccepts : (issue0.clus 3).cc = .running ∧ issue0.dev.st ≠ .held ∧ fld syncDesc 0 8 ≠ 0x50 ∧
    fld syncDesc 8 1 = 0 ∧ issue0.issueCheck 3 syncDesc [] = ((0, 0), issue0) ∧ ((issue0.clus 3).qAt 0).length < 64 := by
  decide +kernel

theorem test_issue : goes (exec (.issue 3 0 syncDesc []) issue0) (fun t => ((t.clus 3).qAt 0).length == 1 &&
    (t.clus 3).issueNo == 1 && t.order == 1) = true := by decide +kernel

theorem wit_PhaseDeclares : (issue0.clus 3).cc = .running ∧ issue0.dev.st ≠ .held ∧ fld phaseDesc 0 8 = 0x50 ∧
    fld phaseDesc 9 1 = 0 ∧ fld phaseDesc 10 1 = 1 ∧ issue0.issueCheck 3 phaseDesc [] = ((0, 0), issue0) := by decide +kernel

theorem test_phase : goes (exec (.phase 3 0 phaseDesc) issue0) (fun t => (t.clus 3).decls == [⟨32, none, false⟩] &&
    (t.clus 3).cqProd == 1 && ((t.clus 3).qAt 0).isEmpty) = true := by decide +kernel

/-- A notice whose lead of 64 core cycles has passed, and whose 4,096 cycles have passed. -/
def notice0 : State := on_ (at_ .running) 3 { core with notice := some ⟨8192, false, false⟩, decls := [⟨32, some 0, false⟩] }

theorem wit_NoticesAndCover : (notice0.clus 3).notice = some ⟨8192, false, false⟩ ∧
    8192 ≥ 2 * bitsOf (notice0.rd (R.seqNotice 3)) 0 10 ∧
    (∀ q : Fin 8, ((notice0.clus 3).qAt q).head? = none) ∧
    ((notice0.clus 3).tile.all fun p => p.2.waiting.isEmpty) = true := by decide +kernel

theorem test_noticeWithdrawal : goes (exec (.noticeWithdrawal 3) notice0) (fun t => (t.clus 3).notice == none) = true := by
  decide +kernel

theorem test_noticeLeadElapsed : goes (exec (.noticeLeadElapsed 3) notice0)
    (fun t => (t.clus 3).notice == some ⟨8192, false, true⟩) = true := by decide +kernel

/-- A SYNC at the head of queue 2. -/
def queued0 : State := on_ (at_ .running) 3 { core with queue := #v[[], [], [job 1 syncDesc .queued], [], [], [], [], []] }

theorem wit_DispatchTakesHead : ((queued0.clus 3).qAt 2).head? = some (job 1 syncDesc .queued) ∧
    fld syncDesc 0 8 = 0x20 ∧ queued0.canDispatch 3 (job 1 syncDesc .queued) = true ∧ queued0.sec.sealMem = false ∧
    ((queued0.clus 3).allJobs.filter fun k => k.n = 1) = [job 1 syncDesc .queued] := by decide +kernel

theorem test_dispatch : goes (exec (.dispatch 3 2 []) queued0) (fun t => ((t.clus 3).qAt 2).isEmpty &&
    (t.clus 3).flight.map (fun k => (k.n, k.ph)) == [(1, JobPh.run)]) = true := by decide +kernel

/-- A SYNC of object 5 with a signal of 7, and one with a record, whose work is done. -/
def sigDesc : Block64 := bits 512 [(0, 0x20), (9, 1), (128, 5), (160, 7)]
def recDesc : Block64 := bits 512 [(0, 0x20), (10, 1)]
def worked (b : Block64) : State := on_ (at_ .running) 3 { core with flight := [job 1 b .worked] }

theorem wit_CompletionSignals : ((worked sigDesc).clus 3).inFlight 1 = some (job 1 sigDesc .worked) ∧
    (job 1 sigDesc .worked).status = 0 ∧ fld sigDesc 9 1 = 1 := by decide +kernel
theorem wit_CompletionRecords : ((worked recDesc).clus 3).inFlight 1 = some (job 1 recDesc .worked) ∧
    (job 1 recDesc .worked).status = 0 ∧ fld recDesc 9 1 = 0 ∧ fld recDesc 10 1 = 1 ∧
    (job 1 recDesc .worked).ring = none ∧ fld recDesc 192 32 = 0 := by decide +kernel

theorem test_descriptorComplete : goes (exec (.descriptorComplete 3 1 0) (worked sigDesc))
    (fun t => t.sync.flying == [⟨5, 0, 7, 0, .seq 3 1⟩] && (t.clus 3).flight.length == 1) = true := by decide +kernel
theorem test_descriptorComplete_record : goes (exec (.descriptorComplete 3 1 0) (worked recDesc))
    (fun t => (t.clus 3).flight.isEmpty && (t.clus 3).cqProd == 1) = true := by decide +kernel

/-! ### Synchronisation objects -/

/-- A signal of 7 to object 5, sent `age` Meridian units ago. -/
def flying (age : BitVec 64) (gen : BitVec 16) : State :=
  { at_ .running with
    time := ⟨age, 0, false⟩
    sync := ⟨[(5, ⟨0xFFFFFFFC, 0, none⟩)], 0, none, 0, [⟨5, gen, 7, 0, .none⟩], []⟩ }

theorem wit_SignalAdds : (flying 256000 0).sync.flying[0]? = some ⟨5, 0, 7, 0, .none⟩ ∧
    ((flying 256000 0).time.meridian - 0).toNat = 256000 ∧ ((flying 256000 0).obj 5).gen = 0 := by decide +kernel
theorem test_signalApply_saturates : goes (exec (.signalApply 0) (flying 256000 0))
    (fun t => (t.obj 5).count == 0xFFFFFFFF && t.sync.flying.isEmpty) = true := by decide +kernel
theorem test_signalApply_aged : goes (exec (.signalApply 0) (flying 256001 0))
    (fun t => (t.obj 5).count == 0xFFFFFFFC && t.sync.flying.isEmpty) = true := by decide +kernel

/-- A SYNC_RESET of object 6. -/
def resetDesc : Block64 := bits 512 [(0, 0x21), (256, 6), (272, 1)]
def run_ (b : Block64) : State := on_ (at_ .running) 3 { core with flight := [job 1 b .run] }

theorem wit_SyncRuns : (run_ syncDesc).runJob 3 1 0x20 = some (job 1 syncDesc .run) := by decide +kernel
theorem wit_SyncResetRuns : (run_ resetDesc).runJob 3 1 0x21 = some (job 1 resetDesc .run) ∧
    (job 1 resetDesc .run).resets = [] ∧ fld resetDesc 272 16 = 1 ∧ ((run_ resetDesc).obj 6).resetAt = none := by
  decide +kernel
theorem test_sync : goes (exec (.sync 3 1) (run_ syncDesc)) (fun t => (t.clus 3).flight.map (·.ph) == [.worked]) = true := by
  decide +kernel
theorem test_syncReset : goes (exec (.syncReset 3 1) (run_ resetDesc))
    (fun t => t.obj 6 == ⟨0, 1, some 0⟩ && (t.clus 3).flight.map (·.ph) == [.worked]) = true := by decide +kernel

/-- A reset of object 6 held since one of tick 0, at tick n. -/
def held6 (n : Nat) : State :=
  { at_ .running with
    ticks := n
    sync := ⟨[(6, ⟨9, 4, some 0⟩)], 0, none, 0, [], [(6, none)]⟩ }

theorem wit_HeldReset : (held6 100).sync.resets.find? (fun p => p.1 = 6) = some (6, none) ∧
    ((held6 100).obj 6).resetAt = some 0 ∧ 0 + 100 ≤ (held6 100).ticks := by decide +kernel
theorem test_syncObjectReset : goes (exec (.syncObjectReset 6) (held6 100))
    (fun t => t.obj 6 == ⟨0, 5, some 100⟩ && t.sync.resets.isEmpty) = true := by decide +kernel
theorem test_syncObjectReset_early : goes (exec (.syncObjectReset 6) (held6 99)) (fun t => t == held6 99) = true := by
  decide +kernel

/-! ### Codebooks -/

/-- A CB_LOAD of one Q4 image at address 0x1000 of host memory into slot 2 at generation 9: levels −21 to 24 in steps of 3. -/
def cbDesc : Block64 := bits 512 [(0, 0x30), (256, hostBase + 0x1000), (320, 2), (336, 1), (344, 0), (352, 9)]
def q4Levels : List (BitVec 16) := (List.range 16).map (fun i => BitVec.ofInt 16 (3 * ((i : Nat) : Int) - 21)) ++
  List.replicate 240 0
def q4Image : List Byte := q4Levels.flatMap fun w => natLe 2 w.toNat
def cbState : State := { run_ cbDesc with mem := memOf [(hostBase + 0x1000, q4Image)] }
theorem wit_CodebookLoad : cbState.runJob 3 1 0x30 = some (job 1 cbDesc .run) ∧ cbState.cbLoads = [] ∧
    (cbState.memRead (.sequencer 3) 0 (hostBase + 0x1000) (512 * 1) []).1 = (0, q4Image) ∧ fld cbDesc 336 8 = 1 ∧
    imgOk 0 (imgOf ((q4Image.drop 0).take 512)) = true ∧ (cbState.slot 0 2).gen.toNat ≠ 9 := by decide +kernel
/-- The image waits for its switch. -/
def switching : State := { run_ cbDesc with cbLoads := [⟨3, 1, 2, .q4, 9, [q4Levels]⟩] }
theorem wit_CodebookSwitch : switching.cbLoads = [⟨3, 1, 2, .q4, 9, [q4Levels]⟩] ∧
    (switching.clus 3).inFlight 1 = some (job 1 cbDesc .run) ∧ switching.namedBefore 0 [] = false := by decide +kernel
theorem test_cbLoad : goes (exec (.cbLoad 3 1 []) cbState) (fun t => t.cbLoads == [⟨3, 1, 2, .q4, 9, [q4Levels]⟩]) = true := by
  decide +kernel
theorem test_codebookSwitch : goes (exec .codebookSwitch switching) (fun t => t.slot 3 2 == ⟨.q4, 9, q4Levels, q4Levels.map fun w => resOf (sx 16 w.toNat)⟩ &&
    t.slot 0 3 == switching.slot 0 3 && (t.clus 3).flight.map (·.ph) == [.worked]) = true := by decide +kernel

/-! ### The control core and the tick -/

/-- A control core whose first instruction is ADDI x1, x2, 5, alone in the device. -/
def addi : State := on_ (at_ .running) 3 { core with imem := memOf [(0, natLe 4 0x00510093)], ccX := core.ccX.set 2 7 }

theorem addi_alone (d : Nat) : (addi.clus d).cc = .running ↔ d = 3 := by
  by_cases h : d = 3
  · subst h; decide
  · rw [show addi.clus d = Cl.reset from State.clus_setClus_ne _ _ h]
    simp [h, Cl.reset]

theorem ok_of {e : Except Nat (Rv × Nat)} {p : Rv × Nat}
    (h : (match e with | .ok q => decide (q = p) | .error _ => false) = true) : e = .ok p := by
  cases e <;> simp_all

theorem wit_CoreRunsAlone : addi.pending = [] ∧ addi.cfg.tailDusk = [] ∧ (addi.cl.map (·.1)).Nodup ∧
    (∀ d, (addi.clus d).cc = .running ↔ d = (3 : Cluster).val) ∧ (addi.clus 3).clk.stopAt = none ∧
    addi.dev.st ≠ .fault ∧ (addi.clus 3).irqTaken = false ∧
    (addi.clus 3).fetch = .ok (.opImm 0 false 1 2 5, 4) := by
  refine ⟨?_, ?_, ?_, addi_alone, ?_, ?_, ?_, ok_of (by decide +kernel)⟩ <;> decide +kernel

theorem wit_NoCoreRuns : State.reset.pending = [] ∧ (∀ c, (State.reset.clus c).cc ≠ .running) ∧
    State.reset.cfg.tailDusk = [] := by
  refine ⟨rfl, fun c => ?_, rfl⟩
  simp [State.clus, State.reset, SMap.val, SMap.find, Cl.reset]

theorem test_coreAddi : goes (step addi) (fun t => (t.clus 3).xr 1 == 12 && (t.clus 3).ccPc == 4) = true := by decide +kernel
/-- C.LI x10, -1 is 0x557D. -/
theorem test_coreCompressed : rv16 0x557D = some (.opImm 0 false 10 0 (-1)) := by decide +kernel
/-- SW x1, 0(x0) at an address that is no multiple of 4 traps; the core stops. -/
theorem test_coreTrap : goes (.next ((on_ (at_ .running) 3 core).coreDo 3 (.store 2 0 1 2) 4)) (fun t =>
    (t.clus 3).cc == .trapped && t.dev.st == .fault) = true := by decide +kernel

/-! ### Vector engines -/

/-- An instruction word: opcode, width, VD, VA, VB, SC and IMM. -/
def vw (opc wid d a b sc : Nat) (imm : Int) : Word :=
  bits 64 [(0, opc), (8, wid), (10, d), (15, a), (20, b), (28, sc), (32, trunc 32 imm)]

/-- Vector register 1 holds 3 at exponent 1, register 2 holds −5 at exponent 0 with a flag in lane 0, scalar 1 holds 40 at
exponent 2, scalar 2 holds 6, mask 1 has lane 0. -/
def ve0 (w : Word) (r : VRun) : VeSt :=
  { VeSt.reset with
    v := [(1, ⟨Vector.replicate 256 3, 1, 0⟩), (2, ⟨Vector.replicate 256 (-5), 0, 1⟩)]
    sc := [(1, ⟨40, 2, false⟩), (2, ⟨6, 0, true⟩)]
    m := [(1, 1)]
    prog := [w]
    run := some r }

def vrun0 : VRun := ⟨1, 0, [], 0, [], []⟩

/-- A VEC_PROG of engine 1 with its arguments at 0x2000. -/
def progDesc : Block64 := bits 512 [(0, 0x03), (48, 7), (256, 1), (320, 0x8000), (384, 0x2000)]

/-- What the program works with: handle 0 names `h`. -/
def vop0 (h : List Tens) : VecOp := ⟨⟨1, 0x8000, 0x2000, h.map fun _ => 0x3000, [], h.map fun _ => 0x4000⟩, h,
  h.map fun _ => rqcbOf 0⟩
def vjob : Job := { job 1 progDesc .given with vop := some (vop0 []) }

def vs (w : Word) : State :=
  on_ (at_ .running) 3 { core with ve := [(1, ve0 w vrun0)], flight := [vjob] }

def vx (w : Word) : VCtx := ⟨3, 1, vjob, vop0 [], ve0 w vrun0, vrun0, w⟩

theorem issues (w : Word) (opc : Nat) (h : iOpc w = opc) : Issues (vs w) 3 1 opc (vx w) :=
  ⟨rfl, rfl, rfl, rfl, rfl, rfl, rfl, h, rfl, rfl, rfl, rfl⟩

theorem wit_VectorTwoSource (o : Nat) (h : o ∈ [0x10, 0x11, 0x15, 0x16]) :
    Issues (vs (vw o 1 3 1 2 0 0)) 3 1 o (vx (vw o 1 3 1 2 0 0)) ∧ iWid (vx (vw o 1 3 1 2 0 0)).w ≤ 2 := by
  simp only [List.mem_cons, List.not_mem_nil, or_false] at h
  rcases h with rfl | rfl | rfl | rfl <;> exact ⟨issues _ _ (by decide +kernel), by decide +kernel⟩

/-- Value, exponent and flag of lane 0 of a register after an instruction at width W. -/
def lane0 (o : Host.Outcome State Fault Refusal) (wid n : Nat) : Int × Int × Bool :=
  let e := ((nx o).clus 3).veAt 1
  ((e.el wid n 0).1, e.rx n, (e.el wid n 0).2)

/-- 3 · 2 + −5 at exponent 0; the flag of register 2 is carried. -/
theorem test_vadd : lane0 (exec (.vadd 3 1) (vs (vw 0x10 1 3 1 2 0 0))) 1 3 = (1, 0, true) := by decide +kernel
theorem test_vsub : lane0 (exec (.vsub 3 1) (vs (vw 0x11 1 3 1 2 0 0))) 1 3 = (11, 0, true) := by decide +kernel
theorem test_vmax : lane0 (exec (.vmax 3 1) (vs (vw 0x15 1 3 1 2 0 0))) 1 3 = (6, 0, true) := by decide +kernel
theorem test_vmin : lane0 (exec (.vmin 3 1) (vs (vw 0x16 1 3 1 2 0 0))) 1 3 = (-5, 0, true) := by decide +kernel

theorem wit_VectorProducts : Issues (vs (vw 0x12 1 3 1 2 0 0)) 3 1 0x12 (vx (vw 0x12 1 3 1 2 0 0)) ∧
    Issues (vs (vw 0x13 1 4 1 2 0 0)) 3 1 0x13 (vx (vw 0x13 1 4 1 2 0 0)) ∧
    Issues (vs (vw 0x14 1 4 1 2 0 0)) 3 1 0x14 (vx (vw 0x14 1 4 1 2 0 0)) ∧ iWid (vw 0x13 1 4 1 2 0 0) = 1 ∧
    (let e := (vx (vw 0x12 1 3 1 2 0 0)).e
     e.rx 1 + e.rx 2 = 1 ∧ min (e.rx 4) (e.rx 1 + e.rx 2) = 0) :=
  ⟨issues _ _ (by decide +kernel), issues _ _ (by decide +kernel), issues _ _ (by decide +kernel), by decide +kernel,
    by decide +kernel⟩

theorem test_vmul : lane0 (exec (.vmul 3 1) (vs (vw 0x12 1 3 1 2 0 0))) 1 3 = (-15, 1, true) := by decide +kernel
theorem test_vmull : lane0 (exec (.vmull 3 1) (vs (vw 0x13 1 4 1 2 0 0))) 2 4 = (-15, 1, true) := by decide +kernel
/-- The empty pair at exponent 0 takes −15 · 2. -/
theorem test_vmad : lane0 (exec (.vmad 3 1) (vs (vw 0x14 1 4 1 2 0 0))) 2 4 = (-30, 0, true) := by decide +kernel

theorem wit_VectorOneSource : Issues (vs (vw 0x07 1 3 2 0 0 0)) 3 1 0x07 (vx (vw 0x07 1 3 2 0 0 0)) ∧
    Issues (vs (vw 0x0B 1 3 2 0 0 (-4))) 3 1 0x0B (vx (vw 0x0B 1 3 2 0 0 (-4))) ∧
    Issues (vs (vw 0x17 0 3 2 0 0 0)) 3 1 0x17 (vx (vw 0x17 0 3 2 0 0 0)) ∧
    Issues (vs (vw 0x18 2 4 2 0 0 0)) 3 1 0x18 (vx (vw 0x18 2 4 2 0 0 0)) ∧
    Issues (vs (vw 0x1B 1 4 2 0 0 0)) 3 1 0x1B (vx (vw 0x1B 1 4 2 0 0 0)) ∧
    (vx (vw 0x0B 1 3 2 0 0 (-4))).e.rx 2 + iImm (vw 0x0B 1 3 2 0 0 (-4)) = -4 :=
  ⟨issues _ _ (by decide +kernel), issues _ _ (by decide +kernel), issues _ _ (by decide +kernel),
    issues _ _ (by decide +kernel), issues _ _ (by decide +kernel), by decide +kernel⟩

theorem test_vmov : lane0 (exec (.vmov 3 1) (vs (vw 0x07 1 3 2 0 0 0))) 1 3 = (-5, 0, true) := by decide +kernel
theorem test_vscale : lane0 (exec (.vscale 3 1) (vs (vw 0x0B 1 3 2 0 0 (-4)))) 1 3 = (-5, -4, true) := by decide +kernel
theorem test_vabs : lane0 (exec (.vabs 3 1) (vs (vw 0x17 1 3 2 0 0 0))) 1 3 = (5, 0, true) := by decide +kernel
theorem test_vneg : lane0 (exec (.vneg 3 1) (vs (vw 0x18 1 3 1 0 0 0))) 1 3 = (-3, 1, false) := by decide +kernel
theorem test_vwide : lane0 (exec (.vwide 3 1) (vs (vw 0x1B 1 4 2 0 0 0))) 2 4 = (-5, 0, true) := by decide +kernel

/-- Each function at its width, with a register of 2^30 · 2^30 = 2^60 for the pair sources. -/
theorem wit_VectorFunctions : Issues (vs (vw 0x19 1 3 1 0 0 2)) 3 1 0x19 (vx (vw 0x19 1 3 1 0 0 2)) ∧
    Issues (vs (vw 0x1A 2 3 4 0 0 0)) 3 1 0x1A (vx (vw 0x1A 2 3 4 0 0 0)) ∧
    Issues (vs (vw 0x30 1 3 2 0 0 0)) 3 1 0x30 (vx (vw 0x30 1 3 2 0 0 0)) ∧
    Issues (vs (vw 0x31 2 3 4 0 0 20)) 3 1 0x31 (vx (vw 0x31 2 3 4 0 0 20)) ∧
    Issues (vs (vw 0x32 2 3 4 0 0 20)) 3 1 0x32 (vx (vw 0x32 2 3 4 0 0 20)) ∧
    Issues (vs (vw 0x33 2 6 4 0 0 0)) 3 1 0x33 (vx (vw 0x33 2 6 4 0 0 0)) ∧ iWid (vw 0x31 2 3 4 0 0 20) = 2 ∧
    -(vx (vw 0x31 2 3 4 0 0 20)).e.rx 4 - iImm (vw 0x31 2 3 4 0 0 20) = -20 :=
  ⟨issues _ _ (by decide +kernel), issues _ _ (by decide +kernel), issues _ _ (by decide +kernel),
    issues _ _ (by decide +kernel), issues _ _ (by decide +kernel), issues _ _ (by decide +kernel), by decide +kernel,
    by decide +kernel⟩

/-- 3 · 2 at exponent 2 is 1.5, and R128 rounds half to even. -/
theorem test_valign : lane0 (exec (.valign 3 1 none) (vs (vw 0x19 1 3 1 0 0 2))) 1 3 = (2, 2, false) := by decide +kernel

theorem wit_VectorFromScalar : Issues (vs (vw 0x08 1 3 0 0 1 0)) 3 1 0x08 (vx (vw 0x08 1 3 0 0 1 0)) ∧
    Issues (vs (vw 0x09 1 3 0 0 1 255)) 3 1 0x09 (vx (vw 0x09 1 3 0 0 1 255)) ∧
    Issues (vs (vw 0x0A 1 3 0 0 0 0)) 3 1 0x0A (vx (vw 0x0A 1 3 0 0 0 0)) ∧
    Issues (vs (vw 0x1C 0 3 1 0 0 1)) 3 1 0x1C (vx (vw 0x1C 0 3 1 0 0 1)) ∧
    iImm (vw 0x09 1 3 0 0 1 255) = 255 ∧ iImm (vw 0x1C 0 3 1 0 0 1) = 1 :=
  ⟨issues _ _ (by decide +kernel), issues _ _ (by decide +kernel), issues _ _ (by decide +kernel),
    issues _ _ (by decide +kernel), by decide +kernel, by decide +kernel⟩

theorem test_vbcast : lane0 (exec (.vbcast 3 1) (vs (vw 0x08 1 3 0 0 1 0))) 1 3 = (40, 2, false) := by decide +kernel
theorem test_vins : lane0 (exec (.vins 3 1) (vs (vw 0x09 1 3 0 0 2 0))) 1 3 = (6, 0, true) := by decide +kernel
theorem test_vunpk : lane0 (exec (.vunpk 3 1) (vs (vw 0x1C 0 3 2 0 0 1))) 1 3 = (-1, 0, false) := by decide +kernel

theorem wit_VectorMasks : Issues (vs (vw 0x20 1 2 1 2 0 5)) 3 1 0x20 (vx (vw 0x20 1 2 1 2 0 5)) ∧
    Issues (vs (vw 0x21 1 3 1 2 0 0)) 3 1 0x21 (vx (vw 0x21 1 3 1 2 0 0)) ∧
    Issues (vs (vw 0x22 0 2 0 0 0 256)) 3 1 0x22 (vx (vw 0x22 0 2 0 0 0 256)) ∧
    Issues (vs (vw 0x22 0 2 0 0 2 (-1))) 3 1 0x22 (vx (vw 0x22 0 2 0 0 2 (-1))) ∧
    Issues (vs (vw 0x23 0 2 1 0 0 3)) 3 1 0x23 (vx (vw 0x23 0 2 1 0 0 3)) ∧ iMen (vw 0x23 0 2 1 0 0 3) = false :=
  ⟨issues _ _ (by decide +kernel), issues _ _ (by decide +kernel), issues _ _ (by decide +kernel),
    issues _ _ (by decide +kernel), issues _ _ (by decide +kernel), by decide +kernel⟩

/-- A mask register after an instruction. -/
def maskOf (o : Host.Outcome State Fault Refusal) (n : Nat) : BitVec 256 := (((nx o).clus 3).veAt 1).mask n

/-- 6 ≥ −5 in every lane. -/
theorem test_vcmp : maskOf (exec (.vcmp 3 1) (vs (vw 0x20 1 2 1 2 0 5))) 2 = BitVec.allOnes 256 := by decide +kernel
/-- Scalar 2 holds 6. -/
theorem test_vmset : maskOf (exec (.vmset 3 1) (vs (vw 0x22 0 2 0 0 2 (-1)))) 2 = 63 := by decide +kernel
theorem test_vmop : maskOf (exec (.vmop 3 1) (vs (vw 0x23 0 2 1 0 0 3))) 2 = BitVec.allOnes 256 - 1 := by decide +kernel

theorem wit_VectorReductions (o : Nat) (h : o ∈ [0x40, 0x41, 0x42, 0x43, 0x44, 0x45, 0x46]) :
    Issues (vs (vw o 1 4 1 0 0 1)) 3 1 o (vx (vw o 1 4 1 0 0 1)) ∧ iWid (vw o 1 4 1 0 0 1) ≤ 2 ∧
      2 * (vx (vw o 1 4 1 0 0 1)).e.rx (iVa (vw o 1 4 1 0 0 1)) = 2 := by
  simp only [List.mem_cons, List.not_mem_nil, or_false] at h
  rcases h with rfl | rfl | rfl | rfl | rfl | rfl | rfl <;>
    exact ⟨issues _ _ (by decide +kernel), by decide +kernel, by decide +kernel⟩

/-- A scalar register after an instruction. -/
def scalarOf (o : Host.Outcome State Fault Refusal) (n : Nat) : Int × Int × Bool :=
  let r := (((nx o).clus 3).veAt 1).sr n
  (sx 64 r.v.toNat, sx 16 r.rx.toNat, r.flag)

theorem test_vrsum : scalarOf (exec (.vrsum 3 1 none) (vs (vw 0x40 1 4 1 0 0 0))) 4 = (768, 1, false) := by decide +kernel
/-- 256 · 3 at exponent 1 and 40 at exponent 2, at exponent 1. -/
theorem test_vrsum_combined : scalarOf (exec (.vrsum 3 1 none) (vs (vw 0x40 1 1 1 0 0 1))) 1 = (848, 1, false) := by
  decide +kernel
theorem test_vrssq : scalarOf (exec (.vrssq 3 1 none) (vs (vw 0x41 1 4 1 0 0 0))) 4 = (2304, 2, false) := by decide +kernel
theorem test_vramax : scalarOf (exec (.vramax 3 1 none) (vs (vw 0x45 1 4 2 0 0 0))) 4 = (5, 0, true) := by decide +kernel
theorem test_vrcnt : scalarOf (exec (.vrcnt 3 1) (vs (vw 0x46 1 4 1 0 0 0))) 4 = (1, 0, false) := by decide +kernel

theorem wit_ScalarOperations (o : Nat) (h : o ∈ [0x50, 0x51, 0x52, 0x53, 0x54, 0x55, 0x56, 0x57, 0x58, 0x59, 0x5A, 0x5B]) :
    Issues (vs (vw o 0 4 1 2 0 20)) 3 1 o (vx (vw o 0 4 1 2 0 20)) ∧ iImm (vw o 0 4 1 2 0 20) = (20 : Nat) := by
  simp only [List.mem_cons, List.not_mem_nil, or_false] at h
  rcases h with rfl | rfl | rfl | rfl | rfl | rfl | rfl | rfl | rfl | rfl | rfl | rfl <;>
    exact ⟨issues _ _ (by decide +kernel), by decide +kernel⟩

theorem test_smovi : scalarOf (exec (.smovi 3 1) (vs (vw 0x50 0 4 0 0 0 (-7)))) 4 = (-7, 0, false) := by decide +kernel
/-- 40 at exponent 2 and 6 at exponent 0. -/
theorem test_sadd : scalarOf (exec (.sadd 3 1) (vs (vw 0x52 0 4 1 2 0 0))) 4 = (166, 0, true) := by decide +kernel
theorem test_smul : scalarOf (exec (.smul 3 1) (vs (vw 0x54 0 4 1 2 0 0))) 4 = (240, 2, true) := by decide +kernel
theorem test_saddi : scalarOf (exec (.saddi 3 1) (vs (vw 0x57 0 1 0 0 0 (-41)))) 1 = (-1, 2, false) := by decide +kernel

theorem wit_ScratchAccess : Issues (vs (vw 0x05 1 3 0 0 0 55)) 3 1 0x05 (vx (vw 0x05 1 3 0 0 0 55)) ∧
    Issues (vs (vw 0x06 2 0 1 0 0 54)) 3 1 0x06 (vx (vw 0x06 2 0 1 0 0 54)) ∧
    sx 64 ((vx (vw 0x05 1 3 0 0 0 55)).e.sr 0).v.toNat + iImm (vw 0x05 1 3 0 0 0 55) = (55 : Nat) :=
  ⟨issues _ _ (by decide +kernel), issues _ _ (by decide +kernel), by decide +kernel⟩

/-- A VLOOP of one instruction, twice. -/
theorem wit_ProgramControl : Issues (vs (vw 0x60 0 0 0 0 0 65537)) 3 1 0x60 (vx (vw 0x60 0 0 0 0 0 65537)) ∧
    loopN (vw 0x60 0 0 0 0 0 65537) = 1 ∧ Issues (vs (vw 0x5C 0 0 1 0 0 9)) 3 1 0x5C (vx (vw 0x5C 0 0 1 0 0 9)) ∧
    (vx (vw 0x5C 0 0 1 0 0 9)).e.sumq.length < 8 ∧ Issues (vs (vw 0x7F 0 0 0 0 0 0)) 3 1 0x7F (vx (vw 0x7F 0 0 0 0 0 0)) ∧
    ((vs (vw 0x7F 0 0 0 0 0 0)).clus 3).rq = [] :=
  ⟨issues _ _ (by decide +kernel), by decide +kernel, issues _ _ (by decide +kernel), by decide +kernel,
    issues _ _ (by decide +kernel), by decide +kernel⟩

theorem test_vloop : (((nx (exec (.vloop 3 1) (vs (vw 0x60 0 0 0 0 0 65537)))).clus 3).veAt 1).run =
    some ⟨1, 1, [(1, 1, 1)], 0, [], []⟩ := by decide +kernel
theorem test_sput : ((((nx (exec (.sput 3 1) (vs (vw 0x5C 0 0 1 0 0 9)))).clus 3).veAt 1).sumq) = [⟨9, 40, 2, false, 7⟩] := by
  decide +kernel
theorem test_vend : ((nx (exec (.vend 3 1) (vs (vw 0x7F 0 0 0 0 0 0)))).clus 3).flight.map (·.ph) = [.worked] := by
  decide +kernel
theorem test_summaryPop : ((((nx (exec (.summaryPop 3 1) (nx (exec (.sput 3 1) (vs (vw 0x5C 0 0 1 0 0 9)))))).clus 3).veAt
    1).sumq) = [] := by decide +kernel

/-! ### Vector loads, stores and starts -/

/-- Handle 0 names the header at 0x3000, bound in slot 0 of the cluster buffer, which holds 7 at position 1 of row 0. -/
def loadOp : VecOp := vop0 [⟨hdrOf hdr16, none⟩]
def loadJob : Job := { job 1 progDesc .given with
  binds := [(0, 0, 32, ⟨0x3000, 0, 4, 0, 512, 0⟩)]
  vop := some loadOp }
def ls (w : Word) : State :=
  on_ (at_ .running) 3 { core with ve := [(1, ve0 w vrun0)], flight := [loadJob], buf := [(2, 7)] }
def lx (w : Word) : VCtx := ⟨3, 1, loadJob, loadOp, ve0 w vrun0, vrun0, w⟩

theorem issuesLoad (w : Word) (opc : Nat) (h : iOpc w = opc) : Issues (ls w) 3 1 opc (lx w) :=
  ⟨rfl, rfl, rfl, rfl, rfl, rfl, rfl, h, rfl, rfl, rfl, rfl⟩

/-- A 16-bit integer reads within 32 bits. -/
theorem value_s16 {v : View} (h : v.fmt = 2) (n : v.ocap = none) (r k : Nat) :
    -2147483648 ≤ v.value r k ∧ v.value r k < 2147483648 := by
  have b (m : Nat) : -2147483648 ≤ sx 16 m ∧ sx 16 m < 2147483648 := by simp only [sx]; split <;> omega
  have z : v.isQ = false := by simp [View.isQ, h]
  simp only [View.value, View.ov, View.slot, View.bzero, View.escaped, View.blv, View.zero, View.level, View.bx, View.bexp,
    intOf, n, h, z]
  split <;> simp_all
  split <;> simp [b]

theorem wit_VectorLoads : Issues (ls (vw 0x01 1 3 0 0 0 0)) 3 1 0x01 (lx (vw 0x01 1 3 0 0 0 0)) ∧
    Issues (ls (vw 0x02 1 3 0 0 0 256)) 3 1 0x02 (lx (vw 0x02 1 3 0 0 0 256)) ∧
    (let s := ls (vw 0x01 1 3 0 0 0 0)
     let b : Nat × Nat × Nat × Binding := (0, 0, 32, ⟨0x3000, 0, 4, 0, 512, 0⟩)
     let view := s.panelView 0 (s.clus 3).buf b.2.2.2 (loadOp.tens 0)
     loadOp.a.h.getD 0 0 = 0x3000 ∧ s.aggregate loadJob = false ∧ (loadOp.tens 0).o = none ∧
       loadJob.binds.find? (fun b => b.1 = 0 && b.2.2.1 = 32 &&
         b.2.2.2.covers 0x3000 0 1 256 (min (256 + elCount 1) (loadOp.tens 0).h.k)) = some b ∧
       ∀ l, l < elCount 1 → -2147483648 ≤ view.value 0 l ∧ view.value 0 l < 2147483648) :=
  ⟨issuesLoad _ _ (by decide +kernel), issuesLoad _ _ (by decide +kernel), by decide +kernel, by decide +kernel,
    by decide +kernel, by decide +kernel, fun l _ => value_s16 (by decide +kernel) (by decide +kernel) 0 l⟩

/-- Value and exponent of lane 1 after a load. -/
theorem test_vld : (let e := ((nx (exec (.vld 3 1) (ls (vw 0x01 1 3 0 0 0 0)))).clus 3).veAt 1
    (e.el 1 3 1, e.rx 3)) = ((7, false), 1) := by decide +kernel

/-- 256 drained elements wait. -/
def drained : VeSt := { ve0 (vw 0x03 2 4 0 0 0 0) vrun0 with drain := [(1, 3, List.replicate 256 (-9, true))] }
def ds : State := on_ (at_ .running) 3 { core with ve := [(1, drained)], flight := [vjob] }
def dx : VCtx := ⟨3, 1, vjob, vop0 [], drained, vrun0, vw 0x03 2 4 0 0 0 0⟩

theorem wit_VectorDrain : Issues ds 3 1 0x03 dx ∧ dx.e.drain = (1, 3, List.replicate 256 (-9, true)) :: [] ∧
    ∀ e ∈ List.replicate 256 ((-9, true) : Int × Bool), -(2 ^ 63) ≤ e.1 ∧ e.1 < 2 ^ 63 :=
  ⟨⟨rfl, rfl, rfl, rfl, rfl, rfl, rfl, by decide +kernel, rfl, rfl, rfl, rfl⟩, rfl, by decide +kernel⟩
theorem test_vdrn : lane0 (exec (.vdrn 3 1) ds) 2 4 = (-9, 3, true) := by decide +kernel

theorem wit_VectorStore : Issues (ls (vw 0x04 1 0 1 0 0 0)) 3 1 0x04 (lx (vw 0x04 1 0 1 0 0 0)) ∧
    (let s := ls (vw 0x04 1 0 1 0 0 0)
     s.aggregate loadJob = false ∧ (s.clus 3).rq = [] ∧ SMap.find (iVb (vw 0x04 1 0 1 0 0 0)) vrun0.stored = none ∧
       0 < (loadOp.tens 0).h.rows ∧ 0 < (loadOp.tens 0).h.k) :=
  ⟨issuesLoad _ _ (by decide +kernel), by decide +kernel⟩
/-- K is 512: of 256 lanes from position 508 only four are stored. -/
theorem test_vstq : ((nx (exec (.vstq 3 1 none) (ls (vw 0x04 1 0 1 0 0 508)))).clus 3).rq.map (fun o =>
    (o.n, o.elems.length)) = [(1, 4)] := by decide +kernel

/-- A VEC_PROG whose engine holds a program of one VEND, and of one word of no opcode. -/
def startOp : VecOp := ⟨⟨1, 0x8000, 0x2000, [], [99], []⟩, [], []⟩
def startJob : Job := { job 1 progDesc .run with vop := some startOp }
def startState (w : Word) : State :=
  { on_ (at_ .running) 3 { core with
      ve := [(1, { VeSt.reset with prog := [w], progDpa := some 0x8000 })]
      flight := [startJob] } with mem := [] }

theorem wit_ProgramStarts : (let s := startState (vw 0x7F 0 0 0 0 0 0)
    s.runJob 3 1 0x03 = some startJob ∧ ((s.clus 3).veAt 1).progDpa = some startOp.a.prog ∧
    startJob.vop.getD (s.vecOpOf startJob) = startOp ∧ startOp.a.ve = 1 ∧
    s.aggregate startJob = false ∧ progOk startOp ((s.clus 3).veAt 1).prog = true) ∧
    progOk startOp [0xFF] = false := by decide +kernel
theorem test_vecProg : (((nx (exec (.vecProg 3 1 []) (startState (vw 0x7F 0 0 0 0 0 0)))).clus 3).veAt 1).sr 8 =
    ⟨99, 0, false⟩ := by decide +kernel
theorem test_vecProg_bad : ((nx (exec (.vecProg 3 1 []) (startState 0xFF))).clus 3).flight.map (fun j =>
    (j.ph, j.status, j.off)) = [(.worked, 0x10, 0xFF)] := by decide +kernel

/-! ### Tiles -/

/-- A TILE_OP of tile 1 with its argument block at 0x2000, one with PRE and one that drains to engine 0; a TILE_CMP of tiles
1 and 2 with its record at engine 2. -/
def tileDesc : Block64 := bits 512 [(0, 0x01), (256, 2), (320, 0x2000)]
def preDesc : Block64 := bits 512 [(0, 0x01), (256, 2), (289, 1), (320, 0x2000)]
def cmpDesc : Block64 := bits 512 [(0, 0x02), (256, 6), (290, 2), (320, 0x2000), (384, 0x2000), (448, 0x5000)]

/-- Operands of one row each over positions 0 to 15 of the tensor at 0x3000. -/
def tileArgs : Block64 := bits 512 [(0, 0x3000), (64, 0x3000), (128, 0x4000), (288, 1), (352, 1), (416, 16)]
/-- 40 rows by 33 columns: two by two passes. -/
def bigArgs : Block64 := bits 512 [(0, 0x3000), (64, 0x3000), (128, 0x4000), (288, 40), (352, 33), (416, 16)]

def tileMem (a : Block64) : Mem := memOf [(0x2000, natLe 64 a.toNat), (0x3000, natLe 64 hdr16.toNat)]

/-- The operation's pass on tile 1, whose store holds 3 and −2 in row 0. -/
def tileJob (b : Block64) (ph : JobPh) : Job :=
  { job 1 b ph with binds := [(0, 0, 1, ⟨0x3000, 0, 1, 0, 16, 0⟩), (1, 0, 1, ⟨0x3000, 0, 1, 0, 16, 0⟩)] }
def pass0 : Pass := ⟨1, 0, 0, 0, false⟩
def store0 : Mem := [(0, 3), (2, 0xFE), (3, 0xFF)]
def tiles (b : Block64) (ph : JobPh) (y : TileSt) (a : Block64) : State :=
  { on_ (at_ .running) 3 { core with
      flight := [tileJob b ph]
      tile := [(1, { y with store := store0 })]
      notice := some ⟨200, true, true⟩ } with mem := tileMem a }

theorem wit_PassesSplit : (tiles tileDesc .run TileSt.reset bigArgs).runJob 3 1 0x01 = some (tileJob tileDesc .run) ∧
    (tiles cmpDesc .run TileSt.reset bigArgs).runJob 3 1 0x02 = some (tileJob cmpDesc .run) := by decide +kernel
theorem test_tileOp : (((nx (exec (.tileOp 3 1) (tiles tileDesc .run TileSt.reset bigArgs))).clus 3).tileAt 1).waiting =
    [⟨1, 0, 0, 0, false⟩, ⟨1, 1, 0, 1, false⟩, ⟨1, 2, 1, 0, false⟩, ⟨1, 3, 1, 1, false⟩] := by decide +kernel
theorem test_tileCmp : (((nx (exec (.tileCmp 3 1) (tiles cmpDesc .run TileSt.reset bigArgs))).clus 3).tileAt 2).waiting =
    [⟨1, 1, 0, 1, false⟩, ⟨1, 1, 0, 1, true⟩, ⟨1, 3, 1, 1, false⟩, ⟨1, 3, 1, 1, true⟩] := by decide +kernel

def waits : TileSt := { TileSt.reset with waiting := [pass0] }
def passState : State := tiles tileDesc .given waits tileArgs

theorem wit_PassStartComputes : passState.passReady 3 1 = some (pass0, tileJob tileDesc .given) ∧
    (passState.passViews 3 1 (tileJob tileDesc .given) pass0).isSome = true ∧
    ((passState.opOf (tileJob tileDesc .given)).left false).o = none ∧
    ((passState.opOf (tileJob tileDesc .given)).right false).o = none := by decide +kernel
/-- No cell of the pass fails its residue check. -/
theorem wit_PassResidues : (match passState.passViews 3 1 (tileJob tileDesc .given) pass0 with
    | some (a, b) => !(tileElement a b 0 0 0 16 (accOf 0)).bad
    | none => false) = true ∧ (rowsFrom 0 1 0).length = 1 ∧ (rowsFrom 0 1 0)[0]? = some 0 := by decide +kernel

/-- Cell (0, 0) holds 3 · 3 + −2 · −2. -/
theorem test_passStart : (match (((nx (exec (.passStart 3 1 none) passState)).clus 3).tileAt 1).bank[(0 : Fin 2)] with
    | .active p v => p = pass0 && v.getD 0 (accOf 0) = accOf 13 && v.length = 1024
    | _ => false) = true := by decide +kernel

theorem wit_TileSequencing : (waits.waiting = [pass0] ∧ (passState.clus 3).region = .active ∧
      (passState.clus 3).clk.stopAt = none) ∧
    (((tiles preDesc .given waits tileArgs).clus 3).inFlight 1 = some (tileJob preDesc .given) ∧
      fld preDesc 289 1 = 1 ∧ waits.bank[waits.next] = .free) ∧
    ((tiles tileDesc .given { TileSt.reset with act := .busy } tileArgs).passReady 3 1 = none) := by decide +kernel
/-- The operands in 8-bit codes: both decoders get a table for each of 32 rows. -/
def hdrQ8 : Block64 := bits 512 [(0, 1), (8, 1), (64, 0x10000), (256, 512), (288, 4), (320, 1024)]
def codedState : State :=
  { passState with mem := memOf [(0x2000, natLe 64 tileArgs.toNat), (0x3000, natLe 64 hdrQ8.toNat)] }
theorem wit_TablesOfCodes : ((codedState.opOf (tileJob tileDesc .given)).left false).h.isQ = true ∧
    ((codedState.opOf (tileJob tileDesc .given)).right false).h.isQ = true ∧
    codedState.loadPending 1 [] = false := by decide +kernel
theorem test_decoderTableLoad : (((nx (exec (.decoderTableLoad 3 1) codedState)).clus 3).tileAt 1).tables.map (fun d =>
    (d.p, d.rows.length, d.cols.length)) = some (pass0, 32, 32) := by decide +kernel
/-- The image begins with the store's bytes 0 to 7. -/
theorem test_preload : (match (((nx (exec (.preload 3 1) (tiles preDesc .given waits tileArgs))).clus 3).tileAt
    1).bank[(0 : Fin 2)] with
    | .pre _ im => im.getD 0 (accOf 0) = accOf 0xFFFE0003 && im.length = 1024
    | _ => false) = true := by decide +kernel

/-- Tile 1 with a pass that has issued its last k-step. -/
def busy1 : TileSt := { TileSt.reset with bank := #v[.active pass0 [], .free], act := .busy }
theorem test_passEnd : (((nx (exec (.passEnd 3 1) (tiles tileDesc .given busy1 tileArgs))).clus 3).tileAt 1).act =
    .falling := by decide +kernel
theorem test_tileClockGate : (((nx (exec (.tileClockGate 3 1) (tiles tileDesc .given { TileSt.reset with act := .falling }
    tileArgs))).clus 3).tileAt 1).act = .gated := by decide +kernel

/-- A closed bank of 1,024 cells. -/
def closed1 : TileSt := { TileSt.reset with bank := #v[.closed pass0 (List.replicate 1024 (accOf 13)), .free] }
def drainState : State := tiles tileDesc .given closed1 tileArgs
theorem wit_PassDrains : ((drainState.clus 3).tileAt 1).closedBank = some (0, pass0, List.replicate 1024 (accOf 13)) ∧
    (drainState.clus 3).inFlight 1 = some (tileJob tileDesc .given) ∧ fld tileDesc 0 8 = 1 ∧ fld tileDesc 288 1 = 0 ∧
    (let a := (drainState.opOf (tileJob tileDesc .given)).a
     a.ocol0 + a.n ≤ 2 ^ 32 ∧ 0 < a.m ∧ 0 < a.n) ∧ (drainState.clus 3).rqFill + 1024 ≤ 32768 := by decide +kernel
/-- Both operands stand at exponent 1. -/
theorem test_passDrain : ((nx (exec (.passDrain 3 1) drainState)).clus 3).rq.map (fun o => (o.n, o.rqcb)) =
    [(1, 0x4000)] := by decide +kernel

/-- Two rows of 16-bit integers. -/
def dotView (c : Nat) : View :=
  { fmt := 2, et := 0, k := 16, ocap := none, levels := fun _ => [], escLevels := [], code := fun _ _ => c,
    exp := fun _ _ => 0, grec := fun _ _ => grecOf [], escCode := fun _ _ => 0, escExp := fun _ _ => 0 }
theorem wit_IntegerDotProduct : (dotView 0x8000).fmt = 2 ∧ (dotView 0x8000).ocap = none ∧ 0 % 256 = 0 ∧ 0 < 16 ∧
    0 + 16 ≤ (dotView 0x8000).k := by decide +kernel
theorem test_tileElement : tileElement (dotView 0x8000) (dotView 0x7FFF) 0 0 0 16 (accOf 1) = ⟨accOf (16 * (-32768 * 32767) + 1), false⟩ := by
  decide +kernel

/-! ### Streams, Comet transfers and the requantiser -/

/-- A STREAM of a mode and destination kind with its arguments at 0x2000; destination slot 1, tiles 0 and 1. -/
def strDesc (mode dk : Nat) : Block64 :=
  bits 512 [(0, 0x10), (259, mode), (264, dk), (320, if dk = 1 then 3 else 0), (352, 1), (384, 0x2000)]

/-- Stream arguments: source, destination, index table, first row, rows, first position, positions, bytes of a row. -/
def strArgs (src dst idx row0 nrows k0 klen rb : Nat) : List Byte :=
  natLe 64 (bits 512 [(0, src), (64, dst), (128, idx), (192, row0), (224, nrows), (256, k0), (288, klen), (320, rb),
    (352, 64), (384, 64)] : Block64).toNat

/-- Two tensors of 16-bit integers of 512 positions by 4 rows, headers at 0x3000 and 0x3040, codes at 0x10000 and 0x20000; an index table of
one entry at 0x5000. -/
def strState (b : Block64) (args : List Byte) (ix : Nat) : State :=
  { on_ (at_ .running) 3 { core with flight := [job 1 b .run] } with
    mem := memOf [(0x2000, args), (0x3000, natLe 64 hdr16.toNat),
      (0x3040, natLe 64 (hdr16.toNat + 0x10000 * 2 ^ 64)), (0x5000, natLe 4 ix), (0x6000, [1, 2, 3, 4, 5, 6, 7, 8]),
      (0x10000, [9, 8, 7]), (0x10400, [6, 5, 4])] }

def copyState (dk : Nat) : State := strState (strDesc 0 dk) (strArgs 0x6000 0x7000 0 0 1 0 0 8) 0
theorem wit_RawTransfers : (copyState 2).streamJob 3 1 0 = some (job 1 (strDesc 0 2) .run) ∧
    (copyState 0).streamJob 3 1 0 = some (job 1 (strDesc 0 0) .run) ∧
    (let a := sargsOf ((copyState 2).peek64 (sbodyOf (strDesc 0 2)).args)
     a.nrows = 1 ∧ a.rbytes = [1, 2, 3, 4, 5, 6, 7, 8].length ∧ (sbodyOf (strDesc 0 2)).dkind = 2 ∧
       ((copyState 2).memRead (streamClient 3 (sbodyOf (strDesc 0 2)).se) 0 a.src a.rbytes []).1 =
         (0, [1, 2, 3, 4, 5, 6, 7, 8]) ∧
       ((copyState 0).memWrite (streamClient 3 (sbodyOf (strDesc 0 0)).se) a.dst [1, 2, 3, 4, 5, 6, 7, 8] 0 []).1 = 0) := by decide +kernel
theorem test_copy : (nx (exec (.copy 3 1 []) (copyState 0))).mem.bytes 0x7000 8 = [1, 2, 3, 4, 5, 6, 7, 8] := by
  decide +kernel

/-- A COMET of 8 inline bytes to 0x7008. -/
def cometDesc : Block64 := bits 512 [(0, 0x11), (256, 1), (320, 0x0807060504030201), (384, 0x7008)]
theorem wit_Comet : (run_ cometDesc).runJob 3 1 0x11 = some (job 1 cometDesc .run) ∧ fld cometDesc 256 1 = 1 ∧
    (run_ cometDesc).cometLate 3 (job 1 cometDesc .run) = 0 ∧ ((run_ cometDesc).memWrite (.comet 3) 0x7008 (natLe 8 0x0807060504030201) 0 []).1 = 0 := by decide +kernel
theorem test_comet : (nx (exec (.comet 3 1 []) (run_ cometDesc))).mem.bytes 0x7008 8 = [1, 2, 3, 4, 5, 6, 7, 8] := by
  decide +kernel

def placeState : State := strState (strDesc 1 1) (strArgs 0x3000 0 0 0 2 0 32 0) 0
/-- The panel of the same rows in the cluster buffer, bound there. -/
def placeBufState : State :=
  let b := strDesc 1 1 ||| bits 512 [(262, 1)]
  let s := strState b (strArgs 0x3000 0 0 0 2 0 32 0) 0
  s.onClus 3 fun x => { x with bufLive := [⟨0x3000, 0, 4, 0, 64, 0⟩] }
theorem wit_PlacePutsPanel : placeState.streamJob 3 1 1 = some (job 1 (strDesc 1 1) .run) ∧
    (let y := sbodyOf (strDesc 1 1)
     let a := sargsOf (placeState.peek64 y.args)
     let h := placeState.hdrAt a.src
     a.nrows ≠ 0 ∧ y.binding a = some ⟨0x3000, 0, 2, 0, 32, 1⟩ ∧ y.srcb = false ∧ y.dests = [0, 1] ∧
     (placeState.readAll (streamClient 3 y.se) 0 ((List.range a.nrows).flatMap (fun i => h.rowRanges (a.row0 + i) a.k0
       a.klen) ++ h.groupRanges (placeState.outlAt h) a.row0 a.nrows a.k0 a.klen) []).1 = 0) ∧
    (let y := sbodyOf (strDesc 1 1 ||| bits 512 [(262, 1)])
     let a := sargsOf (placeBufState.peek64 y.args)
     y.srcb = true ∧ (placeBufState.streamJob 3 1 1).isSome = true ∧
     (((placeBufState.clus 3).live 32).find? (fun z => z.covers a.src a.row0 a.nrows a.k0
       (min (a.k0 + a.klen) (placeBufState.hdrAt a.src).k))) = some ⟨0x3000, 0, 4, 0, 64, 0⟩) := by decide +kernel
/-- The work of a PLACE without signal is done: its binding goes live as it completes. -/
theorem wit_BindingGoesLive : (let s := on_ placeState 3 { placeState.clus 3 with flight := [job 1 (strDesc 1 1) .worked] }
    (s.clus 3).inFlight 1 = some (job 1 (strDesc 1 1) .worked) ∧ fld (strDesc 1 1) 0 8 = 0x10 ∧ fld (strDesc 1 1) 9 1 = 0 ∧
    (sbodyOf (strDesc 1 1)).binding (sargsOf (s.peek64 (sbodyOf (strDesc 1 1)).args)) = some ⟨0x3000, 0, 2, 0, 32, 1⟩ ∧
    goes (exec (.descriptorComplete 3 1 0) s) fun t => ((t.clus 3).live 1) == [⟨0x3000, 0, 2, 0, 32, 1⟩]) := by
  decide +kernel
/-- Rows 0 and 1 of 32 positions, 64 bytes each. -/
theorem test_place : (let m := ((nx (exec (.place 3 1 []) placeState)).clus 3).localMem 1
    (m.bytes 8192 3, m.bytes 8256 3)) = ([9, 8, 7], [6, 5, 4]) := by decide +kernel

/-- Row 1 by the index table to row 2 of the other tensor; row 0 to row IDX[0]; an index of all ones. -/
def gatherState : State := strState (strDesc 2 0) (strArgs 0x3000 0x3040 0x5000 2 1 0 32 0) 1
def scatterState (ix : Nat) : State := strState (strDesc 3 0) (strArgs 0x3000 0x3040 0x5000 0 1 0 32 0) ix
theorem wit_IndexedRows : gatherState.streamJob 3 1 2 = some (job 1 (strDesc 2 0) .run) ∧
    (scatterState 3).streamJob 3 1 3 = some (job 1 (strDesc 3 0) .run) ∧
    (let a := sargsOf (gatherState.peek64 0x2000)
     let who := streamClient 3 0
     let hs := gatherState.hdrAt a.src
     a.nrows = 1 ∧ (gatherState.memRead who 0 a.idx 4 []).1 = (0, [1, 0, 0, 0]) ∧ 1 < hs.rows ∧
       (gatherState.readAll who 0 (hs.rowRanges 1 a.k0 a.klen) []).1 = 0 ∧
       (gatherState.putRow who (gatherState.hdrAt a.dst) (gatherState.memRaw hs) (some 1) hs.k a.row0 a.k0 a.klen 0 []).1 = 0 ∧
       (gatherState.hdrAt a.dst).rows ≤ 0xFFFFFFFF ∧
       ((scatterState 0xFFFFFFFF).memRead who 0 a.idx 4 []).1 = (0, [255, 255, 255, 255])) := by decide +kernel
theorem test_gather : (nx (exec (.gather 3 1 []) gatherState)).mem.bytes 0x20800 3 = [6, 5, 4] := by decide +kernel
theorem test_scatter : (nx (exec (.scatter 3 1 []) (scatterState 3))).mem.bytes 0x20C00 3 = [9, 8, 7] := by decide +kernel
theorem test_scatter_none : (nx (exec (.scatter 3 1 []) (scatterState 0xFFFFFFFF))).mem = (scatterState 0xFFFFFFFF).mem := by
  decide +kernel

/-- The entry of block 1 under a table at 0x4000000 for 4 GiB. -/
def ckState : State :=
  with_ (strState (strDesc 4 0) (strArgs 0x6000 0 0 0 1 0 0 0) 0) [(R.stmCkbase, 0x4000000), (R.stmCktop, 0x100000000)]
theorem wit_ChecksumBuild : ckState.streamJob 3 1 4 = some (job 1 (strDesc 4 0) .run) ∧
    (sargsOf (ckState.peek64 0x2000)).nrows = 1 ∧ ckState.ckHas ((sargsOf (ckState.peek64 0x2000)).src / 4096) = true ∧
    ckState.shc.comb = [] := by decide +kernel

/-- A requantiser whose output is the tensor at 0x3000, and an operation with the 32 elements of row 0. -/
def rqElems : SMap Drained := (List.range 32).map fun k => (k, (accOf 100, 1))
def rqBlock : Rqcb := rqcbOf (bits 512 [(4, 1), (16, 0x3000)])
def rqOp : RqOp := ⟨1, 0x4000, rqBlock, ⟨hdrOf hdr16, none⟩, none, rqElems⟩
def rqState : State := on_ (at_ .running) 3 { core with
  flight := [{ job 1 tileDesc .given with passes := 1 }]
  rq := [rqOp] }
theorem wit_RequantisesUnit : (rqState.clus 3).inFlight 1 = some { job 1 tileDesc .given with passes := 1 } ∧
    (rqState.clus 3).rq = [rqOp] ∧ findUnit rqOp.q rqOp.out.h rqOp.elems = some (List.range 32) ∧
    (rqElems.all fun p => p.2.1.res = resOf p.2.1.v) = true ∧
    (let ctx := rqState.rqCtx (dieOf 3) rqOp.q rqOp.out (decide (phKind (rqState.phase (fld tileDesc 16 8)) = 6))
     (rqState.rqWrite (.requant 3) ctx (ctx.run (unitElts rqElems (List.range 32))) 0 []).1 = 0) := by decide +kernel
theorem test_requantiseUnit : (let t := nx (exec (.requantiseUnit 3 1 false []) rqState)
    (t.mem.bytes 0x10000 4, (t.clus 3).rq.map (·.elems.length))) = ([100, 0, 100, 0], [0]) := by decide +kernel
theorem test_requantiseUnit_bad : (let t := nx (exec (.requantiseUnit 3 1 true []) rqState)
    (t.mem.bytes 0x10000 4, (t.clus 3).flight.map (·.status))) = ([0, 0, 0, 0], [0x31]) := by decide +kernel

/-! ### Memory -/

def mem0 : State := { at_ .running with mem := memOf [(0x1008, natLe 8 0xFFFFFFFFFFFFFFFF)] }

theorem wit_MemoryAccess : mem0.shc.comb = [] ∧ mem0.ckOn (0x1FF8 / 4096) = false ∧ mem0.hbm.spoiled = false ∧
    0x1FF8 % 4096 + 8 ≤ 4096 ∧ 0x1FF8 + 8 ≤ mem0.hbmEnd ∧ 0x1FF8 + 8 ≤ hostBase ∧
    mem0.noiseBlocked .pcie 0x1FF8 8 false = false ∧ 2 ^ 40 - 8 + 8 ≤ mem0.fuse.hostBytes ∧
    mem0.noiseBlocked .pcie (hostBase + (2 ^ 40 - 8)) 8 false = false := by decide +kernel
theorem test_homeSliceAccess : goes (exec (.homeSliceAccess .pcie 0x1008 none 8 0 []) mem0)
    (fun t => t.answer == (0, natLe 8 0xFFFFFFFFFFFFFFFF)) = true := by decide +kernel
theorem test_homeSliceAccess_write : goes (exec (.homeSliceAccess .pcie 0x1009 (some [0, 1]) 2 0 []) mem0)
    (fun t => t.mem.bytes 0x1008 4 == [0xFF, 0, 1, 0xFF] && t.mem.wf) = true := by decide +kernel

/-- Classes enforced, host block 0 private or of class 3. -/
def sealed (k : Nat) : State :=
  { mem0 with sec := { mem0.sec with sealMem := true }, cls := [(hostBase / 4096, BitVec.ofNat 4 k)] }
theorem wit_HostMemory : (sealed 0).sec.sealMem = true ∧ 0 + 4096 ≤ (sealed 0).fuse.hostBytes ∧ 0 % 4096 + 4096 ≤ 4096 ∧
    (sealed 3).classOf hostBase = 3 ∧ (sealed 0).classOf hostBase = 0 ∧ mem0.sec.sealMem = false := by decide +kernel
theorem test_hostMemoryAccess : goes (exec (.hostMemoryAccess .steward 16 (some [5]) 1 0 []) mem0)
    (fun t => t.mem.byte (hostBase + 16) == 5) = true := by decide +kernel
theorem test_pcieEndpointRead : goes (exec (.pcieEndpointRead 0 8 []) (sealed 3)) (fun t => t.answer == (0, natLe 8 0)) =
    true := by decide +kernel
theorem test_pcieEndpointRead_denied : goes (exec (.pcieEndpointRead 0 8 []) (sealed 4))
    (fun t => t.answer == (0x51, []) && (t.rd R.secStat).testBit 2) = true := by decide +kernel
theorem test_pcieEndpointWrite : goes (exec (.pcieEndpointWrite 8 [7] []) (sealed 0))
    (fun t => t.mem.byte (hostBase + 8) == 7) = true := by decide +kernel

/-- Checksums on, and the entry of an empty block. -/
def ckOf (v : Nat) : State :=
  with_ { mem0 with mem := Mem.write [] 0x4000000 (natLe 4 v) }
    [(R.stmCkctl, 1), (R.stmCkbase, 0x4000000), (R.stmCktop, 0x100000000)]
def ckOnState : State := ckOf (crc32c (List.replicate 4096 0)).toNat
theorem wit_ChecksumFollowsWrites : ckOnState.ckOn 0 = true ∧ ckOnState.rd R.stmCktop % 4096 = 0 ∧
    ckOnState.shc.comb = [] ∧ 8 % 4096 + 8 ≤ 4096 ∧ 8 + 8 ≤ ckOnState.hbmEnd ∧ 8 + 8 ≤ hostBase := by decide +kernel

theorem wit_ReductionsCombine : 0x1000 + 4 * 2 ≤ mem0.hbmEnd ∧ 0x1000 % elemBytes .i32 = 0 ∧
    4 ≤ elemBytes .i32 * [3, -1].length ∧ 0x1000 % 256 + elemBytes .i32 * [3, -1].length ≤ 256 ∧
    ((SMap.val [] mem0.shc.comb (mem0.homeSlice 0x1000)).find? fun e => e.line = 16) = none := by decide +kernel
/-- An open entry of the line takes a second request. -/
def open1 : State := nx (exec (.radd .pcie 0x1000 .i32 [3, -1] []) mem0)
theorem wit_ReductionsMerge : ((SMap.val [] open1.shc.comb (open1.homeSlice 0x1000)).find? fun e => e.line = 16) =
    some ⟨16, .add, .i32, [(0, 3), (1, -1)], 0⟩ := by decide +kernel
theorem test_radd_merges : SMap.val [] (nx (exec (.radd .pcie 0x1004 .i32 [5] []) open1)).shc.comb (open1.homeSlice 0x1000) =
    [⟨16, .add, .i32, [(0, 3), (1, 4)], 0⟩] := by decide +kernel
theorem test_rmin : SMap.val [] (nx (exec (.rmin .pcie 0x1000 .i64 [-7] []) mem0)).shc.comb (mem0.homeSlice 0x1000) =
    [⟨16, .min, .i64, [(0, -7)], 0⟩] := by decide +kernel
theorem test_ror : SMap.val [] (nx (exec (.ror .pcie 0x1000 [6] []) mem0)).shc.comb (mem0.homeSlice 0x1000) =
    [⟨16, .or, .i64, [(0, 6)], 0⟩] := by decide +kernel

theorem wit_AtomicsReturnOld : 0x1008 % 8 = 0 ∧ 0x1008 + 8 ≤ mem0.hbmEnd ∧ mem0.ckOn (0x1008 / 4096) = false := by
  decide +kernel
theorem test_aadd_wraps : goes (exec (.aadd .pcie 0x1008 2 []) mem0) (fun t => t.answer == (0, natLe 8 (2 ^ 64 - 1)) &&
    leNat (t.mem.bytes 0x1008 8) == 1) = true := by decide +kernel
theorem test_aswap : goes (exec (.aswap .pcie 0x1008 2 []) mem0) (fun t => leNat (t.mem.bytes 0x1008 8) == 2) = true := by
  decide +kernel
theorem test_acas_differs : goes (exec (.acas .pcie 0x1008 5 2 []) mem0) (fun t => t.mem == mem0.mem &&
    t.answer == (0, natLe 8 (2 ^ 64 - 1))) = true := by decide +kernel

/-- A request beyond HBM, and one that crosses its line. -/
theorem wit_Malformed : mem0.hbmEnd < mem0.hbmEnd + 8 ∧ mem0.fuse.hostBytes < mem0.fuse.hostBytes + 8 ∧
    ¬(0x10FC % 256 + elemBytes .i64 * [1].length ≤ 256) := by decide +kernel
theorem test_malformed : goes (exec (.radd .pcie 0x10FC .i64 [1] []) mem0) (fun t => t.answer == (0x10, [])) = true ∧
    goes (exec (.homeSliceAccess .pcie mem0.hbmEnd none 8 0 []) mem0) (fun t => t.answer == (0x10, [])) = true := by
  decide +kernel

/-- The entry of `open1` after SHC_CTL.IDLE cycles. -/
def idle1 : State :=
  { open1 with shc := { open1.shc with comb := open1.shc.comb.map fun p => (p.1, p.2.map fun e => { e with idle := 256 }) } }
theorem wit_CombiningEntryApplies : (SMap.val [] idle1.shc.comb (idle1.homeSlice 0x1000)).find? (fun e => e.line = 16) =
    some ⟨16, .add, .i32, [(0, 3), (1, -1)], 256⟩ ∧
    256 ≥ 4 * bitsOf (idle1.rd (R.shcCtl (idle1.homeSlice 0x1000 / 32))) 0 8 ∧ idle1.ckOn (16 * 256 / 4096) = false := by
  decide +kernel
theorem test_combiningEntryClose : goes (exec (.combiningEntryClose 16 []) idle1) (fun t =>
    t.mem.bytes 0x1000 8 == [3, 0, 0, 0, 0xFF, 0xFF, 0xFF, 0xFF] && (SMap.val [] t.shc.comb (idle1.homeSlice 0x1000)).isEmpty) =
    true := by decide +kernel

/-- A row of channel 7 is due for repair. -/
def scrub0 : State :=
  { at_ .standby with hbm := ⟨[(7, { Chan.reset with due := [5], rows := [(5, 4)] })], [], none, none, false, []⟩ }
theorem wit_ScrubAndRepair : bitsOf (scrub0.rd R.memScrub) 8 1 = 1 ∧ scrub0.chanLive 7 = true ∧ scrub0.chanLevel 7 ≥ 50 ∧
    (scrub0.chan 7).rows.length < 256 ∧ (scrub0.chan 7).due = [5] ∧ scrub0.running = false ∧
    (scrub0.chan 7).freeSpare = some 0 ∧ (scrub0.chan 7).spareOf 5 = none := by decide +kernel
theorem test_scrubRead : goes (exec (.scrubRead 7 (64 * 5) 1 false) scrub0) (fun t => (t.chan 7).rows == [(5, 5)] &&
    t.rd R.memCecnt == 1) = true := by decide +kernel
theorem test_rowRepair : goes (exec (.rowRepair 7) scrub0) (fun t => (t.chan 7).spares == [(0, .inUse 5)] &&
    (t.chan 7).due == []) = true := by decide +kernel

theorem replicate_bytes (n b : Nat) (m : Mem) (h : ∀ i, i < n → m.byte (b + i) = 0) : m.bytes b n = List.replicate n 0 := by
  rw [Mem.bytes_eq]
  refine List.ext_getElem (by rw [List.length_map, List.length_range, List.length_replicate]) fun i h1 h2 => ?_
  rw [List.getElem_map, List.getElem_range, List.getElem_replicate]
  exact h i (by rwa [List.length_replicate] at h2)
theorem with_mem (l : List (Nat × Nat)) : ∀ s : State, (with_ s l).mem = s.mem := by
  induction l with
  | nil => exact fun _ => rfl
  | cons p l ih => exact fun s => (ih _).trans rfl
theorem ckOf_mem (v : Nat) : (ckOf v).mem = Mem.write [] 0x4000000 (natLe 4 v) := with_mem _ _
theorem ckOn_at : ckOnState.ckAt 0 = 0x4000000 := by decide +kernel
theorem ckOn_zero (v : Nat) : (Mem.write [] 0x4000000 (natLe 4 v)).bytes 0 4096 = List.replicate 4096 0 := by
  rw [Mem.bytes_write_ne _ _ _ _ _ (.inl (by decide))]
  exact replicate_bytes _ _ _ fun i _ => rfl
theorem ckOn_entry (v : Nat) (hv : v < 2 ^ 32) : leNat ((Mem.write [] 0x4000000 (natLe 4 v)).bytes 0x4000000 4) = v := by
  have e := Mem.bytes_write_same [] 0x4000000 (natLe 4 v)
  rw [natLe_length] at e
  rw [e, leNat_natLe]
  exact Nat.mod_eq_of_lt (Nat.lt_of_lt_of_eq hv (by decide))
theorem ckOf_entry (v : Nat) (hv : v < 2 ^ 32) (h : (crc32c (List.replicate 4096 0)).toNat = v) (a : (ckOf v).ckAt 0 = 0x4000000) :
    (ckOf v).ckEntry 0 = (crc32c ((ckOf v).mem.bytes 0 4096)).toNat := by
  rw [State.ckEntry, a, ckOf_mem, ckOn_zero, ckOn_entry _ hv, h]
/-- The entry of the empty block is its CRC-32C. -/
theorem wit_ckEntry : ckOnState.ckEntry 0 = (crc32c (ckOnState.mem.bytes 0 4096)).toNat :=
  ckOf_entry _ (BitVec.isLt _) rfl ckOn_at

/-! ### Rings and steward commands -/

/-- An entry of ring 1: 16 places at the start of host memory, 16 records at 0x1000 there, a class, a unit, generation 5. -/
def ringEntry (cls unit : Nat) : Block64 :=
  bits 512 [(0, hostBase), (64, hostBase + 0x1000), (128, 4), (136, 4), (144, cls), (147, unit), (160, 5)]
def ringTab : Nat := hostBase + 0x8000
def rings0 (cls unit : Nat) (l : List (Nat × List Byte)) : State :=
  with_ { at_ .running with mem := memOf ((ringTab + 64, natLe 64 (ringEntry cls unit).toNat) :: l) }
    [(R.updCtl, 3), (R.updRingtab, ringTab)]

/-- A bell of generation 5 that makes 16 entries available, and one that makes 17. -/
def bell (n : Nat) : Word := bits 64 [(0, n), (32, 5)]

def seen (s : State) : Ring := (s.ringSee 1 []).1.getD ⟨0, 0, 0, 0, 0, 0, .idle⟩

theorem wit_DoorbellsMoveRings : (let s := rings0 1 3 []
    s.rf R.updCtl 0 1 = 1 ∧ (s.ringSee 1 []).1 = some (seen s) ∧ fld (bell 16) 32 16 = (seen s).rgen ∧
    (seen s).st ≠ .error ∧ (seen s).tclass ≠ 0 ∧ s.ringOk (seen s) = true ∧
    (BitVec.ofNat 32 (fld (bell 16) 0 32) - (seen s).cons).toNat ≤ 2 ^ (seen s).log2n ∧
    (BitVec.ofNat 32 (fld (bell 17) 0 32) - (seen s).cons).toNat > 2 ^ (seen s).log2n ∧
    fld (bits 64 [(0, 1), (32, 6)] : Word) 32 16 ≠ (seen s).rgen) := by decide +kernel
theorem test_producerDoorbell : goes (exec (.producerDoorbell 1 0 8 (bell 16) []) (rings0 1 3 [])) (fun t =>
    (t.ring 1).prod == 16 && (t.ring 1).st == .active && t.mem.byte (ringTab + 64 + 40) == 1) = true := by decide +kernel
theorem test_producerDoorbell_error : goes (exec (.producerDoorbell 1 0 8 (bell 17) []) (rings0 1 3 [])) (fun t =>
    (t.ring 1).st == .error && t.rd R.updRingerrcnt == 1) = true := by decide +kernel
theorem test_producerDoorbell_stale : goes (exec (.producerDoorbell 1 0 8 (bits 64 [(0, 1), (32, 6)]) []) (rings0 1 3 []))
    (fun t => t.rd R.updDbstalecnt == 1 && (t.ring 1).prod == 0) = true := by decide +kernel
theorem test_completionDoorbell : goes (exec (.completionDoorbell 1 (bell 9) []) (rings0 1 3 [])) (fun t =>
    (t.ring 1).cqCons == 9) = true := by decide +kernel

/-- Ring 1 is active with one entry, `b`, to fetch. -/
def fetchable (cls unit : Nat) (b : Block64) : State :=
  let s := rings0 cls unit [(hostBase, natLe 64 b.toNat)]
  { s with stw := { s.stw with rings := [(1, ⟨ringEntry cls unit, 1, 0, 0, 0, 0, .active⟩)] },
           cl := [(3, core)] }
def stopDesc : Block64 := bits 512 [(0, 0x82), (256, 2 ^ 3)]

theorem wit_RingFetchHandsOver : (let s := fetchable 1 3 syncDesc
    s.rf R.updCtl 0 1 = 1 ∧ s.dev.selfRefresh = false ∧ s.ringTurn 1 = true ∧ (s.ring 1).st = .active ∧
    (s.ring 1).cons ≠ (s.ring 1).prod ∧
    ((s.ring 1).cqProd - (s.ring 1).cqCons).toNat + (s.ring 1).reserved < 2 ^ (s.ring 1).cqlog2 ∧ (s.ring 1).tclass = 1 ∧
    (s.memRead .steward 0 ((s.ring 1).base + 64 * ((s.ring 1).cons.toNat % 2 ^ (s.ring 1).log2n)) 64 []).1 =
      (0, natLe 64 syncDesc.toNat) ∧ blockOf (natLe 64 syncDesc.toNat) = syncDesc ∧
    (s.issueOne 3 0 syncDesc (some (1, 0)) []).1.1 ≠ 1) ∧
    (let s := fetchable 3 0 stopDesc
     (s.ring 1).tclass = 3 ∧ fld stopDesc 8 1 = 0 ∧ s.entryCheck stopDesc (isStw (fld stopDesc 0 8))
       (stwLegal (fld stopDesc 0 8) s.dev.st) (s.stwBad stopDesc) = (0, 0)) ∧
    ((fetchable 2 0 0x40).ring 1).tclass = 2 ∧ ((fetchable 2 0 0x40).handColl 1 0 0 0x40).1 = true ∧
    ((fetchable 4 0 0x90).ring 1).tclass = 4 := by decide +kernel
theorem test_ringFetch : goes (exec (.ringFetch 1 []) (fetchable 1 3 syncDesc)) (fun t =>
    ((t.clus 3).qAt 0).map (·.ring) == [some (1, 0)] && (t.ring 1).reserved == 1) = true := by decide +kernel
theorem test_ringFetch_steward : goes (exec (.ringFetch 1 []) (fetchable 3 0 stopDesc)) (fun t =>
    t.stw.jobs.map (·.cmd) == [stopDesc] && (t.ring 1).cons == 1) = true := by decide +kernel

/-- A steward command in its unit. -/
def stwJob0 (b : Block64) : StwJob := ⟨0, b, 1, 0, 0, [], 0, 0, 0, 0, false⟩
def stw0 (st : DevState) (b : Block64) (l : List (Nat × List Byte)) : State :=
  let s := rings0 3 0 l
  { s with stw := { s.stw with jobs := [stwJob0 b], rings := [(1, ⟨ringEntry 3 0, 1, 1, 0, 0, 1, .active⟩)] },
           dev := { s.dev with st := st }, cl := [(3, core)] }
theorem stwRuns (st : DevState) (b : Block64) (l : List (Nat × List Byte)) (opc : Nat) (h : fld b 0 8 = opc)
    (hw : fld b 8 1 = 0) (hl : stwLegal opc st = true) : StwRuns (stw0 st b l) 0 opc (stwJob0 b) :=
  ⟨by simp [State.stwJob, stw0, stwJob0], h, rfl, fun c => by simp [stwJob0, hw] at c, rfl, rfl, hl⟩

def loadDesc : Block64 := bits 512 [(0, 0x80), (256, 3), (264, 1), (288, 8), (320, hostBase + 0x9000)]
def startDesc : Block64 := bits 512 [(0, 0x81), (256, 2 ^ 3 + 2 ^ 95)]

/-- Cluster 3 is Dark. -/
def darkState (st : DevState) (b : Block64) : State := (stw0 st b []).onClus 3 fun x => { x with region := .dark }
theorem wit_StewardMovesCores : (StwRuns (stw0 .ready loadDesc [(hostBase + 0x9000, natLe 8 77)]) 0 0x80 (stwJob0 loadDesc) ∧
      ((stw0 .ready loadDesc [(hostBase + 0x9000, natLe 8 77)]).memRead .steward 0 (hostBase + 0x9000) 8 []) =
        ((0, natLe 8 77), stw0 .ready loadDesc [(hostBase + 0x9000, natLe 8 77)])) ∧
    StwRuns (stw0 .running startDesc []) 0 0x81 (stwJob0 startDesc) ∧
    (∀ c ∈ ccMask startDesc, (stw0 .running startDesc []).isDark c = false) ∧
    StwRuns (stw0 .held stopDesc []) 0 0x82 (stwJob0 stopDesc) :=
  ⟨⟨stwRuns _ _ _ _ (by decide +kernel) (by decide +kernel) (by decide +kernel), by decide +kernel⟩,
    stwRuns _ _ _ _ (by decide +kernel) (by decide +kernel) (by decide +kernel), by decide +kernel,
    stwRuns _ _ _ _ (by decide +kernel) (by decide +kernel) (by decide +kernel)⟩
theorem wit_DarkCores : (darkState .ready loadDesc).isDark (fld loadDesc 256 7) = true ∧
    (∃ c ∈ ccMask startDesc, (darkState .running startDesc).isDark c = true) ∧
    (darkState .running startDesc).stwJob 0 = some (stwJob0 startDesc) := by decide +kernel
theorem test_ccStart_dark : goes (exec (.ccStart 0) (darkState .running startDesc)) (fun t => t.stw.jobs.isEmpty &&
    (t.clus 95).cc == .reset) = true := by decide +kernel
theorem test_ccLoad : goes (exec (.ccLoad 0 []) (stw0 .ready loadDesc [(hostBase + 0x9000, natLe 8 77)])) (fun t =>
    (t.clus 3).dmem == [(0, 77)] && t.stw.jobs.isEmpty) = true := by decide +kernel
theorem test_ccStart : goes (exec (.ccStart 0) (stw0 .running startDesc [])) (fun t => (t.clus 95).cc == .running &&
    (t.clus 94).cc == .reset) = true := by decide +kernel
theorem test_ccStop : goes (exec (.ccStop 0) (stw0 .held stopDesc [])) (fun t => (t.clus 3).cc == .reset) = true := by
  decide +kernel

/-! ### Commit, abort and restart -/

def commitDesc : Block64 := bits 512 [(0, 0x8A), (256, 8)]
/-- EPOCH is 7. -/
def commitState : State := with_ (stw0 .running commitDesc []) [(R.updEpoch, 7 + 2 ^ 32)]
theorem wit_CommitAdvancesEpoch : commitState.stwJob 0 = some (stwJob0 commitDesc) ∧ commitState.rf R.updCtl 1 1 = 1 ∧
    commitState.priv.due = none ∧ fld commitDesc 256 32 = commitState.epoch + 1 ∧ commitState.epoch + 1 ≤ 0xFFFFFFFF ∧
    commitState.dev.replayDue = [] ∧ commitState.private_ = false ∧ stwLegal 0x8A commitState.dev.st = true ∧
    commitState.heldBack 0 = false ∧ commitState.stw.applies = [] := by decide +kernel
/-- The two writes of a commit, to an empty area in HBM. -/
theorem wit_commitWrites : (commitState.commitDigest 8 []).1.1 = 0 ∧
    (commitState.memWrite .steward 8 (natLe 8 5) 0 []).1 = 0 ∧
    (commitState.memWrite .steward 0 (natLe 8 (commitRec 8 5)) 0 []).1 = 0 := by decide +kernel
/-- A replay is due, with one REPLAY of the job counted of three allowed. -/
def abortState (n : Nat) : State :=
  let s := with_ (stw0 .running stopDesc []) [(R.updRplcnt, n)]
  { s with dev := { s.dev with replayDue := [⟨0x2002, 0, 0, false⟩] } }
/-- The same for a cause that asks for a hold, with no reset of an object waiting, and with one of object 6 at tick 50. -/
def holdState (l : SMap SyncObj) : State :=
  let s := abortState 2
  { s with
    ticks := 50
    dev := { s.dev with replayDue := [⟨0x2002, 0, 0, true⟩] }
    sync := { s.sync with obj := l } }
theorem wit_AbortAndRestart : (abortState 2).running = true ∧ (abortState 2).dev.replayDue ≠ [] ∧
    (abortState 2).priv.due = none ∧
    (abortState 2).rf R.updRplcnt 0 8 + 1 ≤ (abortState 2).rf R.updTwincfg 0 4 ∧
    (abortState 3).rf R.updTwincfg 0 4 < (abortState 3).rf R.updRplcnt 0 8 + 1 ∧
    (abortState 2).dev.replayDue.find? (·.hold) = none ∧ (holdState []).dev.replayDue.find? (·.hold) ≠ none := by
  decide +kernel
theorem test_abortHolds : goes (exec .replayAbort (holdState [])) (fun t => t.resetsDone && t.dev.st == .held) = true ∧
    goes (exec .replayAbort (holdState [(6, ⟨9, 4, some 0⟩)])) (fun t => !t.resetsDone && t.dev.st == .running &&
      t.dev.holdDue.isSome) = true := by decide +kernel
theorem test_replayAbort : goes (exec .replayAbort (abortState 2)) (fun t => t.runGen == 1 && t.stw.jobs.isEmpty &&
    t.dev.restartDue && (t.clus 3).cc == .paused) = true := by decide +kernel
theorem test_replayAbort_limit : goes (exec .replayAbort (abortState 3)) (fun t => t.dev.st == .fault && t.runGen == 0) =
    true := by decide +kernel

def restartState : State :=
  let s := on_ (at_ .running) 3 { core with cc := .paused, tileLive := [(0, [⟨0x3000, 0, 1, 0, 16, 0⟩])] }
  { s with dev := { s.dev with restartDue := true } }
theorem wit_Restart : restartState.dev.restartDue = true ∧ restartState.running = true ∧ restartState.resetsDone = true ∧
    restartState.dev.holdDue = none ∧ restartState.rd R.updPcbbase = 0 := by decide +kernel
/-- A hold that waited for the resets. -/
def heldRestart : State := { restartState with dev := { restartState.dev with holdDue := some ⟨0x2002, 0, 0, true⟩ } }
theorem wit_heldRestart : heldRestart.resetsDone = true ∧ heldRestart.dev.holdDue ≠ none := by decide +kernel
theorem test_replayRestart_held : goes (exec .replayRestart heldRestart) (fun t => t.dev.st == .held &&
    t.dev.holdDue == none && t.cl == heldRestart.cl) = true := by decide +kernel
theorem test_replayRestart : goes (exec .replayRestart restartState) (fun t => (t.clus 3).cc == .running &&
    (t.clus 3).tileShadow == (t.clus 3).tileLive) = true := by decide +kernel

/-! ### Update commands -/

/-- A shard of 4,096 elements owned here, its gradient of 32-bit integers, its moments and compute copy in codebooks 1 and 2,
all in host memory; `b` is the command of the update. -/
def shardEntry : List Byte :=
  natLe 16 (4096 + 2 ^ 32) ++ natLe 8 (hostBase + 0x40000) ++ natLe 8 (hostBase + 0x50000) ++ natLe 8 (hostBase + 0x20000) ++
  natLe 8 (hostBase + 0x20040) ++ natLe 16 0 ++ natLe 8 (hostBase + 0x20080) ++ natLe 8 (hostBase + 0x200C0) ++
  natLe 8 (hostBase + 0x20100)
def momHdr (i : Nat) : Block64 := bits 512 [(0, 1), (32, 1), (64, hostBase + 0x60000 + 0x2000 * i),
  (128, hostBase + 0x61000 + 0x2000 * i), (256, 4096), (288, 1), (320, 4096), (352, 64)]
def gradHdr : Block64 := bits 512 [(0, 3), (64, hostBase + 0x70000), (256, 4096), (288, 1), (320, 16384)]
def copyHdr (i : Nat) : Block64 := bits 512 [(0, 0), (32, 2), (64, hostBase + 0x80000 + 0x2000 * i),
  (128, hostBase + 0x81000 + 0x2000 * i), (256, 4096), (288, 1), (320, 2048), (352, 64)]
def q8Levels : List (BitVec 16) := (List.range 256).map fun i => BitVec.ofInt 16 (16 * ((i : Nat) : Int) - 2032)
def codeSlot (f : CbState) (l : List (BitVec 16)) : CbSlot := ⟨f, 0, l, l.map fun w => resOf (sx 16 w.toNat)⟩
def updState (b : Block64) : State :=
  let s := stw0 .running b [(hostBase + 0x10000, shardEntry), (hostBase + 0x20000, natLe 64 (momHdr 0).toNat),
    (hostBase + 0x20040, natLe 64 (momHdr 1).toNat), (hostBase + 0x20080, natLe 64 gradHdr.toNat),
    (hostBase + 0x200C0, natLe 64 (bits 512 [(16, hostBase + 0x20140)]).toNat),
    (hostBase + 0x20100, natLe 64 (bits 512 [(16, hostBase + 0x20180)]).toNat),
    (hostBase + 0x20140, natLe 64 (copyHdr 0).toNat), (hostBase + 0x20180, natLe 64 (copyHdr 1).toNat)]
  with_ { s with cb := [(1, codeSlot .q8 q8Levels), (2, codeSlot .q4 q4Levels)] }
    [(R.updShtab, hostBase + 0x10000), (R.updShcnt, 1), (R.updPartab, hostBase + 0x30000), (R.updLrtab, hostBase + 0x31000)]
def prepDesc : Block64 := bits 512 [(0, 0x88), (320, hostBase + 0x32000)]
def applyDesc (cc : Nat) : Block64 := bits 512 [(0, 0x89), (320, hostBase + 0x32000), (384, cc)]
def checked (b : Block64) : (Nat × Nat) × State := ((updState b).onStw 0 fun j => { j with eng := 2 }).updCheck 2 b 0 []
theorem updRuns (b : Block64) (opc : Nat) (h : fld b 0 8 = opc) (hw : fld b 8 1 = 0) (hl : stwLegal opc .running = true) :
    StwRuns (updState b) 0 opc (stwJob0 b) := by
  have hj : (updState b).stw.jobs = [stwJob0 b] := rfl
  exact ⟨by simp [State.stwJob, hj, stwJob0], h, rfl, fun c => by simp [stwJob0, hw] at c, rfl, rfl, hl⟩
theorem wit_UpdateCommands : (updState prepDesc).rf R.updCtl 1 1 = 1 ∧ (updState prepDesc).loadPending 0 [] = false ∧
    (updState prepDesc).rf R.stmCkctl 0 1 = 0 ∧ (updState prepDesc).sec.sealMem = false ∧ (checked prepDesc).1 = (0, 0) ∧
    (checked (applyDesc 1)).1 = (0, 0) ∧ (checked (applyDesc 0)).1 = (0, 0) := by decide +kernel
theorem wit_updateRuns : StwRuns (updState prepDesc) 0 0x88 (stwJob0 prepDesc) ∧
    StwRuns (updState (applyDesc 1)) 0 0x89 (stwJob0 (applyDesc 1)) ∧
    StwRuns (updState (applyDesc 0)) 0 0x89 (stwJob0 (applyDesc 0)) ∧
    fld (applyDesc 1) 384 1 = 1 ∧ fld (applyDesc 0) 384 1 = 0 ∧ fld prepDesc 320 48 % 32 = 0 ∧
    fld prepDesc 320 48 ≥ hostBase :=
  ⟨updRuns _ _ (by decide +kernel) (by decide +kernel) (by decide +kernel),
    updRuns _ _ (by decide +kernel) (by decide +kernel) (by decide +kernel),
    updRuns _ _ (by decide +kernel) (by decide +kernel) (by decide +kernel), by decide +kernel⟩
theorem wit_updPrep : (checked prepDesc).2.private_ = false ∧ ((checked prepDesc).2.shard 0).owned = true ∧
    ((checked prepDesc).2.readElems (.update 2) 0 ((checked prepDesc).2.hdrAt ((checked prepDesc).2.shard 0).grad) []).1.1 = 0 ∧
    ((checked (applyDesc 1)).2.shard 0).ws 0 ≥ hostBase := by decide +kernel

/-! ### Collectives and messages -/

/-- Group 0 of ranks 1 and 2, this device the member of position 0, at generation 5; group 1 of this device alone; rank 2 is
reached through port 3. Argument block at 0x2000, table at 0x2100, two headers (the second of 32-bit integers in host
memory), a shard of row 0. -/
def hdr32 : Block64 := bits 512 [(0, 3), (8, 1), (64, hostBase + 0x20000), (256, 512), (288, 4), (320, 2048)]
def collMem (args : Block64) (tab : List Byte) : Mem :=
  memOf [(0x2000, natLe 64 args.toNat), (0x2100, tab), (0x3000, natLe 64 hdr16.toNat), (0x3040, natLe 64 hdr32.toNat),
    (0x4000, natLe 2 2), (0x4004, natLe 2 5), (0x4008, natLe 8 0x4100), (0x4040, natLe 2 1), (0x4048, natLe 8 0x4100),
    (0x4100, natLe 2 1), (0x4104, natLe 2 2), (0x4810, natLe 8 (2 ^ 32 + 8)), (0x5048, natLe 8 0x6000),
    (0x5000, natLe 4 512), (0x6000, natLe 8 (0x3000 * 2 ^ 16)), (0x10000, [3, 0, 0xFE, 0xFF])]

/-- Collective 7 from descriptor 1 of cluster 3, of an opcode, on a group. -/
def collCmd (opc g : Nat) : Block64 := bits 512 [(0, opc), (264, g), (320, 9), (384, 0x2000)]
def cj (b : Block64) : CollJob := ⟨7, b, none, some (3, 1), 0, [], .run, 0, [], [], [], 0, 0, 0, false⟩
def collState (b args : Block64) (tab : List Byte) (got : List (Nat × Msg)) : State :=
  with_ { at_ .running with
      mem := collMem args tab
      cl := [(3, { core with flight := [job 1 b .given] })]
      lnk := { State.reset.lnk with
        port := [(3, { PortS.reset with st := .up })]
        eng := [(2, { CollEng.reset with jobs := [cj b], got := got })] } }
    [(R.lnkCtl, 1 + 10 * 2 ^ 16), (R.lnkRtbase, 0x4800), (R.lnkGtbase, 0x4000), (R.updShtab, 0x5000), (R.updShcnt, 1),
      (R.lnkStg, 64)]
theorem collRuns (b args : Block64) (tab : List Byte) (got : List (Nat × Msg)) (opc : Nat) (h : fld b 0 8 = opc)
    (q : (collState b args tab got).collQuiet ((collState b args tab got).cctx 2 (cj b) [] false) = true)
    (c : (collState b args tab got).coll 2 7 = some (cj b)) (r : (collState b args tab got).running = true) :
    CollRuns (collState b args tab got) 2 7 opc (cj b) ((collState b args tab got).cctx 2 (cj b) [] false) :=
  ⟨c, h, rfl, rfl, .inl r, q, rfl⟩

/-- Bytes of a message on its way. -/
def sentBytes (o : OutMsg) : List Byte := o.pay.flatMap fun w => natLe 224 w.toNat
/-- A partial sum of position 1, elements 1 and 2. -/
def part (g n : Nat) (data : List Byte) : Msg := ⟨2, BitVec.ofNat 8 g, BitVec.ofNat 16 n, 9, 0, 0, true, false, 0, data⟩
def rsArgs : Block64 := bits 512 [(0, 0x3000), (128, 0x2100), (192, 1)]
def rsTab : List Byte := natLe 8 0 ++ natLe 4 2 ++ natLe 4 0 ++ natLe 8 0x3040
def rsState : State := collState (collCmd 0x40 0) rsArgs rsTab [(1, part 0 5 (natLe 4 7 ++ natLe 4 0xFFFFFFFF))]
theorem wit_CollRs : CollRuns rsState 2 7 0x40 (cj (collCmd 0x40 0)) (rsState.cctx 2 (cj (collCmd 0x40 0)) [] false) ∧
    (let x := rsState.cctx 2 (cj (collCmd 0x40 0)) [] false
     (rsState.hdrAt 0x3040).fmt = 3 ∧ rsState.chunks x.a = [⟨0, 2, 0, 0x3040, true⟩] ∧ 0 = x.g.pos ∧ x.y.dual = false ∧
     2 ≤ (rsState.hdrAt 0x3040).k ∧ (rsState.hdrAt 0x3040).codes ≥ hostBase ∧ (rsState.rsOwn x 0 2).1 = (0, [3, -2]) ∧
     ((x.rsFrom 0).map fun p => rsState.gotMsg x 1 0 0 (rsState.memberRank x.g p)) =
       [part 0 5 (natLe 4 7 ++ natLe 4 0xFFFFFFFF)].map some ∧ (natLe 4 7 ++ natLe 4 0xFFFFFFFF).length = 4 * 2) :=
  ⟨collRuns _ _ _ _ _ (by decide +kernel) (by decide +kernel) (by decide +kernel) (by decide +kernel), by decide +kernel⟩
theorem test_collRs : (let t := nx (exec (.collRs 2 7 false []) rsState)
    (t.mem.bytes (hostBase + 0x20000) 8, (t.clus 3).flight.map (·.ph))) =
      (natLe 4 10 ++ natLe 4 0xFFFFFFFD, [.worked]) := by decide +kernel

def agArgs : Block64 := bits 512 [(64, 0x3000), (128, 0x2100), (192, 1)]
def agState : State := collState (collCmd 0x41 0) agArgs [] []
theorem wit_CollAg : CollRuns agState 2 7 0x41 (cj (collCmd 0x41 0)) (agState.cctx 2 (cj (collCmd 0x41 0)) [] false) ∧
    (let x := agState.cctx 2 (cj (collCmd 0x41 0)) [] false
     let runs := agState.shardRuns (agState.hdrAt x.a.dst) (agState.shard 0)
     agState.chunks x.a = [⟨0, 0, 0, 0, true⟩] ∧ 0 = x.g.pos ∧ x.agTo 0 = [1] ∧ runsLen runs = 1024 ∧
     (agState.readAll x.client x.h.tag (cutRuns runs 0 (runsLen runs)) []).1 = 0 ∧
     routeValid (agState.route (agState.memberRank x.g 1)) = true ∧ agState.memberRank x.g 1 = 2 ∧
     agState.pickPort 2 true x.y.cseq 0 = some 3) :=
  ⟨collRuns _ _ _ _ _ (by decide +kernel) (by decide +kernel) (by decide +kernel) (by decide +kernel), by decide +kernel⟩
theorem test_collAg : (nx (exec (.collAg 2 7 []) agState)).lnk.out.map (fun o => (o.port, o.dst, (sentBytes o).length)) =
    [(3, 2, 1120)] := by decide +kernel

/-- One row to itself: row 0 to row 1, which asks for two rows. -/
def a2aArgs : Block64 := bits 512 [(0, 0x3000), (64, 0x3000), (128, 0x2100)]
def a2aState : State := collState (collCmd 0x42 1) a2aArgs (natLe 4 0 ++ natLe 4 1 ++ natLe 4 1 ++ natLe 4 2) []
theorem wit_CollA2a : CollRuns a2aState 2 7 0x42 (cj (collCmd 0x42 1)) (a2aState.cctx 2 (cj (collCmd 0x42 1)) [] false) ∧
    (let x := a2aState.cctx 2 (cj (collCmd 0x42 1)) [] false
     let h := a2aState.hdrAt x.a.dst
     x.g.n = 1 ∧ x.g.pos = 0 ∧ (a2aState.a2aData x 0).1 = (0, a2aState.mem.bytes 0x10000 1024) ∧
     h.rowBytes = 1024 ∧ a2aState.split x.a.tab 0 = ⟨0, 1, 1, 2⟩ ∧
     ((a2aState.a2aData x 0).2.writeAll x.client (layRuns ((List.range 2).flatMap fun i => h.rowRuns (1 + i))
       (a2aState.mem.bytes 0x10000 1024 ++ List.replicate 1024 0)) x.h.rclass []).1 = 0) :=
  ⟨collRuns _ _ _ _ _ (by decide +kernel) (by decide +kernel) (by decide +kernel) (by decide +kernel), by decide +kernel⟩
theorem test_collA2a : (nx (exec (.collA2a 2 7 []) a2aState)).mem.bytes 0x10400 4 = [3, 0, 0xFE, 0xFF] := by decide +kernel

def arArgs : Block64 := bits 512 [(0, hostBase), (64, hostBase + 64), (192, 1)]
def arState : State := collState (collCmd 0x43 0) arArgs [] [(5, part 0 5 (natLe 8 (2 ^ 63 - 1) ++ [0]))]
def arState1 : State := { arState with mem := arState.mem.write hostBase (natLe 8 5) }
theorem wit_CollAllred : CollRuns arState 2 7 0x43 (cj (collCmd 0x43 0)) (arState.cctx 2 (cj (collCmd 0x43 0)) [] false) ∧
    (let x := arState.cctx 2 (cj (collCmd 0x43 0)) [] false
     x.g.pos = 0 ∧ 0 < x.a.count ∧ x.a.src ≥ hostBase ∧ x.a.dst ≥ hostBase ∧ arState.sec.sealMem = false ∧
     arState.gotMsg x 6 0 0 arState.rank = none ∧ ((treeKids x.g.n 0 0).map fun p => arState.gotMsg x 5 0 0
       (arState.memberRank x.g p)) = [part 0 5 (natLe 8 (2 ^ 63 - 1) ++ [0])].map some) :=
  ⟨collRuns _ _ _ _ _ (by decide +kernel) (by decide +kernel) (by decide +kernel) (by decide +kernel), by decide +kernel⟩
theorem test_collAllred : (nx (exec (.collAllred 2 7 false []) arState1)).mem.bytes (hostBase + 64) 8 = natLe 8 (2 ^ 63 - 1) := by
  decide +kernel

def putArgs : Block64 := bits 512 [(0, hostBase), (64, 0x7000), (192, 8), (224, 2)]
def putState : State := collState (collCmd 0x44 0) putArgs [] []
/-- The PUT with its one message out. -/
def putSent : State := { putState with lnk := { putState.lnk with
  eng := [(2, { CollEng.reset with jobs := [{ cj (collCmd 0x44 0) with sent := [sentKey 0 2 0] }] })] } }
def sigArgs : Block64 := bits 512 [(192, 3), (224, 2), (240, 5)]
def sigState : State := collState (collCmd 0x45 0) sigArgs [] []
theorem wit_PointToPoint : CollRuns putState 2 7 0x44 (cj (collCmd 0x44 0)) (putState.cctx 2 (cj (collCmd 0x44 0)) [] false) ∧
    CollRuns sigState 2 7 0x45 (cj (collCmd 0x45 0)) (sigState.cctx 2 (cj (collCmd 0x45 0)) [] false) ∧
    (let x := putState.cctx 2 (cj (collCmd 0x44 0)) [] false
     putState.upPorts x.a.peer = [3] ∧ routeValid (putState.route x.a.peer) = true ∧ 0 < x.a.count ∧ x.a.count ≤ putMax ∧
     x.a.src ≥ hostBase ∧ putState.sec.sealMem = false ∧ putSent.running = true ∧
     putSent.collQuiet (putSent.cctx 2 { cj (collCmd 0x44 0) with sent := [sentKey 0 2 0] } [] false) = true ∧
     ceilDiv x.a.count putMax = 1) ∧
    sigState.upPorts (sigState.cctx 2 (cj (collCmd 0x45 0)) [] false).a.peer = [3] ∧ sigState.writesAt 2 7 2 = false ∧
    0 + bitsOf (sigState.rd R.lnkCtl) 16 8 * 100000 ≤ { sigState with ticks := 1000000 }.ticks :=
  ⟨collRuns _ _ _ _ _ (by decide +kernel) (by decide +kernel) (by decide +kernel) (by decide +kernel),
    collRuns _ _ _ _ _ (by decide +kernel) (by decide +kernel) (by decide +kernel) (by decide +kernel), by decide +kernel⟩
theorem test_collPut : (nx (exec (.collPut 2 7 none []) putState)).lnk.out.map (fun o => (o.port, o.dst,
    ((sentBytes o).drop 48).take 24)) =
      [(3, 2, natLe 8 0x7000 ++ natLe 4 8 ++ natLe 4 0 ++ List.replicate 8 0)] := by decide +kernel
theorem test_collPut_report : ((nx (exec (.collPut 2 7 (some false) []) putSent)).clus 3).flight.map (·.status) = [0x10] := by
  decide +kernel
theorem test_collSignal : (nx (exec (.collSignal 2 7 []) sigState)).lnk.out.map (fun o => (o.port, o.dst,
    ((sentBytes o).drop 48).take 16)) = [(3, 2, natLe 2 5 ++ natLe 2 0 ++ natLe 4 3 ++ natLe 8 0)] := by decide +kernel
theorem test_collectiveTimeout : goes (exec (.collectiveTimeout 2 7) { sigState with ticks := 1000000 }) (fun t =>
    t.coll 2 7 == none && (t.clus 3).flight.map (·.status) == [0x40] && t.rd R.lnkTmocnt == 1) = true := by decide +kernel

/-- A message of a collective that does not run, of group 0; one of another generation; one of a number completed. -/
def early : Msg := part 0 5 [1, 2]
def lateState : State := { sigState with lnk := { sigState.lnk with
  eng := [(2, { CollEng.reset with done := [(0, 5, 9)], seen := [(2, 9)] })] } }
def putMsg : Msg := { part 0 5 (natLe 8 0x404000000000 ++ natLe 4 3 ++ natLe 4 0 ++ [9, 8, 7]) with group := 0 }
def sigMsg : Msg := part 0 5 (natLe 2 5 ++ natLe 2 0 ++ natLe 4 3 ++ natLe 8 0)
def fetchMsg : Msg := part 0 5 (natLe 8 0 ++ [0] ++ natLe 4 0)
theorem wit_MessagesArrive : (early.cgen.toNat = sigState.cgenOf 0 ∧ sigState.collOf 0 9 = none ∧ sigState.kept = [] ∧
      (sigState.lnk.eng.any fun p => p.2.done.contains (0, 5, 9)) = false ∧
      sigState.staged 2 + 48 + early.data.length ≤ bitsOf (sigState.rd R.lnkStg) 0 8 * 2 ^ 20 / 4) ∧
    (part 0 4 [1]).cgen.toNat ≠ sigState.cgenOf 0 ∧
    (lateState.lnk.eng.any fun p => p.2.done.contains (0, 5, 9)) = true ∧ lateState.cgenOf 0 = 5 ∧
    (agState.collOf 0 9 = some (2, cj (collCmd 0x41 0)) ∧ agState.kept = [] ∧ agState.cgenOf 0 = 5 ∧ agState.running = true ∧
      (agState.lnk.eng.any fun p => p.2.done.contains (0, 5, 9)) = false) ∧
    ((sigState.lnk.eng.any fun p => p.2.seen.contains (2, 9)) = false ∧
      (lateState.lnk.eng.any fun p => p.2.seen.contains (2, 9)) = true) ∧
    (leAt putMsg.data 0 6 ≥ hostBase ∧
      leAt putMsg.data 0 6 + leAt putMsg.data 8 4 ≤ hostBase + sigState.fuse.hostBytes ∧
      sigState.dataOk (2 ^ 47 + 2 ^ 46) (leAt putMsg.data 8 4) = false) ∧
    ((sigState.obj 5).gen.toNat = leAt sigMsg.data 2 2 ∧
      (with_ sigState [(R.lnkTcfg, 1)]).timeLocked = true ∧
      (sigState.time.meridian - BitVec.ofNat 64 (leAt sigMsg.data 8 8)).toNat ≤ 256000) ∧
    (let runs := agState.shardRuns (agState.hdrAt (rqcbOf (agState.peek64 ((agState.shard 0).ccrq 0))).outhdr) (agState.shard 0)
     runsLen runs = 1024 ∧ ((agState.takeInbox 9 fetchMsg).readAll (.coll 2) 0 runs []).1 = 0 ∧
       routeValid (agState.route 2) = true ∧ agState.pickPort 2 true 9 0 = some 3) := by decide +kernel
theorem test_rsPartial : ((nx (exec (.rsPartial 1 early false []) sigState)).eng 1).got = [(1, early)] := by decide +kernel
theorem test_rsPartial_stale : (nx (exec (.rsPartial 1 (part 0 4 [1]) false []) sigState)).rd R.lnkStalecnt = 1 := by
  decide +kernel
/-- A COLL_RS that waits for the one partial sum. -/
def rsWait : State := collState (collCmd 0x40 0) rsArgs rsTab []
def rsLast : Msg := part 0 5 (natLe 4 7 ++ natLe 4 0xFFFFFFFF)
theorem wit_RsPartialFails : (let j := cj (collCmd 0x40 0)
    let x := rsWait.cctx 2 j [] true
    let u := ((rsWait.takeInbox 1 rsLast).onEng 2 fun y => { y with got := (1, rsLast) :: y.got }).onColl 2 j.k fun i =>
      { i with last := rsWait.ticks }
    rsLast.cgen.toNat = rsWait.cgenOf 0 ∧ rsWait.collOf 0 9 = some (2, j) ∧ rsWait.coll 2 7 = some j ∧
    rsWait.kept = [] ∧ fld j.cmd 0 8 = 0x40 ∧ rsWait.running = true ∧ rsWait.chunks x.a = [⟨0, 2, 0, 0x3040, true⟩] ∧
    ((x.rsFrom 0).all fun p => (u.gotMsg x 1 0 0 (rsWait.memberRank x.g p)).isSome) = true ∧
    (u.rsOwn x 0 2).1.1 = 0 ∧ (u.rsOwn x 0 2).2.running = true) := by decide +kernel
theorem test_rsPartial_residue : goes (exec (.rsPartial 2 rsLast true []) rsWait) (fun t => t.coll 2 7 == none &&
    t.dev.replayDue.map (·.code) == [0x4007] && (t.clus 3).flight.map (·.status) == [0x31]) = true := by decide +kernel
theorem test_put : (let t := nx (exec (.put 1 putMsg []) sigState)
    (t.mem.bytes 0x404000000000 3, t.answer)) = ([9, 8, 7], (0, [])) := by decide +kernel
theorem test_signal : (nx (exec (.signal 1 sigMsg) (with_ sigState [(R.lnkTcfg, 1)]))).obj 5 = ⟨3, 0, none⟩ := by
  decide +kernel
theorem test_fetch : (nx (exec (.fetch 1 fetchMsg []) agState)).lnk.out.map (fun o => (o.port, o.dst,
    (sentBytes o).length)) = [(3, 2, 1120)] := by decide +kernel

/-! ### Ports and time -/

/-- Port 3 in a state, enabled, named rank 2 port 5, with the installation's key. -/
def portIn (x : PortS) : State :=
  let s := at_ .ready
  with_ { s with
      ticks := 300000000
      sec := { s.sec with keys := [(8, 7)] }
      lnk := { s.lnk with port := [(3, x)] } }
    [(R.lnkPctl 3, 1), (R.lnkPeer 3, 2 + 5 * 2 ^ 12), (R.lnkCtl, 1 + 2 * 2 ^ 24)]
def inState (st : PortSt) (since : Nat) (cause : Nat) : PortS :=
  { PortS.reset with
    st := st
    since := since
    cause := BitVec.ofNat 4 cause
    rank := 1 }
def upPort : PortS := inState .up 0 0

theorem wit_PortsTrain : (let s := portIn (inState .dark 0 0)
      s.portOn 3 = true ∧ (s.port 3).light ≠ 0 ∧ (s.port 3).late s.ticks = false ∧
      (0xFE &&& (s.port 3).light) ≠ 0 ∧ (0 : BitVec 8) &&& (s.port 3).light = 0 ∧
      bitsOf (s.rd (R.lnkPeer 3)) 0 12 = 2 ∧ bitsOf (s.rd (R.lnkPeer 3)) 12 5 = 5 ∧ s.linkKdk = some (7, true)) ∧
    ((inState .training 300000000 0).late 300000000 = false ∧ (inState .pairing 300000000 0).late 300000000 = false ∧
      (inState .keying 300000000 0).late 300000000 = false ∧ (inState .retrain 299800000 0).late 300000000 = false) ∧
    (let s := portIn (inState .retrain 299800000 0);
      (s.port 3).st = .retrain ∧ s.ticks ≤ (s.port 3).since + bitsOf (s.rd R.lnkCtl) 24 8 * 100000 ∧
      (s.port 3).since + bitsOf (s.rd R.lnkCtl) 24 8 * 100000 ≤ s.ticks) ∧
    (let s := portIn (inState .keying 0 0);
      (s.port 3).st = .keying ∧ (s.port 3).since + 30 * 100000 < s.ticks) ∧
    (let s := portIn (inState .failed 200000000 6);
      (s.port 3).st = .failed ∧ (s.port 3).qual = false ∧ (s.port 3).cause = 6 ∧
      (s.port 3).since + 100000000 ≤ s.ticks) ∧
    (let s := portIn { upPort with retrains := [299999999, 299999998, 200000001] };
      (s.port 3).st = .up ∧ (s.port 3).lastRx + 10000 ≤ s.ticks ∧
      ((s.port 3).retrains.filter fun t => s.ticks - t < 100000000).length = 3) := by decide +kernel
/-- The steps of an attempt: from DARK to TRAINING, a lock of seven wavelengths, the peer named, the key. -/
def trains (st : PortSt) (o : TrainObs) : PortS :=
  (nx (exec (.linkTraining 3 o) (portIn { inState st 300000000 0 with locked := some 0xFE }))).port 3
theorem test_linkTraining : (trains .dark .signal).st = .training ∧ (trains .training (.deskewed 0xFE)).failed = 1 ∧
    (trains .training (.deskewed 1)).cause = 6 ∧ (trains .pairing (.paired 2 5 1600)).st = .keying ∧
    (trains .pairing (.paired 2 5 1601)).cause = 1 ∧ (trains .pairing (.paired 2 6 1600)).cause = 2 := by decide +kernel
theorem test_linkTraining_up : (let y := trains .keying (.proven true)
    (y.st, y.qual, y.kdk)) = (.up, true, some 7) ∧ (trains .keying (.proven false)).st = .failed := by decide +kernel
/-- Wavelength 0, which had failed, locks again in a retrain; without its key the port pairs again. -/
def retrained (k : Option (BitVec 256)) : PortS :=
  (nx (exec (.linkTraining 3 (.deskewed 0xFF)) (portIn { inState .retrain 299800000 0 with
    failed := 1
    kdk := k }))).port 3
theorem test_linkTraining_retrain : (retrained (some 7)).st = .up ∧ (retrained (some 7)).failed = 0 ∧
    (retrained none).st = .pairing := by decide +kernel
theorem test_trainingTimeout : ((nx (exec (.trainingTimeout 3) (portIn (inState .keying 0 0)))).port 3).st = .failed := by
  decide +kernel
theorem test_trainingRetry : ((nx (exec (.trainingRetry 3) (portIn (inState .failed 200000000 6)))).port 3).st = .training := by
  decide +kernel
theorem test_failedPortRetry : ((nx (exec (.failedPortRetry 3) (portIn (inState .failed 200000000 1)))).port 3).st =
    .training := by decide +kernel
theorem test_retrain : ((nx (exec (.retrain 3 .silence) (portIn upPort))).port 3).st = .retrain := by decide +kernel
theorem test_retrain_fourth : (let t := nx (exec (.retrain 3 .silence) (portIn { upPort with
    retrains := [299999999, 299999998, 200000001] }))
    ((t.port 3).st, (t.port 3).cause, t.rd (R.lnkRtrcnt 3))) = (.failed, 4, 1) := by decide +kernel
theorem test_retrainTimeout : ((nx (exec (.retrainTimeout 3) (portIn (inState .retrain 299800000 0)))).port 3).st =
    .failed := by decide +kernel

theorem wit_LightAndLanes : (let s := portIn { upPort with runs := [(2, (true, 15))] };
      (s.port 3).st = .up ∧ (s.port 3).failed.getLsbD 2 = false ∧ (s.port 3).keyFlits + 1 < 2 ^ 40 ∧
      fld (bits 20 [(8, 2), (11, 1)] : BitVec 20) 8 3 = (2 : Fin 8).val ∧
      fld (bits 20 [(8, 2), (11, 1)] : BitVec 20) 11 1 ≠ fld (bits 20 [(8, 2), (11, 1)] : BitVec 20) 12 1 ∧
      SMap.find 2 (s.port 3).runs = some (decide (fld (bits 20 [(8, 2), (11, 1)] : BitVec 20) 11 1 = 1), 15) ∧
      Fec.clean ≠ .uncorrectable ∧
      s.dev.st ≠ .off ∧ s.dev.inReset = false ∧ s.regs.held = [] ∧ s.running = false) := by decide +kernel
theorem test_lightLoss : (let t := nx (exec (.lightLoss 0 255) (portIn upPort))
    ((t.port 3).st, (t.port 3).failed, (t.port 4).light)) = (.dark, 255, 255) := by decide +kernel
theorem test_wavelengthFailure : (let t := nx (exec (.wavelengthFailure 3 2 true) (portIn upPort))
    ((t.port 3).failed, (t.port 3).fcntTx, t.rd (R.lnkLamcnt 3))) = (4, 1, 1) := by decide +kernel
theorem test_laneWord : ((nx (exec (.laneWord 3 2 (bits 20 [(8, 2), (11, 1)]) .clean) (portIn { upPort with
    runs := [(2, (true, 15))] }))).port 3).rxDown = 4 := by decide +kernel
def unparks : PortS := { upPort with
  runs := [(2, (false, 15))]
  rxDown := 4 }
/-- The 16th UNPARK word powers the wavelength up and sends a LANE flit. -/
theorem test_laneWord_unpark : (let y := (nx (exec (.laneWord 3 2 (bits 20 [(8, 2), (12, 1)]) .clean) (portIn unparks))).port 3
    (y.rxDown, y.fcntTx)) = (0, 1) := by decide +kernel
theorem test_portEnable : (((nx (exec (.portEnable 3 0) (portIn upPort))).port 3).st,
    ((nx (exec (.portEnable 3 1) (portIn (inState .off 0 0)))).port 3).st) = (.off, .dark) := by decide +kernel

/-- A flit of 224 bytes for rank 2 that waits on VC 1. -/
def flit1 (last : Bool) : TxFlit := ⟨6, 1, true, last, 2, 1, 0x030201, [], none⟩
def sends : PortS := { upPort with
  txq := #v[[], [flit1 true], [], []]
  fcntTx := 40
  nextSeq := 9
  peer := some (2, 5) }
/-- A control flit that the port sends. -/
def told (c : Ctl) : Flit := (sends.ctlOut 3 c 0).outCtl
/-- The port at the other end: rank 2, port 5. -/
def takes : PortS := { upPort with
  rank := 2
  peer := some (1, 3)
  expSeq := 9
  fcntRx := 39
  unacked := [⟨9, flit1 true, 0⟩, ⟨10, flit1 true, 0⟩]
  unpark := 0x18 }
def takesAt : State := let s := at_ .ready; { s with lnk := { s.lnk with port := [(5, takes)] } }

theorem wit_FlitsAndKeys : (let s := portIn sends;
      (s.port 3).head 1 = some (9, flit1 true, false) ∧ s.creditFor 3 1 = some 1 ∧ (s.port 3).active ≠ 0 ∧
      s.canSend 3 1 = true ∧ s.vcTurn 3 1 = true ∧ (s.port 3).keyFlits + 1 < 2 ^ 40) ∧
    (bitsOf (1 : Flit).toNat 0 4 = 1 ∧ (takesAt.port 5).nakAt = none ∧
      crc32 ((natLe 256 (1 : Flit).toNat).take 252) ≠ leAt (natLe 256 (1 : Flit).toNat) 252 4) ∧
    (max upPort.lastData upPort.lastCtl + 13 ≤ (portIn upPort).ticks) ∧
    (max upPort.lastData upPort.lastCred + 7 ≤ (portIn upPort).ticks) ∧
    (bitsOf (2 : Flit).toNat 0 4 = 2 ∧
      crc32 ((natLe 256 (2 : Flit).toNat).take 252) ≠ leAt (natLe 256 (2 : Flit).toNat) 252 4) ∧
    ((portIn { upPort with oldKey := some (4, 0) }).port 3).oldKey = some (4, 0) ∧
    bitsOf (0x8001 : BitVec 32).toNat 15 1 = 1 := by decide +kernel
theorem test_dataFlitTransmit : (let y := (nx (exec (.dataFlitTransmit 3 1) (portIn sends))).port 3
    (y.unacked, y.nextSeq, y.fcntTx, y.used)) = ([⟨9, flit1 true, 0⟩], 10, 41, #v[0, 1, 0, 0, 0]) := by decide +kernel
theorem test_dataFlitReceive_crc : (let y := (nx (exec (.dataFlitReceive 5 1) takesAt)).port 5
    (y.expSeq, y.freed, y.fcntTx)) = (9, #v[1, 0, 0, 0, 0], 1) := by decide +kernel

/-! A control flit arrives at the other end with its content. -/
theorem wit_ctl_nak : (takesAt.ctlIn 5 (told (.nak 10))).1 = some (.nak 10) ∧
    takes.unacked = [⟨9, flit1 true, 0⟩] ++ (⟨10, flit1 true, 0⟩ : Unacked) :: [] ∧
    (10 : BitVec 12) = 9 + BitVec.ofNat 12 1 := by decide +kernel
theorem test_nak : (let y := (nx (exec (.nak 5 (told (.nak 10))) takesAt)).port 5
    (y.unacked.map (·.seq), y.resend, y.fcntRx)) = ([10], some 10, 41) := by decide +kernel
theorem test_credits : ((nx (exec (.credits 5 (told (.credits #v[1, 2, 3, 4, 5]))) takesAt)).port 5).freedIn =
    #v[1, 2, 3, 4, 5] := by decide +kernel
theorem test_rekey : ((nx (exec (.rekey 5 (told (.rekey 8))) takesAt)).port 5).announced = some 8 := by decide +kernel
theorem test_lane : (let y := (nx (exec (.lane 5 (told (.lane 0xF0 0x0F 0))) takesAt)).port 5
    (y.failed, y.unpark, y.peerFailed)) = (0x0F, 0x08, 0x0F) := by decide +kernel
theorem test_creditsIdle : ((nx (exec (.creditsIdle 3) (portIn upPort))).port 3).lastCred = 300000000 := by decide +kernel
theorem test_ackKeepalive : ((nx (exec (.ackKeepalive 3) (portIn upPort))).port 3).fcntTx = 1 := by decide +kernel
theorem test_keyDiscard : ((nx (exec (.keyDiscard 3) (portIn { upPort with oldKey := some (4, 299999001) }))).port 3).oldKey =
    some (4, 299999001) := by decide +kernel
theorem test_lnkCtlRekey : (let y := (nx (exec (.lnkCtlRekey 0x8001) (portIn upPort))).port 3
    (y.kgenTx, y.kphTx, y.fcntTx)) = (1, true, 1) := by decide +kernel

theorem wit_LinkDelivers : (let a := portIn sends
    let x := a.port 3
    let y := takesAt.port 5
    x.st = .up ∧ x.head 1 = some (9, flit1 true, false) ∧ (flit1 true).vc = 1 ∧ a.creditFor 3 1 = some 1 ∧ x.active ≠ 0 ∧
    a.canSend 3 1 = true ∧ a.vcTurn 3 1 = true ∧ x.fcntTx.toNat + 1 < 2 ^ 64 ∧ y.st = .up ∧ y.kphRx = x.kphTx ∧
    y.expSeq = 9 ∧ (flit1 true).dst = y.rank ∧ y.fcntRx.toNat < x.fcntTx.toNat + 1 ∧
    x.fcntTx.toNat + 1 < y.fcntRx.toNat + 2 ^ 31) := by decide +kernel
theorem wit_LinkDelivers_keys : takes.dirKey 5 false takes.kgenRx.toNat = sends.dirKey 3 true sends.kgenTx.toNat ∧
    (portIn sends).port 3 = sends ∧ takesAt.port 5 = takes := ⟨rfl, by decide +kernel, by decide +kernel⟩

theorem wit_TimeAcrossDevices : (let s := portIn { upPort with qual := true };
      (s.port 3).st = .up ∧ (s.port 3).qual = true ∧ (s.port 3).keyFlits + 1 < 2 ^ 40) ∧
    (let s := with_ (portIn upPort) [(R.lnkTcfg, 6 + 10 * 2 ^ 12)]
     let u := { s with lnk := { s.lnk with tsync := { s.lnk.tsync with
       t1 := some 100
       good := 7
       locked := true } } }
     u.lnk.tsync.t1 = some 100 ∧ bitsOf (u.rd R.lnkTcfg) 0 1 = 0 ∧ 3 = u.parentPort ∧ (u.port 3).st = .up ∧
     u.lnk.tsync.lastReq + bitsOf (u.rd R.lnkTcfg) 12 8 * 100 ≤ u.ticks ∧ u.lnk.tsync.lastOk + 100000 ≤ u.ticks ∧
     u.lnk.tsync.locked = true) := by decide +kernel
/-- A follower of a port at Meridian 1,000 that asked at 100. -/
def follows (port : Nat) (s : State) : State :=
  let s := with_ s [(R.lnkTcfg, 2 * port + 10 * 2 ^ 12)]
  { s with
    time := { s.time with meridian := 1000 }
    lnk := { s.lnk with tsync := { s.lnk.tsync with
      t1 := some 100
      good := 7 } } }
def asked : State := follows 3 (portIn upPort)
theorem test_time : (takesAt.ctlIn 5 (told (.time .request))).1 = some (.time .request) ∧
    (bitsOf ((follows 5 takesAt).rd R.lnkTcfg) 0 1 = 0 ∧ 5 = (follows 5 takesAt).parentPort) := by decide +kernel
/-- The way there took 420, the way back 400: an offset of −10. -/
theorem test_time_reply : (let t := nx (exec (.time 5 (told (.time (.reply 520 600 4 true)))) (follows 5 takesAt))
    (t.lnk.tsync.offset, t.time.slew, t.lnk.tsync.locked, t.lnk.tsync.depth)) = (-10, 10, true, 5) := by decide +kernel
theorem test_timeExchange : (let t := nx (exec .timeExchange asked)
    (t.lnk.tsync.t1, (t.port 3).fcntTx)) = (some 1000, 1) := by decide +kernel
theorem test_timeLockTimeout : (let s := asked
    let t := nx (exec .timeLockTimeout { s with lnk := { s.lnk with tsync := { s.lnk.tsync with locked := true } } })
    (t.lnk.tsync.locked, t.rd R.lnkTlostcnt)) = (false, 1) := by decide +kernel
theorem test_linkQualification : ((nx (exec (.linkQualification 3 1) (portIn { upPort with qual := true }))).port 3).st =
    .failed := by decide +kernel

/-! ### Clocks, regions and power -/

/-- Cluster 3 in a region with a clock state, at tick 1,000,000, under caps: package 3,000 W, hysteresis 20 W. -/
def clk (op want : Fin 8) (stop : Option Nat) (retry : Bool) : ClkSt := ⟨op, want, stop, true, 0, retry, want⟩
def pw0 (x : Cl) : State :=
  let s := at_ .ready
  with_ { s with
      ticks := 1000000
      thm := { s.thm with
        cool := some ⟨3000, 3500, 2000, 1, 0⟩
        lost := false }
      cl := [(3, x)] }
    [(R.pwrCap, 2000), (R.pwrGate, 50 + 10 * 2 ^ 16), (R.pwrArb, 20), (R.pwrDiemax, 0x7767), (R.pwrShed, 1000),
      (R.pwrRamp, 500)]
def region_ (r : RegionSt) (k : ClkSt) : Cl := { Cl.reset with
  region := r
  clk := k }
/-- An Active cluster at OP2 with a tile operation in flight, whose tag is declared for OP5. -/
def wantsFive : State :=
  { pw0 { region_ .active (clk 2 2 none false) with flight := [job 1 (bits 512 [(0, 1)]) .given] } with phtab := [(0, 13)] }
/-- The same at OP7. -/
def fallsFive : State := wantsFive.onClus 3 fun x => { x with clk := clk 7 7 none false }

theorem wit_ClocksChange : (wantsFive.cluGoal 3 = some (5, 5) ∧ (wantsFive.clus 3).clk.stopAt = none) ∧
    fallsFive.cluGoal 3 = some (5, 5) ∧ 5 < (fallsFive.clus 3).clk.op.val ∧
    ((pw0 Cl.reset).pw.dieClk[(1 : Fin 4)].stopAt = none ∧ (pw0 Cl.reset).diePoint 1 ≠ (pw0 Cl.reset).pw.dieClk[(1 : Fin 4)].op.val) ∧
    (let s := pw0 (region_ .active (clk 2 5 (some 999000) false));
      s.regs.held = [] ∧ (s.clus 3).clk.stopAt ≠ none ∧ s.dev.st ≠ .off) := by decide +kernel
theorem test_frequencyChangeStop : (let t := nx (exec (.frequencyChangeStop (.cluster 3)) wantsFive);
    ((t.clus 3).clk.stopAt, (t.clus 3).clk.goal, t.rd (R.clkStops 0))) = (some 1000000, 5, 1) := by decide +kernel
theorem test_pointFall : ((nx (exec (.pointFall 3) fallsFive)).clus 3).clk.goal = 5 := by
  decide +kernel
theorem test_frequencyStopRelease : (let s := pw0 (region_ .active (clk 2 5 (some 999000) false))
    let t := nx (exec (.frequencyStopRelease (.cluster 3) false true) s);
    ((nx (exec (.frequencyStopRelease (.cluster 3) true false) s)).clus 3 |>.clk.op, (t.clus 3).clk.retry,
      ((nx (exec (.frequencyStopRelease (.cluster 3) false true) t)).clus 3).region)) = (5, true, .dark) := by decide +kernel

theorem wit_RegionsSleepAndWake : (let s := pw0 (region_ .active (clk 2 2 none false));
      (s.clus 3).region = .active ∧ bitsOf (s.rd R.pwrGate) 0 10 ≠ 0 ∧ (s.clus 3).wantsDatapath = false ∧
      (s.clus 3).quiet = true ∧ (s.clus 3).clk.stopAt = none ∧
      max (s.clus 3).idleAt s.dev.upAt + bitsOf (s.rd R.pwrGate) 0 10 * 100 ≤ s.ticks) ∧
    (let s := pw0 { region_ .twilight (clk 2 2 none false) with dawnReq := some 900000 };
      (s.clus 3).dawnReq = some 900000 ∧ s.dawns (3 / 24) < 2 ∧ s.pw.shedOn = false ∧ s.pw.vrOn[dieIx (3 / 24)] = false ∧
      (∀ n ∈ neighbours 3, ((s.clus n).tile.filter fun p => p.2.act ≠ .gated).length ≤ 24) ∧ (s.clus 3).deferred = none ∧
      { s with pw := { s.pw with shedOn := true } }.pw.shedOn = true) ∧
    (let s := pw0 { region_ .dawn (clk 2 2 none false) with dawnAt := some 998000 };
      (s.clus 3).dawnAt = some 998000 ∧ 998000 + 2000 ≤ s.ticks) := by decide +kernel
theorem test_twilightEntry : (let t := nx (exec (.twilightEntry 3) (pw0 { region_ .active (clk 2 2 none false) with
      tile := [(1, { TileSt.reset with store := [(0, 3)] })] }))
    ((t.clus 3).region, ((t.clus 3).tileAt 1).store)) = (.twilight, [(0, 3)]) := by decide +kernel
theorem test_dawnGrant : (let s := pw0 { region_ .twilight (clk 2 2 none false) with dawnReq := some 900000 };
    (((nx (exec (.dawnGrant 3) s)).clus 3).region,
      ((nx (exec (.dawnGrant 3) { s with pw := { s.pw with shedOn := true } })).clus 3).deferred)) =
    (.dawn, some 1000000) := by decide +kernel
theorem test_dawnComplete : (let s := wantsFive.onClus 3 fun x => { x with region := .dawn, dawnAt := some 998000 }
    let x := (nx (exec (.dawnComplete 3 true) s)).clus 3;
    (x.region, x.clk.op)) = (.active, 5) := by decide +kernel

/-- A sense point of cluster 3 that has been above 60 % for 100 µs. -/
def sensed : State := let s := pw0 (region_ .active (clk 2 2 none false)); { s with pw := { s.pw with sense :=
  [(7, ⟨70, some 990000, some 990000, false, 0, none⟩)] } }
theorem wit_SupplyFailures : (sensed.dev.st ≠ .off ∧ (sensed.clus 3).phfail.getLsbD 5 = false) ∧
    ((sensed.clus (24 * 0 + 7 / 2)).region ≠ .dark ∧ SMap.find (64 * 0 + 7) sensed.pw.sense =
      some ⟨70, some 990000, some 990000, false, 0, none⟩ ∧ 990000 + 10000 ≤ sensed.ticks ∧
      sensed.ticks < 990000 + 110000 ∧ sensed.connCeil 0 7 ≥ 2) ∧
    sensed.dev.inReset = false ∧ sensed.regs.held = [] ∧ sensed.running = false := by decide +kernel
/-- A drop of 10 mV modelled at 10 A and 25 °C; 17 mV exceed it by 70 %, and 4 A give less than 5 mV. -/
theorem wit_ConnectionSense : modelDrop (sensed.connZ 7) 10000 100 ≥ 5000000 * 40000 ∧
    modelDrop (sensed.connZ 7) 4000 100 < 5000000 * 40000 ∧
    100 * ((17000 * 40000000 : Nat) - modelDrop (sensed.connZ 7) 10000 100) > 60 * modelDrop (sensed.connZ 7) 10000 100 ∧
    100 * ((13000 * 40000000 : Nat) - modelDrop (sensed.connZ 7) 10000 100) ≤ 30 * modelDrop (sensed.connZ 7) 10000 100 := by
  decide +kernel
theorem test_phaseFailure : (let t := nx (exec (.phaseFailure 3 5) (pw0 { Cl.reset with phfail := 3 }));
    ((t.clus 3).phfail, (t.clus 3).region)) = (0x23, .dark) := by decide +kernel
theorem test_uncoreRegulatorFailure : (nx (exec (.uncoreRegulatorFailure 2) sensed)).dev.st = .fault := by decide +kernel
theorem test_connectionSense : ((nx (exec (.connectionSense 0 7 17000 10000 100) sensed)).connCeil 0 7,
    (nx (exec (.connectionSense 0 7 13000 10000 100) sensed)).connCeil 0 7) = (6, 7) := by decide +kernel
theorem test_connectionClear : ((nx (exec (.connectionClear 1) (nx (exec (.connectionSense 0 7 17000 10000 100) sensed)))).connCeil 0 7) =
    7 := by decide +kernel

/-- Ten samples of two rails: 1 V at 2,000 A and 0.5 V at 200 A. -/
def meas : PowerMeas := ⟨List.replicate 10 [(1000, 2000000), (500, 200000)], 1900, #v[300, 400, 300, 300], 200⟩
def alert0 : State := let s := pw0 Cl.reset; { s with pw := { s.pw with
  vrOn := #v[true, false, false, false]
  vrCeil := #v[0, 7, 7, 7] } }
theorem wit_ArbiterHoldsCaps : (pw0 Cl.reset).dev.st ≠ .off ∧ (pw0 Cl.reset).dev.st ≠ .dawn ∧
    (pw0 Cl.reset).pw.vrOn[(0 : Fin 4)] = false ∧ alert0.pw.vrOn[(0 : Fin 4)] = true ∧
    alert0.pw.vrCeil[(0 : Fin 4)].val < 7 := by decide +kernel
/-- The die with the most mesh power, 400 W at OP6, falls to OP5. -/
theorem test_arbiterEvaluation : (let t := nx (exec (.arbiterEvaluation meas) (with_ (pw0 Cl.reset) [(R.pwrRamp, 4095)]));
    (t.pw.p10, t.rd R.pwrMeas % 2 ^ 32, t.pw.peff, t.pw.compute)) = (21000000, 21, 20000000, #v[7, 5, 7, 7]) := by
  decide +kernel
/-- Cluster 3 declares 32 tiles: 9 A more at 0.68 V than the dies that declare none. -/
theorem test_loadForecastFrame : (let t := nx (exec (.loadForecastFrame 0) (pw0 { Cl.reset with decls := [⟨32, none, false⟩] }));
    (fld t.pw.frame 0 3, fld t.pw.frame 10 7, (t.clus 3).decls.map (·.pub))) = (5, 1, [some 1000000]) := by decide +kernel
theorem test_vrAlertNAssert : (let t := nx (exec (.vrAlertNAssert 2) (pw0 Cl.reset));
    (t.diePoint 2, t.rd R.pwrVrcnt)) = (0, 1) := by decide +kernel
theorem test_vrAlertNRelease : (let t := nx (exec (.vrAlertNRelease 0) alert0);
    (t.pw.vrOn[(0 : Fin 4)], t.pw.vrCeil[(0 : Fin 4)], (nx (exec (.vrAlertNRelease 0) t)).pw.vrCeil[(0 : Fin 4)])) =
    (false, 1, 1) := by decide +kernel

/-- An envelope: CAP 2,400 W, RAMP 100, SHED 900 W, VALID 50 ms, SEQ 7. -/
def envBody : Block16 := bits 128 [(0, 0x45), (8, 7), (16, 2400), (32, 100), (48, 900), (64, 50)]
def envMsg : Block16 := envBody + bits 128 [(112, msgCrc envBody)]
def env0 : State := let s := with_ (pw0 Cl.reset) [(R.pwrEnvctl, 800 + 2 ^ 12)]; { s with pw := { s.pw with
  ecap := 25000000
  a100 := 21000000 } }
theorem wit_EnvelopesAndShed : env0.dev.st ≠ .off ∧ env0.envOn = true ∧ fld envMsg 0 8 = 0x45 ∧
    fld envMsg 112 16 = msgCrc envMsg ∧ fld envMsg 80 32 = 0 ∧ 600 ≤ fld envMsg 16 16 ∧ fld envMsg 16 16 ≤ 3000 ∧
    50 ≤ fld envMsg 32 16 ∧ fld envMsg 32 16 ≤ 3000 ∧ 600 ≤ fld envMsg 48 16 ∧ fld envMsg 48 16 ≤ fld envMsg 16 16 ∧
    10 ≤ fld envMsg 64 16 ∧ fld envMsg 64 16 ≤ 1000 ∧ env0.pw.env = none ∧ env0.pw.shedOn = false ∧
    ¬fld (envMsg + 1) 0 8 = 0x45 ∧ env0.pw.lapsed = false ∧
    env0.pw.envAt + 100 * 100000 ≤ { env0 with ticks := 20000000 }.ticks ∧
    { env0 with pw := { env0.pw with shedOn := true } }.pw.shedOn = true := by decide +kernel
theorem test_envelope : (let t := nx (exec (.envelope envMsg) env0);
    (t.pw.target, t.pw.ecap, t.pw.env.map (·.shed), fld (nx (exec (.envelope (envMsg + 2 ^ 112)) env0) |>.rd R.pwrStat |> BitVec.ofNat 32) 8 1)) =
    (2400, 24000000, some 900, 1) := by decide +kernel
theorem test_envelopeLapse : (let t := nx (exec .envelopeLapse { env0 with ticks := 20000000 });
    (t.pw.target, t.pw.ecap, t.pw.lapsed)) = (800, 21000000, true) := by decide +kernel
theorem test_shedN : (let t := nx (exec .shedNAssert env0);
    (t.pw.shedCap, (nx (exec .shedNRelease t)).pw.shedCap)) = (some 1000, none) := by decide +kernel

/-! ### Heat -/

def hot0 (a b : Int) : State := let s := pw0 Cl.reset; { s with
  ticks := 20000000
  thm := { s.thm with hs := [(3, { HotSpot.reset with
    a := ⟨BitVec.ofInt 11 a, false, false, 20000000⟩
    b := ⟨BitVec.ofInt 11 b, false, false, 20000000⟩ })] } }
theorem wit_SensorsProtect : (hot0 200 210).dev.st ≠ .off ∧ (hot0 200 210).thm.inlet = none ∧
    (240#11).toInt ≥ -40 ∧ (240#11).toInt < 420 ∧ ((hot0 200 210).hot 3).a.failed = false ∧
    ((hot0 200 210).hot 3).b.failed = false ∧ ((hot0 200 210).hot 3).b.reading.toInt < 420 ∧
    (BitVec.ofInt 11 (-41)).toInt < -40 ∧ (420#11).toInt ≥ 420 ∧ (420#11).toInt ≤ 600 ∧
    (hot0 200 210).dev.stopped = false ∧
    (let x : HotSpot := { (hot0 200 210).hot 3 with apart := some 0 };
      x.apart = some 0 ∧ x.told = false ∧ 0 + 10000000 ≤ (hot0 200 210).ticks) := by decide +kernel
theorem test_sensorReading : (let s := hot0 200 210;
    ((((nx (exec (.sensorReading 3 false 240 true []) s)).hot 3).a.reading), ((nx (exec (.sensorReading 3 false
      (BitVec.ofInt 11 (-41)) true []) s)).hot 3).a.failed, (nx (exec (.sensorReading 3 true 420 true []) s)).dev.st)) =
    (240, true, .fault) := by decide +kernel
theorem test_sensorDisagreement : (let s := hot0 200 250;
    let t := nx (exec (.sensorDisagreement 3) (s.setHot 3 { s.hot 3 with apart := some 10000000 }));
    ((t.hot 3).told, t.rd R.thmDiscnt)) = (true, 1) := by decide +kernel

/-- Stack 4 at a step since tick 0. -/
def stack0 (temp step : Nat) : State := let s := hot0 200 210; { s with thm := { s.thm with
  stack := [(4, ⟨BitVec.ofNat 11 temp, step, 0, 0⟩)] } }
theorem wit_Stacks : (400#11).toInt ≥ 400 ∧ (400#11).toInt < 420 ∧ (387#11).toInt < 388 ∧ (388#11).toInt ≥ 388 ∧
    (SMap.val StackSt.reset (stack0 300 2).thm.stack 4) = ⟨300, 2, 0, 0⟩ ∧ 0 + 1000000 ≤ (stack0 300 2).ticks ∧
    (420#11).toInt ≥ 420 := by decide +kernel
theorem test_stackTemperature : (let step := fun (t : State) => (SMap.val StackSt.reset t.thm.stack 4).step;
    (step (nx (exec (.stackTemperature 4 400 []) (stack0 300 2))), step (nx (exec (.stackTemperature 4 387 []) (stack0 300 2))),
      step (nx (exec (.stackTemperature 4 388 []) (stack0 300 2))), (nx (exec (.stackTemperature 4 420 []) (stack0 300 2))).hbm.spoiled)) =
    (3, 1, 2, true) := by decide +kernel

theorem wit_ModelThrottles : (hot0 384 380).dev.st ≠ .off ∧ ((hot0 384 380).thm.hs.all fun p => !p.2.a.failed || !p.2.b.failed) =
    true ∧ (hot0 384 380).hotter 0 95 false = true ∧ (hot0 384 380).thm.cap = none ∧
    (hot0 200 210).hotter 0 92 true = false ∧ (hot0 200 210).thm.calm[(0 : Fin 4)] + 1000000 ≤ (hot0 200 210).ticks := by
  decide +kernel

/-- A frame: SEQ 9, 35.00 °C in, 41.00 °C out, 1,700 mL/min; and one at 600 mL/min. -/
def coolBody (flow : Nat) : Block16 := bits 128 [(0, 0x43), (8, 9), (16, 3500), (32, 4100), (48, flow)]
def coolMsg (flow : Nat) : Block16 := coolBody flow + bits 128 [(112, msgCrc (coolBody flow))]
/-- A tray with one frame at or below 600 mL/min behind it. -/
def cool0 : State := let s := with_ (pw0 Cl.reset) [(R.thmCtl, 1), (R.thmCool, 3500 + 1200 * 2 ^ 16)]; { s with
  ticks := 20000000
  thm := { s.thm with
    lowFlow := 1
    mis := 4
    hit := 2 } }
theorem wit_CoolantAndWires : cool0.dev.st ≠ .off ∧ fld (coolMsg 600) 0 8 = 0x43 ∧
    fld (coolMsg 600) 112 16 = msgCrc (coolMsg 600) ∧ fld (coolMsg 600) 72 40 = 0 ∧ -1000 ≤ msgInt (coolMsg 600) 16 ∧
    msgInt (coolMsg 600) 16 ≤ 8000 ∧ -1000 ≤ msgInt (coolMsg 600) 32 ∧ msgInt (coolMsg 600) 32 ≤ 9000 ∧
    fld (coolMsg 600) 48 16 ≤ 600 ∧ fld (coolMsg 1700) 48 16 > 600 ∧ fld (coolMsg 600) 64 8 < 4 ∧
    cool0.thm.cool.map (·.seq) = some 1 ∧ cool0.thm.flagged = false ∧ cool0.thm.lowFlow ≥ 1 ∧ cool0.dev.stopped = false ∧
    ¬fld (coolMsg 600 + 1) 0 8 = 0x43 ∧ cool0.thm.lost = false ∧ cool0.thm.coolAt + 10000000 ≤ cool0.ticks ∧
    cool0.pins.trip = false := by decide +kernel
/-- A second in which one frame carried the heat `h` and the package took 500 W, as in the second before. -/
def bal0 (h : Int) : State := let s := cool0; { s with
  ticks := 100000000
  pw := { s.pw with
    secUw := 1000000000
    secN := 2 }
  thm := { s.thm with
    balP := 500000000
    balHeat := h
    balFrames := 1 } }
theorem wit_HeatBalance : bitsOf ((bal0 0).rd R.thmCtl) 0 1 = 1 ∧ (bal0 0).thm.balAt + 100000000 ≤ (bal0 0).ticks ∧
    (bal0 0).thm.balFrames > 0 ∧ (bal0 0).pw.secN > 0 ∧ (bal0 0).pw.secUw / (bal0 0).pw.secN = 500000000 ∧
    20 * ((500000000 : Int) - ((bal0 0).thm.balP : Int)).natAbs < (bal0 0).thm.balP ∧
    (let q := fun (s : State) => (s.thm.balHeat * (bitsOf (s.rd R.thmCool) 0 13 : Nat)).fdiv (6 * s.thm.balFrames : Nat);
      100 * (q (bal0 0) - (500000000 : Int)).natAbs > 15 * 500000000 ∧
      ¬100 * (q (bal0 857142) - (500000000 : Int)).natAbs > 15 * 500000000) := by decide +kernel
theorem test_coolantTelemetry : (((nx (exec (.coolantTelemetry (coolMsg 1700) []) cool0)).thm.inlet,
    (nx (exec (.coolantTelemetry (coolMsg 1700 + 2 ^ 112) []) cool0)).rd R.thmBadcnt)) = (some 3500, 1) := by decide +kernel
theorem test_coolantTelemetry_low : (nx (exec (.coolantTelemetry (coolMsg 600) []) cool0)).dev.stopped = true := by decide +kernel
theorem test_telemetryLapse : (nx (exec .telemetryLapse cool0)).thm.lost = true := by decide +kernel
theorem test_heatBalanceCheck : ((nx (exec .heatBalanceCheck (bal0 0))).thm.flagged,
    (nx (exec .heatBalanceCheck (bal0 857142))).thm.hit) = (true, 3) := by decide +kernel
theorem test_coolFailNAssert : (nx (exec (.coolFailNAssert []) cool0)).dev.st = .fault := by decide +kernel
theorem test_thermtrip : (let t := nx (exec .thermtrip cool0); (t.pins.trip, t.dev.faultCold, t.rd R.genLaststop)) =
    (true, true, 0x510D + 4 * 2 ^ 16 + 2 ^ 31) := by decide +kernel

/-! ### Registers, epochs, events and channels -/

/-- The hits of THM_COOL, of GEN_STAT, of the staged PWR_CAP, and of a retirement counter of cluster 3. -/
def hitOf (a : Nat) (h : (hitAt a).isSome = true) : Hit := (hitAt a).get h
def hCool : Hit := hitOf R.thmCool (by decide +kernel)
def hStat : Hit := hitOf R.genStat (by decide +kernel)
def hCap : Hit := hitOf R.pwrCap (by decide +kernel)
def hRet : Hit := hitOf (R.vecRetired 3 1) (by decide +kernel)
def hRes : Hit := hitOf R.cfgLast (by decide +kernel)
def set0 (p : EpochPhase) : State := let s := with_ (pw0 (region_ .active (clk 2 2 (some 5) false))) [(R.genStat, 1), (R.evtCtl, 1),
    (R.evtBase, hostBase), (R.evtSize, 8), (R.cfgInstant, 0)]; { s with
  cfg := { s.cfg with
    phase := p
    at_ := 1000 }
  time := { s.time with meridian := 1000 } }
theorem wit_RegistersWritten : (hitAt R.thmCool = some hCool ∧ hCool.byte = 0 ∧ (set0 .idle).setupOpen = true ∧
      (at_ .off).setupOpen = false ∧ (set0 .idle).regs.held = [] ∧ (set0 .idle).inStop hCool = false ∧
      (set0 .idle).unclocked hCool = false ∧ hCool.reg.staged = false ∧ (set0 .idle).refuses hCool.base hCool 0 = false ∧
      hCool.base ∉ [R.lnkCtl, R.cfgCmd, R.pwrConnclr, R.pwrEnvctl, R.memMgctl, R.evtCons, R.evtCtl] ∧ hCool.blk ≠ .lnk) ∧
    (hitAt R.genStat = some hStat ∧ hStat.byte = 0 ∧ hStat.reg.staged = false ∧
      (set0 .idle).refuses hStat.base hStat 1 = false) ∧
    (hitAt R.pwrCap = some hCap ∧ hCap.byte = 0 ∧ hCap.reg.staged = true ∧ hCap.base ≠ R.lnkCtl ∧
      (set0 .idle).refuses hCap.base hCap 0 = false ∧ (set0 .idle).cfg.phase.takes = true ∧
      (set0 .armed).cfg.phase.takes = false) ∧
    (hitAt R.cfgLast = some hRes ∧ hRes.byte = 0 ∧ (set0 .idle).refuses hRes.base hRes 0 = true) ∧
    (hitAt (R.vecRetired 3 1) = some hRet ∧ hRet.byte = 0 ∧ (set0 .idle).inStop hRet = true) := by decide +kernel
/-- A CPV below 2,000 becomes 2,000 (Table 13.6). -/
theorem test_registerWrite : ((nx (exec (.registerWrite R.thmCool 4 (1999 + 900 * 2 ^ 16)) (set0 .idle))).rd R.thmCool,
    (nx (exec (.registerWrite R.genStat 4 1) (set0 .idle))).rd R.genStat) = (2000 + 900 * 2 ^ 16, 0) := by decide +kernel
theorem test_stagedRegisterWrite : (let t := nx (exec (.stagedRegisterWrite R.pwrCap 4 (1500 + 2500 * 2 ^ 12)) (set0 .idle));
    (t.rd R.pwrCap, t.nextVal R.pwrCap, t.cfg.phase)) = (2000, 1500 + 2500 * 2 ^ 12, .staged) := by decide +kernel
theorem test_registerWrite_held : (nx (exec (.registerWrite (R.vecRetired 3 1) 8 0) (set0 .idle))).regs.held =
    [(R.vecRetired 3 1, 8, 0, 1000000)] := by decide +kernel

/-- A package cap of 1,500 W with 2,500 W for excursions is staged. -/
def staged0 (p : EpochPhase) : State := let s := set0 p; { s with regs := { s.regs with
  file := [(R.memMapmask 0, 0), (R.memMapmask 1, 0), (R.memMapmask 2, 0), (R.memMapmask 3, 0), (R.memMapmask 4, 0),
    (R.memMapmask 5, 0), (R.memMapmask 6, 0), (R.memMapmask 7, 0), (R.memMapmask 8, 0), (R.memMapmask 9, 0)] ++ s.regs.file
  staged := [(R.pwrCap, 1500 + 2500 * 2 ^ 12)] } }
/-- A cluster whose TIL_REPAIR is not staged has no repair to make. -/
theorem repair_unstaged (s : State) (c : Nat) (h : SMap.find (R.tilRepair c) s.regs.staged = none) : s.repair c = none := by
  unfold State.repair State.nextVal State.stagedVal
  rw [h]
  have k : R.tilRepair c ≠ R.lnkCtl := by unfold R.tilRepair R.lnkCtl; omega
  simp [k]
theorem firstFail_append (l r : List (Option Fail)) (h : ∀ x ∈ l, x = none) : firstFail (l ++ r) = firstFail r := by
  induction l with
  | nil => rfl
  | cons x t ih =>
    have : x = none := h x (by simp)
    subst this
    exact ih fun y hy => h y (by simp [hy])
/-- Staged values of registers other than TIL_REPAIR. -/
theorem lateFail_unstaged (s : State) (h : ∀ c, SMap.find (R.tilRepair c) s.regs.staged = none) (x : List (Option Fail))
    (hx : (match s.leaving with
        | [] => none
        | c :: _ => failIf s.running 4 (R.memMapmask (c / 64)) 0) ::
      [failIf (s.nextVal R.pwrDusk != s.rd R.pwrDusk && s.running) 4 R.pwrDusk 0,
        failIf (s.nextVal R.pwrDuskhi != s.rd R.pwrDuskhi && s.running) 4 R.pwrDuskhi 0] = x) :
    s.lateFail = firstFail x := by
  subst hx
  unfold State.lateFail
  show firstFail (_ ++ _) = _
  refine (firstFail_append _ _ ?_).trans ?_
  · intro y hy
    obtain ⟨c, -, rfl⟩ := List.mem_map.1 hy
    simp [repair_unstaged s c (h c)]
  · cases s.leaving <;> rfl
/-- A statistics table past the top of HBM is staged. -/
def badTab : State := let s := staged0 .checking; { s with regs := { s.regs with staged := [(R.genStattab, 2 ^ 46)] } }
/-- In host memory: the group table of 256 groups of rank 0 alone, whose member list is at its start; the route table with
an entry for rank 0. -/
def grouped : State := let s := with_ (staged0 .checking) [(R.lnkGtbase, hostBase + 0x4000), (R.lnkRtbase, hostBase + 0x10000),
    (R.pwrPhtab, hostBase + 0x20000)]; { s with
  mem := [(hostBase + 2, 0xFF), (hostBase + 3, 0xFF)] ++ (List.range 256).flatMap (fun i =>
    [(hostBase + 0x4000 + 64 * i, 1), (hostBase + 0x4000 + 64 * i + 13, 0x40)]) ++ [(hostBase + 0x10004, 1)] }
/-- A read of host memory without findings changes nothing. -/
theorem memRead_host (s : State) (who : Client) (tag a n : Nat) (h : hostBase ≤ a) : (s.memRead who tag a n []).2 = s := by
  unfold State.memRead
  split
  · rfl
  · simp [h, State.readHostRange, State.eccHost, State.deliver]
theorem readTables_host (rs : Ranges) (s : State) (h : ∀ r ∈ rs, hostBase ≤ r.1) : s.readTables rs [] = s := by
  induction rs generalizing s with
  | nil => rfl
  | cons r t ih =>
    show State.readTables ((s.memRead .steward 0 r.1 r.2 []).2) t [] = s
    rw [memRead_host _ _ _ _ _ (h r (by simp))]
    exact ih s fun q hq => h q (by simp [hq])
/-- Bytes above every cell of a memory read 0. -/
theorem bytes_above (m : Mem) (k a n : Nat) (h : ∀ p ∈ m, p.1 < k) (ha : k ≤ a) : Mem.bytes m a n = (List.range n).map fun _ => 0 := by
  have e : Mem.slice m a n = [] := by
    unfold Mem.slice
    refine List.filter_eq_nil_iff.2 fun p hp => ?_
    have := h p hp
    simp; omega
  unfold Mem.bytes
  rw [e]
  rfl
theorem route_above (s : State) (h : ∀ p ∈ s.mem, p.1 < s.rd R.lnkRtbase + 8) (n : Nat) (hn : n ≠ 0) : s.route n = 0 := by
  unfold State.route
  rw [bytes_above _ _ _ _ h (by omega)]
  decide
theorem grouped_below : (grouped.installed.mem.all fun p => decide (p.1 < grouped.installed.rd R.lnkRtbase + 8)) = true := by
  decide +kernel
theorem grouped_routes : routeFail grouped grouped.installed = none := by
  have h : ∀ p ∈ grouped.installed.mem, p.1 < grouped.installed.rd R.lnkRtbase + 8 := by
    simpa using grouped_below
  have k : failIf (!grouped.holds (grouped.nextVal R.lnkRtbase) 32768) 2 R.lnkRtbase 0 = none := by decide +kernel
  unfold routeFail
  rw [k, List.find?_eq_none.2 ?_]
  · rfl
  · intro n _
    by_cases hn : n = 0
    · subst hn; decide +kernel
    · simp [route_above _ h n hn]
theorem grouped_all : ((List.range 256).all fun i => grouped.installed.group i == ⟨1, 0, 0, 0, 0, hostBase, true⟩) = true := by decide +kernel
theorem grouped_groups (i : Nat) (h : i < 256) : grouped.installed.group i = grouped.installed.group 0 :=
  (eq_of_beq (List.all_eq_true.1 grouped_all i (List.mem_range.2 h))).trans
    (eq_of_beq (List.all_eq_true.1 grouped_all 0 (List.mem_range.2 (by decide)))).symm
/-- Tables at or above the base of host memory. -/
theorem tables_host (s : State) (x : Ranges) (h : ∀ i, i < 256 → hostBase ≤ (s.installed.group i).mlist)
    (hx : [(s.nextVal R.stmResbase, 16 * bitsOf (s.nextVal R.stmRescnt) 0 11), (s.nextVal R.updShtab, 128 * s.installed.shardCnt)]
      ++ (if s.nextVal R.updPartab = 0 then [] else [(s.nextVal R.updPartab, 4096)])
      ++ (if s.nextVal R.updLrtab = 0 then [] else [(s.nextVal R.updLrtab, schedLen)])
      ++ [(s.nextVal R.lnkRtbase, 32768), (s.nextVal R.lnkGtbase, 16384)] = x)
    (k : ∀ r ∈ x, r.2 ≠ 0 → hostBase ≤ r.1) (p : hostBase ≤ s.nextVal R.pwrPhtab) : ∀ r ∈ s.tables, hostBase ≤ r.1 := by
  subst hx
  intro r hr
  obtain ⟨hm, hc⟩ := List.mem_filter.1 hr
  have hn : r.2 ≠ 0 := by
    intro e
    simp [e] at hc
  rcases List.mem_append.1 hm with hm | hm
  · rcases List.mem_append.1 hm with hm | hm
    · exact k r hm hn
    · obtain ⟨i, hi, rfl⟩ := List.mem_map.1 hm
      exact h i (List.mem_range.1 hi)
  · rw [List.mem_singleton.1 hm]
    exact p
theorem grouped_read : grouped.readTables grouped.tables [] = grouped :=
  readTables_host _ _ (tables_host _ _ (fun i hi =>
    Nat.le_of_eq (congrArg (fun g => g.mlist) (eq_of_beq (List.all_eq_true.1 grouped_all i (List.mem_range.2 hi)))).symm) rfl (by decide +kernel) (by decide +kernel))
theorem groupBad_same (s t : State) (i : Nat) (h : t.group i = t.group 0) : groupBad s t i = groupBad s t 0 := by
  unfold groupBad; rw [h]
theorem groupClash_same (t : State) (i : Nat) (h : t.group i = t.group 0) : groupClash t i = groupClash t 0 := by
  unfold groupClash; rw [h]
theorem groupFail_none (s t : State) (k : s.holds (s.nextVal R.lnkGtbase) 16384 = true)
    (z : (List.range 256).find? (groupBad s t) = none) (z' : (List.range 256).find? (groupClash t) = none) :
    groupFail s t = none := by
  unfold groupFail
  simp [k, z, z', failIf, firstFail]
theorem find_none {p : Nat → Bool} {n : Nat} (h : ∀ i, i < n → p i = p 0) (z : p 0 = false) : (List.range n).find? p = none := by
  refine List.find?_eq_none.2 fun i hi => ?_
  rw [h i (List.mem_range.1 hi), z]
  simp
theorem grouped_ok : groupFail grouped grouped.installed = none := by
  have k : grouped.holds (grouped.nextVal R.lnkGtbase) 16384 = true := by decide +kernel
  have z₀ : groupBad grouped grouped.installed 0 = false := by decide +kernel
  have z' : groupClash grouped.installed 0 = false := by decide +kernel
  exact groupFail_none _ _ k (find_none (fun i hi => groupBad_same _ _ i (grouped_groups i hi)) z₀)
    (find_none (fun i hi => groupClash_same _ i (grouped_groups i hi)) z')
theorem powerFail_above (s : State) (k : Nat) (h : ∀ p ∈ s.mem, p.1 < k) (hk : k ≤ s.nextVal R.pwrPhtab) (x : List (Option Fail))
    (hx : (let cap := s.nextVal R.pwrCap
        let cont := bitsOf cap 0 12
        let exc := bitsOf cap 12 12
        let lever := (List.range 3).map fun k => bitsOf (s.nextVal R.pwrPrio) (2 * k) 2
        let moved := fun (a : Nat) => s.nextVal a != s.rd a && s.running
        [failIf (cont < 600 || cont > 2600 || exc < cont || exc > 3000) 2 R.pwrCap 0,
          failIf (lever.contains 3) 1 R.pwrPrio 0, failIf (!distinctRanks lever) 2 R.pwrPrio 0,
          failIf (!s.holds (s.nextVal R.pwrPhtab) 1024) 2 R.pwrPhtab 0, none,
          failIf (moved R.pwrDusk) 4 R.pwrDusk 0, failIf (moved R.pwrDuskhi) 4 R.pwrDuskhi 0]) = x) : powerFail s = firstFail x := by
  subst hx
  unfold powerFail
  simp only
  rw [List.find?_eq_none.2 fun i _ => by
    rw [bytes_above _ _ _ _ h (by omega)]
    decide]
  rfl
theorem grouped_power : powerFail grouped = none := by
  rw [powerFail_above _ (hostBase + 0x20000) (by
    have := grouped_below
    simp only [List.all_eq_true, decide_eq_true_eq] at this
    intro p hp
    have := this p hp
    exact Nat.lt_of_lt_of_le this (by decide +kernel)) (by decide +kernel) _ rfl]
  decide +kernel
theorem wit_EpochsApply_checked : (grouped.readTables grouped.tables []).epochFail = none := by
  rw [grouped_read]
  unfold State.epochFail
  dsimp only
  rw [grouped_routes, grouped_ok, grouped_power]
  decide +kernel
theorem wit_EpochsApply : (staged0 .staged).setupOpen = true ∧
    (let s := { staged0 .armed with
        order := 1
        stw := { (staged0 .armed).stw with jobs := [⟨0, 0, 0, 0, 0, [], 0, 0, 0, 0, false⟩] } };
      (s.stw.jobs.all fun j => j.ord < s.order) = true ∧ s.cfg.old = []) ∧
    (staged0 .staged).regs.held = [] ∧ (staged0 .staged).cfg.phase = .staged ∧
    (staged0 .checked).rd R.cfgInstant = 0 ∧ (staged0 .armed).cfg.at_.toNat ≤ (staged0 .armed).time.meridian.toNat := by
  decide +kernel
/-- A change of the Dusk regions of a device that is running. -/
def duskLate : State := let s := staged0 .armed; { s with
  dev := { s.dev with st := .running }
  regs := { s.regs with staged := [(R.pwrDusk, 8)] } }
theorem wit_EpochsApply_instant : (staged0 .armed).lateFail = none := by
  rw [lateFail_unstaged _ (fun c => by
    show SMap.find (R.tilRepair c) [(R.pwrCap, _)] = none
    rw [SMap.find, if_neg (by unfold R.tilRepair R.pwrCap; omega)]; rfl) _ rfl]
  decide +kernel
theorem wit_EpochsApply_late : duskLate.lateFail = some (4, R.pwrDusk, 0) := by
  rw [lateFail_unstaged _ (fun c => by
    show SMap.find (R.tilRepair c) [(R.pwrDusk, _)] = none
    rw [SMap.find, if_neg (by unfold R.tilRepair R.pwrDusk; omega)]; rfl) _ rfl]
  decide +kernel
theorem test_check : (nx (exec (.check 1) (staged0 .staged))).cfg.phase = .checking := by decide +kernel
theorem test_apply : (let t := nx (exec (.apply 2) (staged0 .checked)); (t.cfg.phase, t.cfg.at_)) = (.armed, 1601000) := by
  decide +kernel
theorem test_discard : (let t := nx (exec (.discard 3) (staged0 .staged)); (t.cfg.phase, t.regs.staged)) = (.idle, []) := by
  decide +kernel
theorem test_epochInstant_early : goes (exec (.epochInstant []) { staged0 .armed with time := { (staged0 .armed).time with
    meridian := 999 } }) (fun t => t.cfg == (staged0 .armed).cfg && t.regs == (staged0 .armed).regs) = true := by
  decide +kernel

/-- A record of unit 4 in the queue; `prod` records written. -/
def evRec (v : Sev) : EvRec := ⟨77, 0x1234, v, srcSd, 5, 6, 7, false⟩
def evt0 (v : Sev) (prod : Nat) : State := let s := with_ (set0 .idle) [(R.evtProd, prod)]; { s with
  evt := { s.evt with queues := [(4, [evRec v])] } }
theorem wit_EventsAndReference : SMap.find 4 (evt0 .notice 255).evt.queues = some [evRec .notice] ∧
    (evt0 .notice 255).evt.reserve = [] ∧ (evt0 .notice 255).evt.lost = 0 ∧
    (bitsOf ((evt0 .notice 255).rd R.evtCtl) 0 1 = 1 ∧ ((evt0 .notice 255).rd R.evtProd + 2 ^ 32 -
      (evt0 .notice 255).rd R.evtCons) % 2 ^ 32 < 2 ^ bitsOf ((evt0 .notice 255).rd R.evtSize) 0 5) ∧
    (evt0 .notice 255).rd R.evtBase + 32 * (255 % 256) ≥ hostBase ∧
    ¬((evt0 .notice 256).rd R.evtProd + 2 ^ 32 - (evt0 .notice 256).rd R.evtCons) % 2 ^ 32 <
      2 ^ bitsOf ((evt0 .notice 256).rd R.evtSize) 0 5 ∧ (evRec .degrade).sev.code ≥ 2 ∧ (evRec .notice).sev.code < 2 ∧
    ((evt0 .notice 256).rd R.evtProd + 2 ^ 32 - 40) % 2 ^ 32 ≤ 2 ^ bitsOf ((evt0 .notice 256).rd R.evtSize) 0 5 ∧
    (let s := set0 .idle; { s with regs := { s.regs with held := [(R.vecRetired 3 1, 8, 0, 999000)] } }).regs.held =
      [(R.vecRetired 3 1, 8, 0, 999000)] ∧ (set0 .idle).time.holdover = false := by decide +kernel
theorem test_eventRecord : (let t := nx (exec (.eventRecord 4) (evt0 .notice 255));
    (t.mem.bytes (hostBase + 32 * 255) 11, t.rd R.evtProd, t.evt.queues)) =
    (natLe 8 77 ++ natLe 2 0x1234 ++ [9], 256, []) := by decide +kernel
theorem test_eventRecord_full : ((nx (exec (.eventRecord 4) (evt0 .degrade 256))).evt.reserve,
    (nx (exec (.eventRecord 4) (evt0 .notice 256))).evt.lost) = ([evRec .degrade], 1) := by decide +kernel
theorem test_evtConsWrite : ((nx (exec (.evtConsWrite 40) (evt0 .notice 256))).rd R.evtCons,
    (nx (exec (.evtConsWrite 257) (evt0 .notice 256))).rd R.evtCons) = (40, 0) := by decide +kernel
theorem test_setupAccessTimeout : (let s := set0 .idle;
    let t := nx (exec .setupAccessTimeout { s with regs := { s.regs with held := [(R.vecRetired 3 1, 8, 0, 999000)] } });
    (t.regs.held, t.rd R.clkRegtmocnt)) = ([], 1) := by decide +kernel
theorem test_refclkLoss : (let t := nx (exec (.refclkLoss []) (set0 .idle)); (t.time.holdover, t.dev.st)) = (true, .fault) := by
  decide +kernel

/-- Channel 7 is leaving; `fl`: step 3 is done. -/
def leaves (fl : Bool) : State := let s := set0 .applying; { s with
  hbm := { s.hbm with mapOut := some ⟨[7], fl, 0⟩ }
  mem := [(64, 5), (hostBase, 6)] }
/-- A margin run on channel 9 of a device in STANDBY. -/
def standby0 (c : Option Nat) : State := let s := set0 .idle; { s with
  dev := { s.dev with st := .standby }
  hbm := { s.hbm with margin := c } }
theorem wit_ChannelsAndMargins : (leaves false).hbm.mapOut = some ⟨[7], false, 0⟩ ∧ (leaves false).oldDone 0 = true ∧
    (leaves true).hbm.mapOut = some ⟨[7], true, 0⟩ ∧ (standby0 none).dev.st = .standby ∧
    (standby0 none).dev.inReset = false ∧ (standby0 none).regs.held = [] ∧ (standby0 none).hbm.margin = none ∧
    bitsOf (9 + 2 ^ 10) 10 1 = 1 ∧ bitsOf (9 + 2 ^ 10) 0 10 < 640 ∧ (standby0 (some 9)).hbm.margin = some 9 := by
  decide +kernel
theorem test_mapoutFlush : (let t := nx (exec (.mapoutFlush []) (leaves false));
    ((t.chan 7).st, (t.chan 8).st, t.hbm.mapRec)) = (.mapped, .live, [7]) := by decide +kernel
theorem test_mapoutDone : (let t := nx (exec .mapoutDone (leaves true)); (t.mem, t.hbm.mapOut)) = ([(hostBase, 6)], none) := by
  decide +kernel
theorem test_marginRunStart : (nx (exec (.marginRunStart (9 + 2 ^ 10)) (standby0 none))).hbm.margin = some 9 := by
  decide +kernel
theorem test_marginRunDone : (let t := nx (exec (.marginRunDone 24 24 60 60 29) (standby0 (some 9)));
    (bitsOf (t.rd R.memMgres) 32 8, bitsOf (t.rd R.memMgres) 40 3, bitsOf (t.rd R.memMgres) 42 10, t.rd R.memMglowcnt)) =
    (29, 6, 9, 1) := by decide +kernel

/-- R463: work of place 3 finds the value that an epoch at place 5 replaced, and leaves the installed one. -/
theorem test_as_of :
    let s := ({ State.reset with cfg := { State.reset.cfg with old := [(5, [(R.updShcnt, 3)])] } } : State).wr R.updShcnt 7
    let f := fun (s : State) => s.wr R.cfgLast (s.rd R.updShcnt)
    ((s.asOf 3 f).rd R.cfgLast, (s.asOf 5 f).rd R.cfgLast, (s.asOf 3 f).rd R.updShcnt) = (3, 7, 7) := by decide

/-! ### Start, rails and RESET_N -/

/-- A device in a state with some rails out of range. -/
def rails (st : DevState) (down : List (Fin 13)) (stop : Bool) : State := let s := at_ st; { s with
  dev := { s.dev with stopped := stop }
  pins := { s.pins with rail := down.foldl (fun v (r : Fin 13) => v.set r false) s.pins.rail } }
theorem wit_RailsMoveDevice : ((rails .off [12] false).pins.rail[(12 : Fin 13)] = false ∧ (rails .off [12] false).dev.st = .off ∧
      (rails .off [12] false).dev.inReset = false ∧ (rails .off [12] false).pins.bad = false ∧
      (∀ q : Fin 13, q ≠ 12 → (rails .off [12] false).pins.rail[q] = true)) ∧
    (∃ q : Fin 13, railStep q.val < railStep 12 ∧ (rails .off [3, 12] false).pins.rail[q] = false) ∧
    ((rails .ready [] false).pins.rail[(5 : Fin 13)] = true ∧ (rails .fault [] true).dev.stopped = true ∧
      (rails .fault [] true).dev.st = .fault ∧ 7 ≤ (7 : Fin 13).val ∧
      ¬((rails .ready [] false).dev.stopped = true ∧ (rails .ready [] false).dev.st = .fault)) :=
  ⟨by decide +kernel, ⟨3, by decide +kernel⟩, by decide +kernel⟩
theorem test_powerUp : (((nx (exec (.powerUp 12) (rails .off [12] false))).dev.st,
    (nx (exec (.powerUp 12) (rails .off [3, 12] false))).pins.bad)) = (.dawn, true) := by decide +kernel
theorem test_coreRailLoss : (let t := nx (exec (.coreRailLoss 5) (rails .ready [] false)); (t.dev.st, t.dev.powerLost)) =
    (.off, true) := by decide +kernel
theorem test_powerDown : ((nx (exec (.powerDown 7) (rails .fault [] true))).dev.st,
    (nx (exec (.powerDown 6) (rails .fault [] true))).dev.st) = (.fault, .off) := by decide +kernel

/-- RESET_N is low with FORCECOLD written. -/
def inReset : State := let s := with_ (at_ .dawn) [(R.secBoot, 0x19)]; { s with dev := { s.dev with inReset := true } }
theorem wit_ResetPinAndStandby : inReset.dev.inReset = true ∧ inReset.coreUp = true ∧ inReset.pins.bad = false ∧
    inReset.dev.st = .dawn ∧ bitsOf (inReset.rd R.secBoot) 4 1 = 1 ∧ (at_ .ready).dev.st ≠ .off ∧
    (at_ .ready).dev.st ≠ .dawn := by decide +kernel
theorem test_resetNFall : (let t := nx (exec (.resetNFall []) (at_ .ready)); (t.dev.st, t.dev.selfRefresh, t.dev.start)) =
    (.dawn, true, none) := by decide +kernel
theorem test_resetNRise : (let t := nx (exec .resetNRise inReset); (t.dev.start.map (·.cold), t.rd R.secBoot)) =
    (some true, 9) := by decide +kernel
theorem test_vauxRemoved : (let t := nx (exec .vauxRemoved inReset); (t.dev.st, t.rd R.secBoot)) = (.off, 8) := by
  decide +kernel

/-- A start whose steps pass, with images of version 3 in both banks; bank 1 is preferred. -/
def startObs (ok : Bool) : StartObs := ⟨none, [], [], [], #v[ok, ok], #v[3, 3], #v[[], [1], [], [], [], []]⟩
def starting (cold : Bool) : State := let s := with_ (at_ .dawn) [(R.secBoot, 10)]; { s with
  ticks := 3000000001
  dev := { s.dev with start := some ⟨cold, 0⟩ } }
theorem wit_StartEnds : (starting false).dev.st = .dawn ∧ (starting false).dev.inReset = false ∧
    (starting false).dev.start = some ⟨false, 0⟩ ∧ (starting true).dev.start = some ⟨true, 0⟩ ∧
    (starting true).coreUp = true ∧ (startObs true).fail = none ∧ (starting true).bootBank (startObs true) = some 1 ∧
    (starting true).rd R.updCommita = 0 ∧ (starting true).bootBank (startObs false) = none ∧
    30 * 100000000 < (starting false).ticks - 0 := by decide +kernel
/-- A warm start in time, with the measurements and temperatures of the last training. -/
def warming : State := let s := { starting false with ticks := 400000000 }; { s with sec := { s.sec with
  trained := ((nx (exec (.startComplete (startObs true) []) s)).sec.meas.toList.drop 1).take 5 } }
theorem wit_StartEnds_warm : ((nx (exec (.startComplete (startObs true) []) warming)).sec.meas.toList.drop 1).take 5 =
    warming.sec.trained ∧ warming.priv.due = none ∧ (starting true).priv.due = none ∧
    ¬30 * 100000000 < warming.ticks - 0 ∧ (List.range 20).all (fun k =>
      ((SMap.val StackSt.reset warming.thm.stack k).temp.toInt - SMap.val 0 warming.hbm.trainT k).natAbs ≤ 60) = true := by
  decide +kernel
theorem test_startComplete : (let t := nx (exec (.startComplete (startObs true) []) (starting true));
    (t.dev.st, t.sec.active, t.rd R.secBoot)) = (.standby, 1, 8) := by decide +kernel
theorem test_startComplete_late : (let t := nx (exec (.startComplete (startObs true) []) (starting false));
    (t.dev.st, t.rd R.secBoot)) = (.fault, 8 + 3 + 16) := by decide +kernel

/-! ### The test access port -/

/-- The compliance enable holds; cluster 3 is Dark with a word in its buffer; the debug fuses are open. -/
def tap0 : State := let s := { at_ .dawn with cl := [(3, { Cl.reset with
    region := .dark
    buf := [(8, 0x12)] })] }; { s with
  dev := { s.dev with inReset := true }
  fuse := { s.fuse with debugOpen := true } }
def retWord : BitVec 16 := bits 16 [(0, 3), (8, 1)]
theorem wit_TestAccessPort : tap0.pins.rail[(0 : Fin 13)] = true ∧ tap0.dev.inReset = true ∧
    (∀ r : Fin 13, r ≠ 0 → tap0.pins.rail[r] = true) ∧ tap0.sec.sealMem = false ∧ tap0.fuse.debugOpen = true ∧
    { tap0 with fuse := { tap0.fuse with debugOpen := false } }.fuse.debugOpen = false ∧ tap0.tap.sel = none ∧
    bitsOf retWord.toNat 0 7 < 96 ∧ (tap0.clus (bitsOf retWord.toNat 0 7)).region = .dark ∧ bitsOf retWord.toNat 8 2 < 3 ∧
    (tap0.clus (bitsOf (4 : BitVec 16).toNat 0 7)).region ≠ .dark ∧ tap0.tap.pos < 786432 ∧
    ¬ Fin.ofNat 5 (dieOf (bitsOf retWord.toNat 0 7)) ∈ tap0.tap.wiped ∧ (at_ .dawn).dev.inReset ≠ true ∧
    (rails .off [0] false).pins.rail[(0 : Fin 13)] = false ∧ bitsOf (inReset.rd R.secBoot) 4 1 = 1 := by decide +kernel
theorem test_idcode : (nx (exec .idcode tap0)).tap.data = 0xBE020A5B := by decide +kernel
theorem test_samplePreload : (nx (exec (.samplePreload 5 6) tap0)).tap.latched = 6 := by decide +kernel
theorem test_bypass : ((nx (exec (.bypass 0xFF) tap0)).tap.refused, (nx (exec (.bypass 0x55) tap0)).tap.refused) =
    (false, true) := by decide +kernel
theorem test_extest : (let t := nx (exec (.extest 5) tap0); (t.tap.drives, bitsOf (t.rd R.secBoot) 4 1)) = (true, 1) := by
  decide +kernel
theorem test_extest_refused : (let t := nx (exec (.extest 5) (at_ .dawn)); (t.tap.instr, t.tap.refused)) = (0xFF, true) := by
  decide +kernel
theorem test_extestPulse : (nx (exec (.extestPulse 5) tap0)).tap.instr = 4 := by decide +kernel
theorem test_extestTrain : (nx (exec (.extestTrain 5) tap0)).tap.instr = 5 := by decide +kernel
theorem test_clamp : (nx (exec .clamp tap0)).tap.drives = true := by decide +kernel
theorem test_highz : (nx (exec .highz tap0)).tap.highz = true := by decide +kernel
theorem test_mbist : (nx (exec (.mbist 2 0 0) tap0)).tap.wiped = [2] := by decide +kernel
theorem test_scan : (nx (exec .scan tap0)).tap.instr = 0x22 := by decide +kernel
/-- The second word of the buffer, on the second scan after the selection. -/
theorem test_retread : (let t := nx (exec (.retread retWord) tap0);
    (nx (exec (.retread 0) (nx (exec (.retread 0) t)))).tap.data) = 0x12 := by decide +kernel

/-! ### Management commands and sessions -/

def call (cmd : Block64) (args : List Byte) : MCall := ⟨0, none, cmd, args⟩
theorem i3cFormed (s : State) (cmd : Block64) (args : List Byte) (opc rlen : Nat) (h : fld cmd 0 8 = opc)
    (b : s.mgmtBad (call cmd args) rlen = none) (o : opc = 0x94 → s.openBad args = false) :
    MgmtFormed s (.i3c cmd args) opc rlen (call cmd args) s :=
  ⟨⟨call cmd args, s, by simp [State.mgmtTake, h, call], b, h, rfl, by simp [call]⟩, o⟩

/-- A command of a code with arguments of a length and P0. -/
def mcmd (opc alen p0 : Nat) : Block64 := bits 512 [(0, opc), (32, 7), (256, alen), (288, p0)]
theorem runs (s u : State) (cmd : Block64) (args nd : List Byte) (opc rlen : Nat) (h : fld cmd 0 8 = opc)
    (b : s.mgmtBad (call cmd args) rlen = none) (o : opc = 0x94 → s.openBad args = false)
    (a : s.authorise (call cmd args) = (some nd, u)) (l : mgmtLegal opc true u.dev.st = true) :
    MgmtRuns s (.i3c cmd args) opc rlen (call cmd args) nd u :=
  ⟨⟨s, i3cFormed s cmd args opc rlen h b o, a⟩, l⟩

/-- A session of SID 7 on I3C whose last SEQ is 4. -/
def sess : Session := ⟨7, 0, 1, false, 4, 0x1234, 0, 0, 0, 0, 0, [], 0⟩
def secure (st : DevState) : State := let s := at_ st; { s with sec := { s.sec with
  session := some sess
  nonce := #v[some (5, 0), none]
  keys := [(1, 9)] } }
/-- What a command without authority, a session's and a maintenance command without a password meet. -/
theorem free_ok (s : State) (c : MCall) (b : s.sessioned c = false) (a : authOf c.opc = .none ∨ authOf c.opc = .either) :
    s.authorise c = (some [], s) := by
  rcases a with a | a <;> simp [State.authorise, b, a]
theorem fails_ok (s : State) (c : MCall) (b : s.sessioned c = true) (n : s.sec.session = none) :
    s.authorise c = (none, s.authFail) := by simp [State.authorise, b, State.authSession, n]
theorem maint_ok (s : State) (c : MCall) (b : s.sessioned c = false) (k : s.sec.kpw = none) (h : c.chan = 0)
    (a : authOf c.opc = .maint ∨ authOf c.opc = .start) : s.authorise c = (some (natLe 32 0), s) := by
  rcases a with a | a <;> simp [State.authorise, b, a, State.authMaint, k, h]

/-- A command of the session: SID 7, SEQ 5, with its MAC. -/
def sbody (opc alen p0 : Nat) : Block64 := mcmd opc alen p0 + bits 512 [(64, 7), (96, 5)]
def scmd (opc alen p0 mac : Nat) : Block64 := sbody opc alen p0 + bits 512 [(384, mac)]
def passed (s : State) : State := { s with sec := { s.sec with
  session := some { sess with seq := 5 }
  lastCmd := s.ticks } }

/-- What a session's command must match. -/
def sGood (c : MCall) : Bool :=
  c.sid = sess.sid.toNat && c.chan = sess.chan && c.seq = (sess.seq + 1).toNat
    && (hmac sess.macKey (c.head ++ c.args)).take 16 = c.mac
theorem sess_ok (s : State) (c : MCall) (h : s.sec.session = some sess) (b : s.sessioned c = true) (g : sGood c = true) :
    s.authorise c = (some [], passed s) := by
  simp only [sGood] at g
  simp only [State.authorise, b, State.authSession, h, g, passed]
  rfl

/-! Witnesses of one clause each for the session's commands. -/

theorem sessRuns (st : DevState) (opc p0 mac : Nat) (args : List Byte) (h : fld (scmd opc args.length p0 mac) 0 8 = opc)
    (b : (secure st).mgmtBad (call (scmd opc args.length p0 mac) args) 0 = none) (o : opc ≠ 0x94)
    (q : (secure st).sessioned (call (scmd opc args.length p0 mac) args) = true)
    (g : sGood (call (scmd opc args.length p0 mac) args) = true) (l : mgmtLegal opc true st = true) :
    MgmtRuns (secure st) (.i3c (scmd opc args.length p0 mac) args) opc 0 (call (scmd opc args.length p0 mac) args) []
      (passed (secure st)) :=
  runs _ _ _ _ _ _ _ h b (fun e => absurd e o) (sess_ok _ _ rfl q g) l

theorem wit_close : MgmtRuns (secure .ready) (.i3c (scmd 0x95 0 0 222894906161614930623791548772231484088) []) 0x95 0
    (call (scmd 0x95 0 0 222894906161614930623791548772231484088) []) [] (passed (secure .ready)) :=
  sessRuns .ready 0x95 0 _ [] (by decide +kernel) (by decide +kernel) (by decide) (by decide +kernel) (by decide +kernel)
    (by decide +kernel)
theorem wit_run : MgmtRuns (secure .ready) (.i3c (scmd 0x96 0 0 93177616388760498580255792648504586096) []) 0x96 0
    (call (scmd 0x96 0 0 93177616388760498580255792648504586096) []) [] (passed (secure .ready)) :=
  sessRuns .ready 0x96 0 _ [] (by decide +kernel) (by decide +kernel) (by decide) (by decide +kernel) (by decide +kernel)
    (by decide +kernel)
theorem wit_hold : MgmtRuns (secure .running) (.i3c (scmd 0x97 0 0 118704442889933442863074313159796517189) []) 0x97 0
    (call (scmd 0x97 0 0 118704442889933442863074313159796517189) []) [] (passed (secure .running)) :=
  sessRuns .running 0x97 0 _ [] (by decide +kernel) (by decide +kernel) (by decide) (by decide +kernel) (by decide +kernel)
    (by decide +kernel)
theorem wit_drain : MgmtRuns (secure .running) (.i3c (scmd 0x98 0 0 302283730974343729360718764099666858713) []) 0x98 0
    (call (scmd 0x98 0 0 302283730974343729360718764099666858713) []) [] (passed (secure .running)) :=
  sessRuns .running 0x98 0 _ [] (by decide +kernel) (by decide +kernel) (by decide) (by decide +kernel) (by decide +kernel)
    (by decide +kernel)
theorem wit_extend : MgmtRuns (secure .held) (.i3c (scmd 0x99 32 0 190362549390345139280682689374047121976) (natLe 32 77))
    0x99 0 (call (scmd 0x99 32 0 190362549390345139280682689374047121976) (natLe 32 77)) [] (passed (secure .held)) :=
  sessRuns .held 0x99 0 _ (natLe 32 77) (by decide +kernel) (by decide +kernel) (by decide) (by decide +kernel)
    (by decide +kernel) (by decide +kernel)
theorem wit_start : MgmtRuns (secure .fault) (.i3c (scmd 0x9A 0 1 14560124949388074520403738429378768881) []) 0x9A 0
    (call (scmd 0x9A 0 1 14560124949388074520403738429378768881) []) [] (passed (secure .fault)) :=
  sessRuns .fault 0x9A 1 _ [] (by decide +kernel) (by decide +kernel) (by decide) (by decide +kernel) (by decide +kernel)
    (by decide +kernel)

/-- A session whose SID is missing from a command of it. -/
theorem wit_sessionFails : (secure .ready).sec.session = some sess ∧
    (secure .ready).sessioned (call (mcmd 0x96 0 0) []) = true ∧ sGood (call (mcmd 0x96 0 0) []) = false ∧
    (at_ .ready).sec.session = none ∧ (at_ .ready).sessioned (call (mcmd 0x96 0 0) []) = true := by decide +kernel
theorem test_closeSession : (let t := nx (exec (.closeSession (.i3c (mcmd 0x95 0 0) [])) (secure .ready));
    (t.dev.st, t.rd R.secStat % 2, t.rd R.secAuthcnt)) = (.ready, 1, 1) := by decide +kernel
theorem test_run : (let t := nx (exec (.run (.i3c (scmd 0x96 0 0 93177616388760498580255792648504586096) []))
    (secure .ready)); t.dev.st) = .running := by decide +kernel
theorem test_hold : (nx (exec (.hold (.i3c (mcmd 0x97 0 0) [])) (secure .running))).dev.holdPending = false := by
  decide +kernel
theorem test_drain : (nx (exec (.drain (.i3c (bits 512 [(0, 0x98), (8, 1)]) [])) (secure .running))).sec.resp.map
    (fun r => fld r.rcd 16 8) = some 0x10 := by decide +kernel
theorem test_extend : ((nx (exec (.extend (.i3c (scmd 0x99 32 0 190362549390345139280682689374047121976) (natLe 32 77)))
    (secure .held))).sec.session.map (·.seq)) = some 5 := by decide +kernel

/-- A refusal is in force on I3C; on the ring one has ended. -/
def refused : State := let s := at_ .standby; { s with ticks := 50, sec := { s.sec with refuse := #v[some 100, some 50] } }
def nonced (fails : Nat) : State := let s := secure .standby; { s with sec := { s.sec with
  session := none
  fails := #v[fails, 0] } }
theorem wit_proofs : refused.refusing 0 = true ∧ refused.refusing 1 = false ∧ (nonced 4).refusing 0 = false ∧
    (nonced 4).sec.nonce[(0 : Fin 2)] = some (5, 0) ∧ (nonced 4).ticks - 0 ≤ 10 * 100000000 ∧
    hmac (bytes256 9) [] ≠ natLe 32 0 := by decide +kernel
theorem test_fifth_failure : (let t := ((nonced 4).checkProof 0 (some 9) [] [] (natLe 32 0) []).2;
    (t.sec.fails[(0 : Fin 2)], t.sec.refuse[(0 : Fin 2)], t.sec.nonce[(0 : Fin 2)], t.rd R.secLockcnt)) =
    (5, some 6000000000, none, 1) := by decide +kernel
theorem test_refusalExpiry : ((nx (exec (.proofRefusalExpiry true) refused)).sec.refuse) = #v[some 100, none] := by
  decide +kernel

theorem wit_SessionTimers : (let s := secure .held; { s with ticks := 300000000000 }).sec.session = some sess ∧
    (secure .held).dev.st = .held ∧ refused.sec.refuse[(0 : Fin 2)] = some 100 ∧ 100 > refused.ticks ∧
    refused.sec.refuse[(1 : Fin 2)] = some 50 ∧ 50 ≤ refused.ticks := by decide +kernel
theorem test_sessionIdleTimeout : (let s := secure .held;
    let t := nx (exec .sessionIdleTimeout { s with ticks := 300000000000 });
    (t.dev.st, t.sec.session, t.dev.job)) = (.standby, none, false) := by decide +kernel
theorem test_dynamicAddress : (nx (exec (.dynamicAddressAssignment 9) (at_ .standby))).sec.i3cAddr = some 9 := by
  decide +kernel

/-! Status, nonce, quote and certificates take no authority. -/

theorem wit_status : MgmtRuns (at_ .dawn) (.i3c (mcmd 0x90 0 0) []) 0x90 32 (call (mcmd 0x90 0 0) []) [] (at_ .dawn) :=
  runs _ _ _ _ _ _ _ (by decide +kernel) (by decide +kernel) (by decide)
    (free_ok _ _ (by decide +kernel) (by decide +kernel)) (by decide +kernel)
theorem wit_nonce : MgmtRuns (at_ .ready) (.i3c (mcmd 0x91 0 0) []) 0x91 64 (call (mcmd 0x91 0 0) []) [] (at_ .ready) :=
  runs _ _ _ _ _ _ _ (by decide +kernel) (by decide +kernel) (by decide)
    (free_ok _ _ (by decide +kernel) (by decide +kernel)) (by decide +kernel)
theorem wit_quote : MgmtRuns (at_ .ready) (.i3c (mcmd 0x92 32 0) (natLe 32 77)) 0x92 896
    (call (mcmd 0x92 32 0) (natLe 32 77)) [] (at_ .ready) :=
  runs _ _ _ _ _ _ _ (by decide +kernel) (by decide +kernel) (by decide)
    (free_ok _ _ (by decide +kernel) (by decide +kernel)) (by decide +kernel)
theorem wit_certs : MgmtRuns (at_ .ready) (.i3c (mcmd 0x93 0 2) []) 0x93 4096 (call (mcmd 0x93 0 2) []) [] (at_ .ready) :=
  runs _ _ _ _ _ _ _ (by decide +kernel) (by decide +kernel) (by decide)
    (free_ok _ _ (by decide +kernel) (by decide +kernel)) (by decide +kernel)
theorem test_getStatus : (nx (exec (.getStatus (.i3c (mcmd 0x90 0 0) [])) (at_ .dawn))).sec.resp.map
    (fun r => (r.data.length, leNat (r.data.take 4), fld r.rcd 0 16)) = some (32, 1, 7) := by decide +kernel
theorem test_getNonce : (let t := nx (exec (.getNonce (.i3c (mcmd 0x91 0 0) [])) (at_ .ready));
    (t.sec.nonce[(1 : Fin 2)], t.sec.nonce[(0 : Fin 2)].isSome)) = (none, true) := by decide +kernel
theorem test_getCerts : (nx (exec (.getCerts (.i3c (mcmd 0x93 0 3) [])) (at_ .ready))).sec.resp.map
    (fun r => (fld r.rcd 16 8, r.data)) = some (0x10, []) := by decide +kernel

theorem wit_ManagementRefuses :
    ((at_ .ready).mgmtTake 0x96 (.i3c (bits 512 [(0, 0x96), (8, 1)]) []) = some (call (bits 512 [(0, 0x96), (8, 1)]) [], at_ .ready) ∧
      (at_ .ready).mgmtBad (call (bits 512 [(0, 0x96), (8, 1)]) []) 0 = some 1) ∧
    ((at_ .ready).mgmtTake 0x96 (.i3c (mcmd 0x8F 0 0) []) = some (call (mcmd 0x8F 0 0) [], at_ .ready) ∧
      (at_ .ready).mgmtBad (call (mcmd 0x8F 0 0) []) 0 = none ∧ isMgmt (call (mcmd 0x8F 0 0) []).opc = false) ∧
    (∃ v, MgmtFormed (at_ .ready) (.i3c (mcmd 0x96 0 0) []) 0x96 0 (call (mcmd 0x96 0 0) []) (at_ .ready) ∧
      (at_ .ready).authorise (call (mcmd 0x96 0 0) []) = (none, v)) ∧
    (MgmtFormed (at_ .dawn) (.i3c (mcmd 0x91 0 0) []) 0x91 64 (call (mcmd 0x91 0 0) []) (at_ .dawn) ∧
      mgmtLegal 0x91 true (at_ .dawn).dev.st = false) :=
  ⟨⟨by simp [State.mgmtTake, call, (by decide +kernel : fld (bits 512 [(0, 0x96), (8, 1)]) 0 8 = 0x96)], by decide +kernel⟩,
    ⟨by simp [State.mgmtTake, call, (by decide +kernel : isMgmt (fld (mcmd 0x8F 0 0) 0 8) = false)], by decide +kernel,
      by decide +kernel⟩,
    ⟨_, i3cFormed _ _ _ _ _ (by decide +kernel) (by decide +kernel) (by decide),
      fails_ok _ _ (by decide +kernel) rfl⟩,
    ⟨i3cFormed _ _ _ _ _ (by decide +kernel) (by decide +kernel) (by decide), by decide +kernel⟩⟩

/-! Opening a session with the key 9 of slot 1, nonce 5, N_h 3 and a manifest of one byte. -/

def openArgs (proof wrapped : Nat) : List Byte :=
  natLe 32 3 ++ natLe 32 proof ++ natLe 16 (1 * 2 ^ 8) ++ natLe 8 hostBase ++ natLe 8 1 ++ natLe 40 wrapped ++ natLe 4 0
theorem proof_ok (s : State) (ch : Fin 2) (k n : BitVec 256) (label nc proof tail : List Byte) (t : Nat)
    (r : s.refusing ch = false) (e : s.sec.nonce[ch] = some (n, t)) (w : s.ticks - t ≤ 10 * tSec)
    (h : hmac (bytes256 k) (label ++ bytes256 n ++ nc ++ natLe 16 s.fuse.serial.toNat ++ tail) = proof) :
    (s.checkProof ch (some k) label nc proof tail).1 = some (bytes256 n) ∧
      (s.checkProof ch (some k) label nc proof tail).2.dev = s.dev := by
  subst h
  simp [State.checkProof, r, e, w]
theorem proofRuns (s : State) (cmd : Block64) (args proof tail : List Byte) (opc rlen : Nat) (h : fld cmd 0 8 = opc)
    (b : s.mgmtBad (call cmd args) rlen = none) (o : opc = 0x94 → s.openBad args = false)
    (k : BitVec 256) (n : BitVec 256) (label nc : List Byte)
    (a : s.authorise (call cmd args) = s.checkProof 0 (some k) label nc proof tail)
    (r : s.refusing 0 = false) (e : s.sec.nonce[(0 : Fin 2)] = some (n, 0)) (w : s.ticks - 0 ≤ 10 * tSec)
    (m : hmac (bytes256 k) (label ++ bytes256 n ++ nc ++ natLe 16 s.fuse.serial.toNat ++ tail) = proof)
    (l : mgmtLegal opc true s.dev.st = true) :
    ∃ u, MgmtRuns s (.i3c cmd args) opc rlen (call cmd args) (bytes256 n) u := by
  obtain ⟨p, d⟩ := proof_ok s 0 k n label nc proof tail 0 r e w m
  exact ⟨(s.checkProof 0 (some k) label nc proof tail).2, runs _ _ _ _ _ _ _ h b o (by rw [a, ← p]) (by rw [d]; exact l)⟩
theorem open_by (s : State) (c : MCall) (a : authOf c.opc = .proof) (k : BitVec 256)
    (h : s.slotKey (leAt c.args 65 1) = some k) : s.authorise c =
    s.checkProof c.chan (some k) (ascii "ETNX-OPEN") (c.args.take 32) ((c.args.drop 32).take 32) (c.args.drop 64) := by
  have b : s.sessioned c = false := by simp [State.sessioned, a]
  simp [State.authorise, b, a, h]
theorem maint_by (s : State) (c : MCall) (a : authOf c.opc = .maint) (k : BitVec 256) (h : s.sec.kpw = some k) :
    s.authorise c = s.checkProof c.chan (some k) (ascii "ETNX-MAINT") (c.args.take 32) ((c.args.drop 32).take 32)
      (c.head ++ c.rest) := by
  have b : s.sessioned c = false := by simp [State.sessioned, a]
  simp [State.authorise, b, a, State.authMaint, h]

def openGood : List Byte := openArgs 112928096244572210735463048475393432269929512625042454669340289604576569874755
  866643638055425321043922412971037724999904766026760968957350534422222673167066281970213228975344
def openBadKey : List Byte := openArgs 28555031115746867113413761902535420143109525858324370545853770337174313473883 0
/-- The wrapping key of the session that this OPEN_SESSION opens. -/
def openKw : List Byte := kdf (bytes256 9) (ascii "ETNX-SWRP") (bytes256 5 ++ natLe 32 3 ++ natLe 2 1)
theorem openRuns (args : List Byte) (b : (nonced 0).mgmtBad (call (mcmd 0x94 140 0) args) 48 = none)
    (o : (nonced 0).openBad args = false) (k : (nonced 0).slotKey (leAt args 65 1) = some 9)
    (m : hmac (bytes256 9) (ascii "ETNX-OPEN" ++ bytes256 5 ++ args.take 32 ++ natLe 16 (nonced 0).fuse.serial.toNat ++
      args.drop 64) = (args.drop 32).take 32) :
    ∃ u, MgmtRuns (nonced 0) (.i3c (mcmd 0x94 140 0) args) 0x94 48 (call (mcmd 0x94 140 0) args) (bytes256 5) u :=
  proofRuns _ _ args ((args.drop 32).take 32) (args.drop 64) _ _ (by decide +kernel) b (fun _ => o) 9 5 (ascii "ETNX-OPEN")
    (args.take 32) (open_by _ (call (mcmd 0x94 140 0) args) (show authOf (fld (mcmd 0x94 140 0) 0 8) = .proof by decide +kernel) 9 k) (by decide +kernel)
    (by decide +kernel) (by decide +kernel) m (by decide +kernel)
theorem wit_OpenSessionOpens : ∃ u, MgmtRuns (nonced 0) (.i3c (mcmd 0x94 140 0) openGood) 0x94 48
    (call (mcmd 0x94 140 0) openGood) (bytes256 5) u :=
  openRuns openGood (by decide +kernel) (by decide +kernel) (by decide +kernel) (by decide +kernel)
theorem wit_openBadKey : ∃ u, MgmtRuns (nonced 0) (.i3c (mcmd 0x94 140 0) openBadKey) 0x94 48
    (call (mcmd 0x94 140 0) openBadKey) (bytes256 5) u :=
  openRuns openBadKey (by decide +kernel) (by decide +kernel) (by decide +kernel) (by decide +kernel)
theorem wit_openKeys : keyUnwrap openKw ((openGood.drop 96).take 40) = some (natLe 32 1234) ∧
    keyUnwrap openKw ((openBadKey.drop 96).take 40) = none := by decide +kernel

/-! Maintenance commands: without a password on I3C, and with the password key 77. -/

theorem maintRuns (st : DevState) (cmd : Block64) (args : List Byte) (opc : Nat) (h : fld cmd 0 8 = opc)
    (b : (at_ st).mgmtBad (call cmd args) 0 = none) (o : opc ≠ 0x94) (k : (at_ st).sessioned (call cmd args) = false)
    (a : authOf (fld cmd 0 8) = .maint) (l : mgmtLegal opc true (at_ st).dev.st = true) :
    MgmtRuns (at_ st) (.i3c cmd args) opc 0 (call cmd args) (natLe 32 0) (at_ st) :=
  runs _ _ _ _ _ _ _ h b (fun e => absurd e o) (maint_ok _ _ k rfl rfl (.inl a)) l
theorem wit_maintenance : MgmtRuns (at_ .standby) (.i3c (mcmd 0x9B 64 0) (natLe 64 0)) 0x9B 0
      (call (mcmd 0x9B 64 0) (natLe 64 0)) (natLe 32 0) (at_ .standby) ∧
    MgmtRuns (at_ .standby) (.i3c (mcmd 0x9C 104 8) (natLe 104 0)) 0x9C 0
      (call (mcmd 0x9C 104 8) (natLe 104 0)) (natLe 32 0) (at_ .standby) ∧
    MgmtRuns (at_ .fault) (.i3c (mcmd 0x9E 65 4064) (natLe 65 0)) 0x9E 0
      (call (mcmd 0x9E 65 4064) (natLe 65 0)) (natLe 32 0) (at_ .fault) ∧
    MgmtRuns (at_ .standby) (.i3c (mcmd 0x9E 65 (2 ^ 32)) (natLe 65 0)) 0x9E 0
      (call (mcmd 0x9E 65 (2 ^ 32)) (natLe 65 0)) (natLe 32 0) (at_ .standby) ∧
    MgmtRuns (at_ .standby) (.i3c (mcmd 0x9F 64 0) (natLe 64 0)) 0x9F 0
      (call (mcmd 0x9F 64 0) (natLe 64 0)) (natLe 32 0) (at_ .standby) ∧
    (call (mcmd 0x9C 104 8) (natLe 104 0)).args.drop 64 = natLe 40 0 ∧
    bitsOf (call (mcmd 0x9E 65 4064) (natLe 65 0)).p0 32 1 = 0 ∧ bitsOf (call (mcmd 0x9E 65 (2 ^ 32)) (natLe 65 0)).p0 32 1 = 1 :=
  ⟨maintRuns .standby _ _ _ (by decide +kernel) (by decide +kernel) (by decide) (by decide +kernel) (by decide +kernel)
      (by decide +kernel),
    maintRuns .standby _ _ _ (by decide +kernel) (by decide +kernel) (by decide) (by decide +kernel) (by decide +kernel)
      (by decide +kernel),
    maintRuns .fault _ _ _ (by decide +kernel) (by decide +kernel) (by decide) (by decide +kernel) (by decide +kernel)
      (by decide +kernel),
    maintRuns .standby _ _ _ (by decide +kernel) (by decide +kernel) (by decide) (by decide +kernel) (by decide +kernel)
      (by decide +kernel),
    maintRuns .standby _ _ _ (by decide +kernel) (by decide +kernel) (by decide) (by decide +kernel) (by decide +kernel)
      (by decide +kernel), by decide +kernel⟩
theorem test_clearMaprec : (let s := at_ .standby;
    (nx (exec (.clearMaprec (.i3c (mcmd 0x9B 64 0) (natLe 64 0))) { s with hbm := { s.hbm with mapRec := [3] } })).hbm.mapRec)
    = [] := by decide +kernel
theorem test_provisionKey : (let s := at_ .standby;
    (nx (exec (.provisionKey (.i3c (mcmd 0x9C 104 8) (natLe 104 0))) { s with sec := { s.sec with keys := [(1, 9), (8, 3)] } })).sec.keys)
    = [(1, 9)] := by decide +kernel
theorem test_fwWrite : (let t := nx (exec (.fwWrite (.i3c (mcmd 0x9E 65 4064) (natLe 65 (7 * 2 ^ 512))) true) (at_ .fault));
    (t.sec.bank[(1 : Fin 2)].byte 4064, bitsOf (t.rd R.secBoot) 3 1)) = (7, 0) := by decide +kernel
theorem test_fwWrite_final : bitsOf ((nx (exec (.fwWrite (.i3c (mcmd 0x9E 65 (2 ^ 32)) (natLe 65 0)) true)
    (at_ .standby))).rd R.secBoot) 3 1 = 1 := by decide +kernel
theorem test_advanceSvn : (let s := at_ .standby;
    (nx (exec (.advanceSvn (.i3c (mcmd 0x9F 64 0) (natLe 64 0))) { s with sec := { s.sec with svn := 6 } })).fuse.minSvn) = 6 := by
  decide +kernel

def keyed : State := let s := nonced 0; { s with sec := { s.sec with kpw := some 77 } }
def keyArgs (proof : Nat) (rest : List Byte) : List Byte := natLe 32 3 ++ natLe 32 proof ++ rest
def newKey : Nat := 1499042931507380939036641718116439053260347313240016629623400113917063184516860824520513922148286
/-- Proofs of the four commands below. -/
def proof_ : Nat → Nat
  | 0 => 11304029465101425700520140220616690644832811942483326735898280680283898565083
  | 1 => 32627992097137355508895001084468842388267132257900460180627047357734190077010
  | 2 => 43325351460185059057226466129260170063925876726353133442537195223333486409190
  | _ => 107412522948803752622485153832164938012608462852870157690359635030230260514091
theorem keyed_fresh : keyed.refusing 0 = false ∧ keyed.sec.nonce[(0 : Fin 2)] = some (5, 0) ∧
    keyed.ticks - 0 ≤ 10 * tSec := by decide +kernel
theorem keyedRuns (opc n p0 : Nat) (args : List Byte) (h : fld (mcmd opc n p0) 0 8 = opc)
    (b : keyed.mgmtBad (call (mcmd opc n p0) args) 0 = none) (o : opc ≠ 0x94) (a : authOf (fld (mcmd opc n p0) 0 8) = .maint)
    (m : hmac (bytes256 77) (ascii "ETNX-MAINT" ++ bytes256 5 ++ args.take 32 ++ natLe 16 keyed.fuse.serial.toNat ++
      ((call (mcmd opc n p0) args).head ++ (call (mcmd opc n p0) args).rest)) = (args.drop 32).take 32)
    (l : mgmtLegal opc true keyed.dev.st = true) :
    ∃ u, MgmtRuns keyed (.i3c (mcmd opc n p0) args) opc 0 (call (mcmd opc n p0) args) (bytes256 5) u :=
  proofRuns _ _ args ((args.drop 32).take 32) _ _ _ h b (fun e => absurd e o) 77 5 (ascii "ETNX-MAINT") (args.take 32)
    (maint_by _ (call (mcmd opc n p0) args) a 77 rfl) keyed_fresh.1 keyed_fresh.2.1 keyed_fresh.2.2 m l
theorem wit_provisionKey : (∃ u, MgmtRuns keyed (.i3c (mcmd 0x9C 104 1) (keyArgs (proof_ 0) (natLe 40 newKey))) 0x9C 0
      (call (mcmd 0x9C 104 1) (keyArgs (proof_ 0) (natLe 40 newKey))) (bytes256 5) u) ∧
    (∃ u, MgmtRuns keyed (.i3c (mcmd 0x9C 104 1) (keyArgs (proof_ 1) (natLe 40 1))) 0x9C 0
      (call (mcmd 0x9C 104 1) (keyArgs (proof_ 1) (natLe 40 1))) (bytes256 5) u) :=
  ⟨keyedRuns 0x9C 104 1 _ (by decide +kernel) (by decide +kernel) (by decide) (by decide +kernel) (by decide +kernel)
      (by decide +kernel),
    keyedRuns 0x9C 104 1 _ (by decide +kernel) (by decide +kernel) (by decide) (by decide +kernel) (by decide +kernel)
      (by decide +kernel)⟩
theorem wit_setPassword : (∃ u, MgmtRuns keyed (.i3c (mcmd 0x9D 120 0) (keyArgs (proof_ 2) (natLe 16 6 ++ natLe 40 newKey))) 0x9D 0
      (call (mcmd 0x9D 120 0) (keyArgs (proof_ 2) (natLe 16 6 ++ natLe 40 newKey))) (bytes256 5) u) ∧
    (∃ u, MgmtRuns keyed (.i3c (mcmd 0x9D 120 0) (keyArgs (proof_ 3) (natLe 16 6 ++ natLe 40 1))) 0x9D 0
      (call (mcmd 0x9D 120 0) (keyArgs (proof_ 3) (natLe 16 6 ++ natLe 40 1))) (bytes256 5) u) :=
  ⟨keyedRuns 0x9D 120 0 _ (by decide +kernel) (by decide +kernel) (by decide) (by decide +kernel) (by decide +kernel)
      (by decide +kernel),
    keyedRuns 0x9D 120 0 _ (by decide +kernel) (by decide +kernel) (by decide) (by decide +kernel) (by decide +kernel)
      (by decide +kernel)⟩
theorem wit_maintKeys : keyUnwrap (keyed.maintWrap (bytes256 5) (call (mcmd 0x9C 104 1) (keyArgs 0 []))) (natLe 40 newKey) =
      some (natLe 32 1234) ∧
    keyUnwrap (keyed.maintWrap (bytes256 5) (call (mcmd 0x9C 104 1) (keyArgs 0 []))) (natLe 40 1) = none := by decide +kernel
theorem wit_manifest : ((nonced 0).memRead .steward 0 (leAt openGood 80 8) (leAt openGood 88 4) []).1 = (0, [0]) := by
  decide +kernel

/-! ### Well-formed commands: each check refuses a term -/

theorem test_wf_errs : (Instr.copy 0 0 [(7, .array 33)]).wf = false ∧ (Instr.copy 0 0 [(7, .array 32), (8, .line)]).wf = true := by
  decide
theorem test_wf_size : (Instr.registerWrite 0xFF0000000000 3 0).wf = false ∧
    (Instr.registerWrite 0xFF0000000000 1 256).wf = false ∧ (Instr.registerWrite 0xFF0000000000 1 255).wf = true ∧
    (Instr.producerDoorbell 0 0 4 0x100000000 []).wf = false := by decide
theorem test_wf_access : (Instr.homeSliceAccess .steward 4090 none 8 0 []).wf = false ∧
    (Instr.homeSliceAccess .steward 4088 (some []) 8 0 []).wf = false ∧
    (Instr.homeSliceAccess .steward 4088 none 8 0 []).wf = true ∧
    (Instr.pcieEndpointRead 0 0 []).wf = false ∧ (Instr.pcieEndpointWrite 0 [] []).wf = false := by decide
theorem test_wf_lanes : (Instr.radd .steward 0 .i32 [] []).wf = false ∧ (Instr.radd .steward 0 .i32 [2 ^ 31] []).wf = false ∧
    (Instr.rmax .steward 0 .i32 [-2 ^ 31] []).wf = true ∧ (Instr.rmin .steward 0 .i64 [2 ^ 63] []).wf = false ∧
    (Instr.ror .steward 0 [] []).wf = false := by decide
theorem test_wf_scrub : (Instr.scrubRead 0 (2 ^ 26) 0 false).wf = false ∧ (Instr.scrubRead 0 0 33 false).wf = false ∧
    (Instr.scrubRead 0 (2 ^ 26 - 1) 32 false).wf = true := by decide
theorem test_wf_message (m : Msg) (h : m.data.length = 2 ^ 20 + 1) : (Instr.put 0 m []).wf = false := by
  simp [Instr.wf, msgOk, h]
theorem test_wf_management (l : List Byte) (h : l.length = 4033) : (Instr.run (.i3c 0 l)).wf = false := by
  simp [Instr.wf, mgmtOk, h]
theorem test_wf_clusters : (Instr.thermalModelUpdate ⟨[(96, 1)], []⟩ []).wf = false ∧
    (Instr.thermalModelUpdate ⟨[], [(96, 1)]⟩ []).wf = false ∧ (Instr.thermalModelUpdate ⟨[(95, 1)], []⟩ []).wf = true := by decide
theorem test_wf_start : (Instr.startComplete ⟨none, [(96, 1)], [], [], #v[true, true], #v[0, 0],
      #v[[], [], [], [], [], []]⟩ []).wf = false ∧
    (Instr.startComplete ⟨some 32, [], [], [], #v[true, true], #v[0, 0], #v[[], [], [], [], [], []]⟩ []).wf = false := by
  decide

end Sys2Proof.Tests
end

section
/-!
SUPPORT. Scalar results of vector instructions, the lanes a reduction takes in, and its total or extreme in the
destination. O11 rests on them.
-/

namespace Sys2Proof.Machine

/-! ### Scalar registers (R120) -/

/-- An engine with one scalar register written. -/
def VeSt.putSc (e : VeSt) (n : Nat) (v rx : Int) (flag : Bool) : VeSt :=
  { e with sc := SMap.put n ⟨BitVec.ofNat 64 (trunc 64 v), BitVec.ofNat 16 (trunc 16 rx), flag⟩ e.sc }

theorem putSc_sr_same (e : VeSt) (n : Nat) (v rx : Int) (flag : Bool) :
    (e.putSc n v rx flag).sr n = ⟨BitVec.ofNat 64 (trunc 64 v), BitVec.ofNat 16 (trunc 16 rx), flag⟩ :=
  SMap.val_put_same ..

theorem putSc_sr_ne (e : VeSt) {n m : Nat} (v rx : Int) (flag : Bool) (h : m ≠ n) :
    (e.putSc n v rx flag).sr m = e.sr m :=
  SMap.val_put_ne _ _ _ h

/-- An integer of n bits is read back from a word of n bits. -/
theorem sx_ofNat_trunc {n : Nat} (hn : 0 < n) {v : Int} (h : inRange n v) :
    sx n (BitVec.ofNat n (trunc n v)).toNat = v := by
  rw [BitVec.toNat_ofNat, Nat.mod_eq_of_lt (trunc_lt n v)]
  exact sx_trunc hn h.1 h.2

theorem inRange_sixteen {rx : Int} (hlo : -32768 ≤ rx) (hhi : rx ≤ 32767) : inRange 16 rx :=
  ⟨hlo, Int.lt_add_one_of_le hhi⟩

theorem rxOk_iff_inRange (rx : Int) : rxOk rx = true ↔ inRange 16 rx := by
  simp only [rxOk, inRange, Bool.and_eq_true, decide_eq_true_eq]
  omega

/-- Where the exponent fits, a scalar result is written and the run is left as it is (R126). -/
theorem scal_eq_ok (x : VCtx) (s : State) (n : Nat) {rx : Int} (hrx : inRange 16 rx) (r : VResEl) :
    x.scal s n rx r = .ok s (x.e.putSc n r.1 rx r.2.1) x.r (if r.2.2 then 1 else 0) := by
  simp only [VCtx.scal, (rxOk_iff_inRange rx).mpr hrx, Bool.not_true, Bool.false_eq_true, if_false, VeSt.putSc]

theorem putSc_writesScalar (x : VCtx) (n : Nat) {v rx : Int} (flag : Bool) (hv : inRange 64 v) (hrx : inRange 16 rx)
    (run : Option VRun) : WritesScalar x { x.e.putSc n v rx flag with run } n v rx flag where
  frame := rfl
  others _ hm := putSc_sr_ne x.e v rx flag hm
  value := (congrArg (fun r : SReg => sx 64 r.v.toNat) (putSc_sr_same x.e n v rx flag)).trans
    (sx_ofNat_trunc (by decide) hv)
  exponent := (congrArg (fun r : SReg => sx 16 r.rx.toNat) (putSc_sr_same x.e n v rx flag)).trans
    (sx_ofNat_trunc (by decide) hrx)
  flags := congrArg SReg.flag (putSc_sr_same x.e n v rx flag)

/-- A vector instruction with one scalar result. -/
theorem exec_scalar {s : State} {c : Cluster} {v : Engine} {opc : Nat} {x : VCtx} (h : Issues s c v opc x)
    (m : VCtx → State → VRes) {n : Nat} {rx : Int} {r : VResEl} (hm : m x s = x.scal s n rx r) (hv : inRange 64 r.1)
    (hrx : inRange 16 rx) :
    ∃ t, s.vec c v opc none m = .next t ∧ Retires s t c v x.r (if r.2.2 then 1 else 0) ∧
      WritesScalar x ((t.clus c.val).veAt v.val) n r.1 rx r.2.1 := by
  refine ⟨_, by rw [vec_issues h, hm, scal_eq_ok x s n hrx], retires_of s c v _ x.r _, ?_⟩
  rw [retire_engine]
  exact putSc_writesScalar x n r.2.1 hv hrx _

/-! ### Elements fit their width -/

theorem sx_inRange {n : Nat} (hn : 0 < n) (v : Nat) : inRange n (sx n v) := by
  have hlt := Nat.mod_lt v (Nat.two_pow_pos n)
  have hp : 2 ^ n = 2 * 2 ^ (n - 1) := by rw [← Nat.pow_succ', Nat.succ_eq_add_one, Nat.sub_add_cancel hn]
  simp only [inRange, sx]
  split <;> omega

theorem inRange_mono {m n : Nat} (hmn : m ≤ n) {v : Int} (h : inRange m v) : inRange n v := by
  have hp : 2 ^ (m - 1) ≤ 2 ^ (n - 1) := Nat.pow_le_pow_right (by decide) (by omega)
  unfold inRange at *
  omega

theorem rx_inRange (e : VeSt) (n : Nat) : inRange 16 (e.rx n) := sx_inRange (by decide) _

theorem halves_inRange (r : VReg) : ∀ a ∈ r.halves, inRange 16 a.1 := by
  intro a ha
  obtain ⟨i, hi, rfl⟩ := List.mem_iff_getElem.mp ha
  have hlen : i < 512 := by simpa [VReg.halves] using hi
  have hget := halves_get r i hlen
  rw [List.getElem?_eq_getElem hi] at hget
  rw [Option.some.inj hget]
  exact sx_inRange (by decide) _

theorem words_inRange (r : VReg) : ∀ a ∈ r.words, inRange 32 a.1 := by
  intro a ha
  obtain ⟨p, -, rfl⟩ := List.mem_map.mp ha
  exact sx_inRange (by decide) _

theorem pairWords_inRange (a b : VReg) : ∀ y ∈ pairWords a b, inRange 64 y.1 := by
  intro y hy
  obtain ⟨p, -, rfl⟩ := List.mem_map.mp hy
  exact sx_inRange (by decide) _

theorem els_inRange (e : VeSt) (wid n : Nat) : ∀ a ∈ e.els wid n, inRange 64 a.1 := by
  intro a ha
  unfold VeSt.els at ha
  split at ha
  · exact inRange_mono (by decide) (halves_inRange _ a ha)
  · split at ha
    · exact inRange_mono (by decide) (words_inRange _ a ha)
    · exact pairWords_inRange _ _ a ha

/-! ### The lanes a reduction takes in -/

theorem zipIdx_eq_map_range {α : Type} (l : List α) (d : α) :
    l.zipIdx = (List.range l.length).map fun i => (l.getD i d, i) := by
  refine List.ext_getElem (by simp) fun i hi _ => ?_
  have hlt : i < l.length := by simpa using hi
  simp [hlt]

/-- Numbers of the elements acted on (R120, R127). -/
def VCtx.taken (x : VCtx) : List Nat := (List.range (elCount (iWid x.w))).filter x.on

theorem included_eq_map_el (x : VCtx) : x.included = x.taken.map (x.e.el (iWid x.w) (iVa x.w)) := by
  simp only [VCtx.included, VCtx.taken, VCtx.elA]
  rw [zipIdx_eq_map_range _ (0, false), els_length, List.filter_map, List.map_map]
  rfl

theorem included_inRange (x : VCtx) : ∀ a ∈ x.included, inRange 64 a.1 := by
  intro a ha
  obtain ⟨p, hp, rfl⟩ := List.mem_map.mp ha
  have hmem : p.1 ∈ x.elA := List.fst_mem_of_mem_zipIdx (List.mem_filter.mp hp).1
  exact els_inRange _ _ _ _ hmem

/-- Values of the elements acted on. -/
def VCtx.values (x : VCtx) : List Int := x.taken.map fun l => (x.e.el (iWid x.w) (iVa x.w) l).1

/-- Whether an element acted on is flagged. -/
def VCtx.anyFlag (x : VCtx) : Bool := x.taken.any fun l => (x.e.el (iWid x.w) (iVa x.w) l).2

theorem included_values (x : VCtx) : x.included.map (·.1) = x.values := by
  rw [included_eq_map_el, List.map_map]
  rfl

theorem included_anyFlag (x : VCtx) : x.included.any (·.2) = x.anyFlag := by
  rw [included_eq_map_el, List.any_map]
  rfl

theorem values_inRange (x : VCtx) : ∀ k ∈ x.values, inRange 64 k := by
  intro k hk
  rw [← included_values] at hk
  obtain ⟨a, ha, rfl⟩ := List.mem_map.mp hk
  exact included_inRange x a ha

theorem sum_eq_values_sum (x : VCtx) : x.sum = x.values.sum := by
  rw [← included_values, List.sum_eq_foldl, List.foldl_map]
  rfl

theorem sumSq_eq_values_sum (x : VCtx) : x.sumSq = (x.values.map fun k => k * k).sum := by
  rw [← included_values, List.map_map, List.sum_eq_foldl, List.foldl_map]
  rfl

/-- Where the value of no lanes is neutral for those of a list, the extreme is a fold from it (R140). -/
theorem extreme_eq_foldl {f : Int → Int → Int} {d : Int} {l : List Int} (h : ∀ a ∈ l, f d a = a) :
    extreme f d l = l.foldl f d := by
  cases l with
  | nil => rfl
  | cons a t => rw [List.foldl_cons, h a List.mem_cons_self]; rfl

theorem max_values (x : VCtx) :
    extreme max (-(2 ^ 63)) (x.included.map (·.1)) = x.values.foldl max (-(2 ^ 63)) := by
  rw [included_values]
  exact extreme_eq_foldl fun k hk => Int.max_eq_right (values_inRange x k hk).1

theorem min_values (x : VCtx) :
    extreme min (2 ^ 63 - 1) (x.included.map (·.1)) = x.values.foldl min (2 ^ 63 - 1) := by
  rw [included_values]
  exact extreme_eq_foldl fun k hk => Int.min_eq_right (Int.le_sub_one_of_lt (values_inRange x k hk).2)

theorem amax_values (x : VCtx) :
    extreme max 0 (x.included.map fun e => ((e.1.natAbs : Nat) : Int)) =
      (x.values.map fun k => ((k.natAbs : Nat) : Int)).foldl max 0 := by
  rw [← included_values, List.map_map]
  refine extreme_eq_foldl fun a ha => ?_
  obtain ⟨k, -, rfl⟩ := List.mem_map.mp ha
  exact Int.max_eq_right (Int.natCast_nonneg _)

/-! ### A total or an extreme in its destination (R139, R140) -/

/-- What a reduction leaves in scalar n, with whether anything saturated. -/
def VCtx.intoScalar (x : VCtx) (n : Nat) (f : Int → Int → Int) (total rx : Int) : Int × Int × Bool :=
  intoDest (decide (iImm x.w % 2 = 1)) f total rx (sx 64 (x.e.sr n).v.toNat) (sx 16 (x.e.sr n).rx.toNat)

/-- The flag a reduction leaves in scalar n. -/
def VCtx.scalarFlag (x : VCtx) (n : Nat) (sat : Bool) : Bool :=
  sat || x.anyFlag || (decide (iImm x.w % 2 = 1) && (x.e.sr n).flag)

theorem vop1_limit {n : Nat} (hn : 0 < n) (v : Int) (fl : Bool) :
    vop1 n v fl = (limit n v, decide (limit n v ≠ v) || fl, decide (limit n v ≠ v)) := by
  simp only [vop1, (clampTo_limit hn v).1, (clampTo_limit hn v).2]

theorem intoDest_value_inRange (acc : Bool) (f : Int → Int → Int) (total rx dv dx : Int) :
    inRange 64 (intoDest acc f total rx dv dx).1 := by
  cases acc <;> exact limit_inRange (by decide) _

theorem min_inRange {n : Nat} {a b : Int} (ha : inRange n a) (hb : inRange n b) : inRange n (min a b) := by
  unfold inRange at *
  omega

theorem intoScalar_rx_inRange (x : VCtx) (n : Nat) (f : Int → Int → Int) (total : Int) {rx : Int}
    (hrx : inRange 16 rx) : inRange 16 (x.intoScalar n f total rx).2.1 := by
  have hd : inRange 16 (sx 16 (x.e.sr n).rx.toNat) := sx_inRange (by decide) _
  unfold VCtx.intoScalar
  cases decide (iImm x.w % 2 = 1)
  · exact hrx
  · exact min_inRange hrx hd

/-- A reduction is a scalar result: the model flags a combined result by the saturation of the total and of the
combination, the included elements and the destination, each in its own step. -/
theorem reduce_eq_scal (x : VCtx) (s : State) (n : Nat) (total rx : Int) (f : Int → Int → Int) :
    x.reduce s n total rx f =
      x.scal s n (x.intoScalar n f total rx).2.1 ((x.intoScalar n f total rx).1,
        x.scalarFlag n (x.intoScalar n f total rx).2.2, (x.intoScalar n f total rx).2.2) := by
  have h64 : 0 < 64 := by decide
  unfold VCtx.reduce VCtx.intoScalar VCtx.scalarFlag
  simp only [included_anyFlag, vop1_limit h64]
  by_cases hacc : iImm x.w % 2 = 0
  · have hone : ¬ iImm x.w % 2 = 1 := by omega
    simp [hacc, intoDest]
  · have hone : iImm x.w % 2 = 1 := by omega
    simp only [vop2_limit h64, hone, decide_true, intoDest, if_true, VCtx.sc, Bool.true_and]
    rw [if_neg (by decide)]
    refine congrArg (x.scal s n _) (Prod.ext rfl (Prod.ext ?_ ?_)) <;>
      (simp only [Bool.decide_or]; ac_rfl)

/-- Instruction i retires with a total or an extreme as its one scalar result, in VD. -/
def ReducesTo (s : State) (c : Cluster) (v : Engine) (x : VCtx) (i : Instr) (total rx : Int) (f : Int → Int → Int) :
    Prop :=
  let y := x.intoScalar (iVd x.w) f total rx
  ∃ t, exec i s = .next t ∧ Retires s t c v x.r (if y.2.2 then 1 else 0) ∧
    WritesScalar x ((t.clus c.val).veAt v.val) (iVd x.w) y.1 y.2.1 (x.scalarFlag (iVd x.w) y.2.2)

/-- An instruction whose meaning is a reduction into VD, at an exponent that fits, reduces to its total. -/
theorem reducesTo_of_exec {s : State} {c : Cluster} {v : Engine} {opc : Nat} {x : VCtx} (h : Issues s c v opc x)
    {i : Instr} {totalOf rxOf : VCtx → Int} {f : Int → Int → Int} {total : Int}
    (hi : exec i s = s.vec c v opc none fun x s => x.reduce s (iVd x.w) (totalOf x) (rxOf x) f)
    (ht : totalOf x = total) (hrx : inRange 16 (rxOf x)) : ReducesTo s c v x i total (rxOf x) f := by
  subst ht
  unfold ReducesTo
  rw [hi]
  exact exec_scalar h (fun x s => x.reduce s (iVd x.w) (totalOf x) (rxOf x) f) (reduce_eq_scal x s _ _ _ f)
    (intoDest_value_inRange ..) (intoScalar_rx_inRange x (iVd x.w) f (totalOf x) hrx)

section
variable {s : State} {c : Cluster} {v : Engine} {x : VCtx}

theorem exec_vrsum : exec (.vrsum c v none) s =
    s.vec c v 0x40 none fun x s => x.reduce s (iVd x.w) x.sum x.rxA (· + ·) := rfl

theorem exec_vrssq : exec (.vrssq c v none) s =
    s.vec c v 0x41 none fun x s => x.reduce s (iVd x.w) x.sumSq (2 * x.rxA) (· + ·) := rfl

theorem exec_vrmax : exec (.vrmax c v none) s = s.vec c v 0x43 none fun x s =>
    x.reduce s (iVd x.w) (extreme max (-(2 ^ 63)) (x.included.map (·.1))) x.rxA max := rfl

theorem exec_vrmin : exec (.vrmin c v none) s = s.vec c v 0x44 none fun x s =>
    x.reduce s (iVd x.w) (extreme min (2 ^ 63 - 1) (x.included.map (·.1))) x.rxA min := rfl

theorem exec_vramax : exec (.vramax c v none) s = s.vec c v 0x45 none fun x s =>
    x.reduce s (iVd x.w) (extreme max 0 (x.included.map fun e => ((e.1.natAbs : Nat) : Int))) x.rxA max := rfl

theorem vrsum_reducesTo (h : Issues s c v 0x40 x) :
    ReducesTo s c v x (.vrsum c v none) x.values.sum x.rxA (· + ·) :=
  reducesTo_of_exec h exec_vrsum (sum_eq_values_sum x) (rx_inRange ..)

theorem vrssq_reducesTo (h : Issues s c v 0x41 x) (hrx : inRange 16 (2 * x.rxA)) :
    ReducesTo s c v x (.vrssq c v none) (x.values.map fun k => k * k).sum (2 * x.rxA) (· + ·) :=
  reducesTo_of_exec (rxOf := fun x => 2 * x.rxA) h exec_vrssq (sumSq_eq_values_sum x) hrx

theorem vrmax_reducesTo (h : Issues s c v 0x43 x) :
    ReducesTo s c v x (.vrmax c v none) (x.values.foldl max (-(2 ^ 63))) x.rxA max :=
  reducesTo_of_exec h exec_vrmax (max_values x) (rx_inRange ..)

theorem vrmin_reducesTo (h : Issues s c v 0x44 x) :
    ReducesTo s c v x (.vrmin c v none) (x.values.foldl min (2 ^ 63 - 1)) x.rxA min :=
  reducesTo_of_exec h exec_vrmin (min_values x) (rx_inRange ..)

theorem vramax_reducesTo (h : Issues s c v 0x45 x) :
    ReducesTo s c v x (.vramax c v none) ((x.values.map fun k => ((k.natAbs : Nat) : Int)).foldl max 0) x.rxA max :=
  reducesTo_of_exec h exec_vramax (amax_values x) (rx_inRange ..)

end

/-! ### Both sums of one pass (VRMV) -/

/-- Engine after a reduction into scalar n. -/
def VCtx.reduced (x : VCtx) (n : Nat) (f : Int → Int → Int) (total rx : Int) : VeSt :=
  x.e.putSc n (x.intoScalar n f total rx).1 (x.intoScalar n f total rx).2.1
    (x.scalarFlag n (x.intoScalar n f total rx).2.2)

theorem reduce_eq_ok (x : VCtx) (s : State) (n : Nat) (total : Int) {rx : Int} (f : Int → Int → Int)
    (hrx : inRange 16 rx) : x.reduce s n total rx f =
      .ok s (x.reduced n f total rx) x.r (if (x.intoScalar n f total rx).2.2 then 1 else 0) := by
  rw [reduce_eq_scal, scal_eq_ok x s n (intoScalar_rx_inRange x n f total hrx)]
  rfl

theorem reduced_writesScalar (x : VCtx) (n : Nat) (f : Int → Int → Int) (total : Int) {rx : Int}
    (hrx : inRange 16 rx) (run : Option VRun) : WritesScalar x { x.reduced n f total rx with run } n
      (x.intoScalar n f total rx).1 (x.intoScalar n f total rx).2.1
      (x.scalarFlag n (x.intoScalar n f total rx).2.2) :=
  putSc_writesScalar x n _ (intoDest_value_inRange ..) (intoScalar_rx_inRange x n f total hrx) run

/-- The instruction as its second reduction sees it. -/
def VCtx.afterReduce (x : VCtx) (n : Nat) (f : Int → Int → Int) (total rx : Int) : VCtx :=
  { x with e := x.reduced n f total rx }

theorem afterReduce_sr_ne (x : VCtx) {n m : Nat} (h : m ≠ n) (g : Int → Int → Int) (k r : Int) :
    (x.afterReduce n g k r).e.sr m = x.e.sr m :=
  putSc_sr_ne x.e _ _ _ h

theorem afterReduce_intoScalar (x : VCtx) {n m : Nat} (h : m ≠ n) (g : Int → Int → Int) (k r : Int)
    (f : Int → Int → Int) (total rx : Int) :
    (x.afterReduce n g k r).intoScalar m f total rx = x.intoScalar m f total rx := by
  simp only [VCtx.intoScalar, afterReduce_sr_ne x h]
  rfl

theorem afterReduce_scalarFlag (x : VCtx) {n m : Nat} (h : m ≠ n) (g : Int → Int → Int) (k r : Int) (sat : Bool) :
    (x.afterReduce n g k r).scalarFlag m sat = x.scalarFlag m sat := by
  simp only [VCtx.scalarFlag, afterReduce_sr_ne x h]
  rfl

/-- Two scalar registers change, one after the other: `y` is the instruction after the first write. -/
theorem writesScalar_twice {x y : VCtx} {e : VeSt} {n m : Nat} {v₁ r₁ v₂ r₂ : Int} {f₁ f₂ : Bool} (hnm : n ≠ m)
    (h₁ : WritesScalar x y.e n v₁ r₁ f₁) (h₂ : WritesScalar y e m v₂ r₂ f₂) :
    e = { x.e with sc := e.sc, run := e.run } ∧ (∀ k, k ≠ n → k ≠ m → e.sr k = x.e.sr k) ∧
      sx 64 (e.sr n).v.toNat = v₁ ∧ sx 16 (e.sr n).rx.toNat = r₁ ∧ (e.sr n).flag = f₁ ∧
      sx 64 (e.sr m).v.toNat = v₂ ∧ sx 16 (e.sr m).rx.toNat = r₂ ∧ (e.sr m).flag = f₂ := by
  have hn : e.sr n = y.e.sr n := h₂.others n hnm
  refine ⟨?_, fun k hkn hkm => (h₂.others k hkm).trans (h₁.others k hkn), ?_, ?_, ?_, h₂.value, h₂.exponent, h₂.flags⟩
  · have hframe := h₂.frame
    rw [h₁.frame] at hframe
    exact hframe
  · rw [hn, h₁.value]
  · rw [hn, h₁.exponent]
  · rw [hn, h₁.flags]

/-- Engine after VRMV: the sum in VD, then the sum of squares in the next scalar. -/
def VCtx.bothSums (x : VCtx) : VeSt :=
  (x.afterReduce (iVd x.w) (· + ·) x.values.sum x.rxA).reduced (iVd x.w + 1) (· + ·)
    (x.values.map fun k => k * k).sum (2 * x.rxA)

theorem execVrmv_eq_retire {s : State} {c : Cluster} {v : Engine} {x : VCtx} (h : Issues s c v 0x42 x)
    (hrx : inRange 16 (2 * x.rxA)) :
    execVrmv c v none s = .next (s.retire c.val v.val x.bothSums x.r
      ((if (x.intoScalar (iVd x.w) (· + ·) x.values.sum x.rxA).2.2 then 1 else 0) +
        if (x.intoScalar (iVd x.w + 1) (· + ·) (x.values.map fun k => k * k).sum (2 * x.rxA)).2.2 then 1 else 0)) := by
  have hrx1 : inRange 16 x.rxA := rx_inRange x.e (iVa x.w)
  have hsecond := reduce_eq_ok (x.afterReduce (iVd x.w) (· + ·) x.values.sum x.rxA) s (iVd x.w + 1)
    (x.values.map fun k => k * k).sum (· + ·) hrx
  rw [afterReduce_intoScalar x (Nat.succ_ne_self _)] at hsecond
  unfold execVrmv
  rw [vec_issues h, sum_eq_values_sum, sumSq_eq_values_sum, reduce_eq_ok x s (iVd x.w) x.values.sum (· + ·) hrx1]
  unfold VCtx.afterReduce at hsecond
  simp only [hsecond]
  rfl

/-- VRMV writes the sum and the sum of squares of the values taken in, each as if alone (R139). -/
theorem bothSums_writes (x : VCtx) (hrx : inRange 16 (2 * x.rxA)) (run : Option VRun) :
    let n := iVd x.w
    let y := x.intoScalar n (· + ·) x.values.sum x.rxA
    let z := x.intoScalar (n + 1) (· + ·) (x.values.map fun k => k * k).sum (2 * x.rxA)
    let e := { x.bothSums with run }
    e = { x.e with sc := e.sc, run := e.run } ∧ (∀ k, k ≠ n → k ≠ n + 1 → e.sr k = x.e.sr k) ∧
      sx 64 (e.sr n).v.toNat = y.1 ∧ sx 16 (e.sr n).rx.toNat = y.2.1 ∧ (e.sr n).flag = x.scalarFlag n y.2.2 ∧
      sx 64 (e.sr (n + 1)).v.toNat = z.1 ∧ sx 16 (e.sr (n + 1)).rx.toNat = z.2.1 ∧
      (e.sr (n + 1)).flag = x.scalarFlag (n + 1) z.2.2 := by
  intro n y z e
  have hne : n + 1 ≠ n := Nat.succ_ne_self n
  have hfirst := reduced_writesScalar x n (· + ·) x.values.sum (rx_inRange x.e (iVa x.w)) x.e.run
  have hsecond := reduced_writesScalar (x.afterReduce n (· + ·) x.values.sum x.rxA) (n + 1) (· + ·)
    (x.values.map fun k => k * k).sum hrx run
  rw [afterReduce_intoScalar x hne, afterReduce_scalarFlag x hne] at hsecond
  exact writesScalar_twice hne.symm hfirst hsecond

/-! ### Lanes counted (R147) -/

theorem popcount_eq_length_filter (k n : Nat) : popcount k n = ((List.range k).filter n.testBit).length := by
  induction k generalizing n with
  | zero => rfl
  | succ k ih =>
    have hshift : n.testBit ∘ Nat.succ = (n / 2).testBit := funext fun i => Nat.testBit_succ n i
    have h0 : n.testBit 0 = decide (n % 2 = 1) := Nat.testBit_zero n
    rw [popcount, ih, List.range_succ_eq_map, List.filter_cons, List.filter_map, hshift, h0]
    rcases Nat.mod_two_eq_zero_or_one n with hb | hb
    · simp [hb]
    · simp [hb, Nat.add_comm]

/-- Lanes set in a mask register. -/
def maskCount (b : BitVec 256) : Nat := ((List.range 256).filter fun l => b.getLsbD l).length

theorem popcount_eq_maskCount (b : BitVec 256) : popcount 256 b.toNat = maskCount b :=
  popcount_eq_length_filter 256 b.toNat

theorem maskCount_inRange (b : BitVec 256) : inRange 64 (maskCount b : Nat) := by
  have hle : maskCount b ≤ 256 := Nat.le_trans (List.length_filter_le _ _) (Nat.le_of_eq List.length_range)
  unfold inRange
  omega

/-- VRCNT gives the lanes set in a mask, at exponent 0 and without a flag. -/
theorem execVrcnt_writes {s : State} {c : Cluster} {v : Engine} {x : VCtx} (h : Issues s c v 0x46 x) :
    ∃ t, execVrcnt c v s = .next t ∧ Retires s t c v x.r 0 ∧
      WritesScalar x ((t.clus c.val).veAt v.val) (iVd x.w) (maskCount (x.e.mask (iVa x.w))) 0 false := by
  have hcount := popcount_eq_maskCount (x.e.mask (iVa x.w))
  exact exec_scalar h _ (rx := 0) (r := ((maskCount (x.e.mask (iVa x.w)) : Nat), false, false)) (by rw [hcount])
    (maskCount_inRange _) (inRange_sixteen (by decide) (by decide))

/-! ### O11 -/

/-- Settles O11: every reduction is a scalar result of the exact total or extreme of the values taken in (`ReducesTo`);
VRMV's second sum sees the engine after its first, which leaves the lanes and the other scalar as they were. -/
theorem vectorReductions : Obligations.VectorReductions := by
  unfold Obligations.VectorReductions
  intro c v s x _
  refine ⟨vrsum_reducesTo, fun h hlo hhi => vrssq_reducesTo h (inRange_sixteen hlo hhi), fun h hlo hhi => ?vrmv,
    vrmax_reducesTo, vrmin_reducesTo, vramax_reducesTo, execVrcnt_writes⟩
  case vrmv =>
    have hrx : inRange 16 (2 * x.rxA) := inRange_sixteen hlo hhi
    refine ⟨_, execVrmv_eq_retire h hrx, retires_of s c v _ x.r _, ?_⟩
    rw [retire_engine]
    exact bothSums_writes x hrx _

end Sys2Proof.Machine

end

section
/-!
SUPPORT. The bits a W1C flag sets, an event of NOTICE severity in its queue, authority and its failures, and how each
check of R13 ends a management command. O53 rests on them.
-/

namespace Sys2Proof.Machine

/-! ### A flag and its counter (R20) -/

/-- A register whose bit b is set, cut at that bit. -/
theorem setBits_one_eq (w b : Nat) :
    setBits w b 1 1 = 2 ^ b * (2 * (w / 2 ^ b / 2) + 1) + w % 2 ^ b := by
  have hw : 2 ^ b * (w / 2 ^ b) + w % 2 ^ b = w := Nat.div_add_mod w (2 ^ b)
  have hbit : 2 ^ b * (w / 2 ^ b) = 2 ^ b * (2 * (w / 2 ^ b / 2)) + w / 2 ^ b % 2 * 2 ^ b := by
    rw [Nat.mul_comm (w / 2 ^ b % 2), ← Nat.mul_add, Nat.div_add_mod]
  simp only [setBits, bitsOf, Nat.shiftRight_eq_div_pow, Nat.pow_one, Nat.reduceMod, Nat.one_mul, Nat.mul_add,
    Nat.mul_one]
  omega

theorem testBit_setBits_one (w b i : Nat) :
    (setBits w b 1 1).testBit i = (decide (i = b) || w.testBit i) := by
  rw [setBits_one_eq, Nat.testBit_two_pow_mul_add _ (Nat.mod_lt w (Nat.two_pow_pos b))]
  rcases Nat.lt_trichotomy i b with hlt | rfl | hgt
  · simp [hlt, Nat.ne_of_lt hlt]
  · simp
  · obtain ⟨k, rfl⟩ : ∃ k, i = b + (k + 1) := ⟨i - b - 1, by omega⟩
    have hdiv : (w / 2 ^ b / 2).testBit k = w.testBit (b + (k + 1)) := by
      rw [← Nat.testBit_succ, Nat.testBit_div_two_pow, Nat.add_comm]
    rw [if_neg (by omega), Nat.add_sub_cancel_left, Nat.testBit_succ, ← hdiv]
    have hodd : (2 * (w / 2 ^ b / 2) + 1) / 2 = w / 2 ^ b / 2 := by omega
    simp [hodd]

/-- The flag register after a flag: the bit set, the others kept. -/
theorem State.testBit_rd_flag (s : State) {st cnt bit i n : Nat} (hcnt : cnt ≠ st) (hi : i < 64) (hn : n ≠ 0) :
    ((s.flag st bit cnt n).rd st).testBit i = (decide (i = bit) || (s.rd st).testBit i) := by
  unfold State.flag
  rw [if_neg hn, State.count, State.rd_wr_ne _ _ hcnt.symm, State.wf, State.rd_wr_same, Nat.testBit_mod_two_pow,
    testBit_setBits_one, decide_eq_true hi, Bool.true_and]

theorem State.flag_flagged (s : State) {st cnt bit n : Nat} (hcnt : cnt ≠ st) (hbit : bit < 64) (hn : n ≠ 0) :
    Flagged s (s.flag st bit cnt n) st bit cnt n :=
  ⟨by simp [s.testBit_rd_flag hcnt hbit hn], s.rd_flag_count bit n hn hcnt⟩

/-- What was flagged stays so where its counter is kept and its bit is not cleared. -/
theorem Flagged.mono {s t u : State} {st bit cnt n : Nat} (h : Flagged s t st bit cnt n)
    (hbit : (t.rd st).testBit bit → (u.rd st).testBit bit) (hcnt : u.rd cnt = t.rd cnt) : Flagged s u st bit cnt n :=
  ⟨hbit h.1, hcnt.trans h.2⟩

/-- A flag counts from any state whose counter stands at the same value. -/
theorem Flagged.of_count {s s' t : State} {stat bit cnt n : Nat} (h : Flagged s' t stat bit cnt n)
    (hcnt : s'.rd cnt = s.rd cnt) : Flagged s t stat bit cnt n :=
  ⟨h.1, hcnt ▸ h.2⟩

/-! ### An event that asks for no response (R468, R469) -/

/-- A record touches no register but those of a lost record. -/
theorem State.rd_sendRec_ne (s : State) (r : EvRec) {a : Nat} (hstat : a ≠ R.evtStat) (hcnt : a ≠ R.evtLostcnt) :
    (s.sendRec r).rd a = s.rd a := by
  by_cases hlost : (s.dev.selfRefresh ||
      decide (8 ≤ (SMap.val [] s.evt.queues (unitNo r.code.toNat r.src)).length)) = true
  · have hsend : s.sendRec r = s.loseRec := by simp only [State.sendRec, ge_iff_le, if_pos hlost]
    rw [hsend]
    exact s.rd_flag_ne 0 1 hstat hcnt
  · simp only [State.sendRec, ge_iff_le, if_neg hlost]
    rfl

/-- The raising of an event of NOTICE severity is its record alone. -/
theorem State.raise_notice (s : State) {code : Nat} (hsev : sevOf code = .notice) (q : Src) (arg d0 d1 : Nat) :
    s.raise code q arg d0 d1 = s.sendRec ⟨s.time.meridian, BitVec.ofNat 16 code, sevOf code, q, BitVec.ofNat 16 arg,
      BitVec.ofNat 64 d0, BitVec.ofNat 64 d1, false⟩ := by
  rw [State.raise, hsev]
  rfl

theorem State.rd_raise_notice (s : State) {code : Nat} (hsev : sevOf code = .notice) (q : Src)
    (arg d0 d1 : Nat) {a : Nat} (hstat : a ≠ R.evtStat) (hcnt : a ≠ R.evtLostcnt) :
    (s.raise code q arg d0 d1).rd a = s.rd a := by
  rw [s.raise_notice hsev, s.rd_sendRec_ne _ hstat hcnt]

theorem State.raise_raised (s : State) {code : Nat} (hsev : sevOf code = .notice) (hcode : code < 2 ^ 16) (q : Src)
    (arg d0 d1 : Nat) : Raised s (s.raise code q arg d0 d1) code q arg d0 d1 := by
  rw [s.raise_notice hsev]
  unfold Raised
  intro l
  simp only [State.sendRec, BitVec.toNat_ofNat, Nat.mod_eq_of_lt hcode, ge_iff_le, Bool.or_eq_true, decide_eq_true_eq]
  split
  case isTrue => exact s.flag_flagged (by decide) (by decide) (by decide)
  case isFalse => exact SMap.val_put_same ..

/-- An event raised from a state that shares time, queues and the lost count with s, and kept until u. -/
theorem Raised.of_same {s s' t u : State} {code arg d0 d1 : Nat} {q : Src} (h : Raised s' t code q arg d0 d1)
    (hdev : s'.dev.selfRefresh = s.dev.selfRefresh) (htime : s'.time = s.time) (hevt : s'.evt = s.evt)
    (hlost : s'.rd R.evtLostcnt = s.rd R.evtLostcnt) (hkept : u.evt = t.evt)
    (hstat : u.rd R.evtStat = t.rd R.evtStat) (hcnt : u.rd R.evtLostcnt = t.rd R.evtLostcnt) :
    Raised s u code q arg d0 d1 := by
  unfold Raised Flagged at *
  rw [hkept, hstat, hcnt, ← hdev, ← htime, ← hevt, ← hlost]
  exact h

/-! ### A failure of authentication -/

theorem State.authFail_sec (s : State) : s.authFail.sec = s.sec := s.flag_sec ..

theorem State.authFail_evt (s : State) : s.authFail.evt = s.evt := s.flag_evt ..

theorem State.authFail_flagged (s : State) : Flagged s s.authFail R.secStat 0 R.secAuthcnt 1 :=
  s.flag_flagged (by decide) (by decide) (by decide)

theorem State.rd_authFail_ne (s : State) {a : Nat} (hstat : a ≠ R.secStat) (hcnt : a ≠ R.secAuthcnt) :
    s.authFail.rd a = s.rd a :=
  s.rd_flag_ne 0 1 hstat hcnt

/-- A failure clears no flag of SEC_STAT. -/
theorem State.authFail_keepsFlags (s : State) {i : Nat} (hi : i < 64) (h : (s.rd R.secStat).testBit i) :
    (s.authFail.rd R.secStat).testBit i := by
  rw [State.authFail, s.testBit_rd_flag (by decide) hi (by decide), h, Bool.or_true]

/-! ### Proofs (R439, R444) -/

/-- A proof holds: a nonce of the channel, not older than 10 s, and the HMAC over it. -/
def State.ProofHolds (s : State) (ch : Fin 2) (key n : BitVec 256) (at_ : Nat) (label nc proof tail : List Byte) :
    Prop :=
  s.sec.nonce[ch] = some (n, at_) ∧ s.ticks - at_ ≤ 10 * tSec ∧
    proof = hmac (bytes256 key) (label ++ bytes256 n ++ nc ++ natLe 16 s.fuse.serial.toNat ++ tail)

/-- The nonce of a channel is used up and a failure counted. -/
def State.failProof (s : State) (ch : Fin 2) : State :=
  { s with sec := { s.sec with nonce := s.sec.nonce.set ch none, fails := s.sec.fails.set ch (s.sec.fails[ch] + 1) } }

/-- The refusal that the f-th failure in a row starts. -/
def State.startRefusal (s : State) (ch : Fin 2) (f : Nat) : State :=
  { s with sec := { s.sec with refuse := s.sec.refuse.set ch (some (s.ticks + refusalSec f * tSec)) } }.flag
    R.secStat 1 R.secLockcnt 1

/-- The refusal with its event, which the fifth failure in a row raises. -/
def State.lockChannel (s : State) (ch : Fin 2) (f : Nat) : State :=
  if f = 5 then (s.startRefusal ch f).raise 0x6005 srcSd ch.val (refusalSec f) 0 else s.startRefusal ch f

/-- What a checked proof that fails leaves, but for the failure of authentication. -/
def State.afterFailure (s : State) (ch : Fin 2) : State :=
  let f := s.sec.fails[ch] + 1
  if f < 5 then s.failProof ch else (s.failProof ch).lockChannel ch f

section
variable {s : State} {ch : Fin 2} {key : BitVec 256} {label nc proof tail : List Byte}

theorem checkProof_refused (h : s.refusing ch = true) (k : Option (BitVec 256)) :
    s.checkProof ch k label nc proof tail = (none, s.authFail) := by
  simp only [State.checkProof, h, if_true]

theorem checkProof_holds {n : BitVec 256} {at_ : Nat} (h : s.refusing ch = false)
    (hp : s.ProofHolds ch key n at_ label nc proof tail) :
    s.checkProof ch (some key) label nc proof tail = (some (bytes256 n), { s with sec := { s.sec with
      nonce := s.sec.nonce.set ch none
      fails := s.sec.fails.set ch 0
      refuse := s.sec.refuse.set ch none } }) := by
  obtain ⟨hnonce, hage, rfl⟩ := hp
  simp [State.checkProof, h, hnonce, hage]

/-- A checked proof that does not hold fails, also where its slot has no key. -/
theorem checkProof_fails {k : Option (BitVec 256)} (h : s.refusing ch = false)
    (hp : ∀ key n at_, k = some key → ¬s.ProofHolds ch key n at_ label nc proof tail) :
    s.checkProof ch k label nc proof tail = (none, (s.afterFailure ch).authFail) := by
  have hlock : ∀ f, (if f < 5 then ((none : Option (List Byte)), (s.failProof ch).authFail)
      else (none, ((s.failProof ch).lockChannel ch f).authFail)) =
      (none, (if f < 5 then s.failProof ch else (s.failProof ch).lockChannel ch f).authFail) := fun f => by
    split <;> rfl
  unfold State.checkProof
  rw [if_neg (by simp [h])]
  rcases k with _ | key
  · rcases hn : s.sec.nonce[ch] with _ | p <;> exact hlock _
  · rcases hn : s.sec.nonce[ch] with _ | ⟨n, at_⟩
    · exact hlock _
    · have hno := hp key n at_ rfl
      have hguard : (decide (s.ticks - at_ ≤ 10 * tSec) && decide (hmac (bytes256 key)
          (label ++ bytes256 n ++ nc ++ natLe 16 s.fuse.serial.toNat ++ tail) = proof)) = false := by
        rw [Bool.and_eq_false_imp, decide_eq_true_eq, decide_eq_false_iff_not]
        exact fun hage htag => hno ⟨hn, hage, htag.symm⟩
      simp only [hguard]
      exact hlock _

/-- A failed proof ends in a failure of authentication. -/
theorem checkProof_none {k : Option (BitVec 256)} {v : State}
    (h : s.checkProof ch k label nc proof tail = (none, v)) : ∃ u : State, v = u.authFail := by
  by_cases hr : s.refusing ch = true
  · rw [checkProof_refused hr, Prod.mk.injEq] at h
    exact ⟨s, h.2.symm⟩
  · rw [Bool.not_eq_true] at hr
    by_cases hp : ∃ key n at_, k = some key ∧ s.ProofHolds ch key n at_ label nc proof tail
    · obtain ⟨key, n, at_, rfl, hp⟩ := hp
      rw [checkProof_holds hr hp, Prod.mk.injEq] at h
      exact absurd h.1 (by simp)
    · rw [checkProof_fails hr fun key n at_ hk hh => hp ⟨key, n, at_, hk, hh⟩, Prod.mk.injEq] at h
      exact ⟨s.afterFailure ch, h.2.symm⟩

end

/-! ### What a failed proof leaves (R444) -/

theorem startRefusal_flagged (s : State) (ch : Fin 2) (f : Nat) :
    Flagged s (s.startRefusal ch f) R.secStat 1 R.secLockcnt 1 :=
  (State.flag_flagged _ (by decide) (by decide) (by decide)).of_count rfl

theorem rd_startRefusal_ne (s : State) (ch : Fin 2) (f : Nat) {a : Nat} (hstat : a ≠ R.secStat)
    (hcnt : a ≠ R.secLockcnt) : (s.startRefusal ch f).rd a = s.rd a :=
  State.rd_flag_ne _ 1 1 hstat hcnt

theorem lockChannel_sec (s : State) (ch : Fin 2) (f : Nat) : (s.lockChannel ch f).sec =
    { s.sec with refuse := s.sec.refuse.set ch (some (s.ticks + refusalSec f * tSec)) } := by
  unfold State.lockChannel
  split
  · rw [State.raise_sec, State.startRefusal, State.flag_sec]
  · rw [State.startRefusal, State.flag_sec]

/-- The event of a refusal touches no register but those of a lost record. -/
theorem rd_lockChannel_ne (s : State) (ch : Fin 2) (f : Nat) {a : Nat} (hstat : a ≠ R.evtStat)
    (hcnt : a ≠ R.evtLostcnt) : (s.lockChannel ch f).rd a = (s.startRefusal ch f).rd a := by
  unfold State.lockChannel
  split
  · exact State.rd_raise_notice _ (by decide) _ _ _ _ hstat hcnt
  · rfl

theorem lockChannel_flagged (s : State) (ch : Fin 2) (f : Nat) :
    Flagged s (s.lockChannel ch f) R.secStat 1 R.secLockcnt 1 := by
  unfold Flagged
  rw [rd_lockChannel_ne s ch f (by decide) (by decide), rd_lockChannel_ne s ch f (by decide) (by decide)]
  exact startRefusal_flagged s ch f

theorem lockChannel_authcnt (s : State) (ch : Fin 2) (f : Nat) :
    (s.lockChannel ch f).rd R.secAuthcnt = s.rd R.secAuthcnt := by
  rw [rd_lockChannel_ne s ch f (by decide) (by decide), rd_startRefusal_ne s ch f (by decide) (by decide)]

theorem lockChannel_raised (s : State) (ch : Fin 2) :
    Raised s (s.lockChannel ch 5) 0x6005 srcSd ch.val 60 0 :=
  (State.raise_raised (s.startRefusal ch 5) (by decide) (by decide) srcSd ch.val 60 0).of_same
    (by rw [State.startRefusal, State.flag_dev]) (by rw [State.startRefusal, State.flag_time])
    (by rw [State.startRefusal, State.flag_evt]) (rd_startRefusal_ne s ch 5 (by decide) (by decide)) rfl rfl rfl

/-- A checked proof that fails (R444): its nonce is gone, the failure counts, and from the fifth in a row on the
channel refuses proofs. -/
structure ProofFailure (s t : State) (ch : Fin 2) : Prop where
  nonce : t.sec.nonce[ch] = none
  fails : t.sec.fails[ch] = s.sec.fails[ch] + 1
  auth : Flagged s t R.secStat 0 R.secAuthcnt 1
  early : s.sec.fails[ch] + 1 < 5 → t.sec.refuse = s.sec.refuse
  refusal : 5 ≤ s.sec.fails[ch] + 1 →
    t.sec.refuse[ch] = some (s.ticks + refusalSec (s.sec.fails[ch] + 1) * tSec) ∧
      Flagged s t R.secStat 1 R.secLockcnt 1
  event : s.sec.fails[ch] + 1 = 5 → Raised s t 0x6005 srcSd ch.val 60 0

theorem afterFailure_early {s : State} {ch : Fin 2} (h : s.sec.fails[ch] + 1 < 5) :
    s.afterFailure ch = s.failProof ch := if_pos h

theorem afterFailure_late {s : State} {ch : Fin 2} (h : 5 ≤ s.sec.fails[ch] + 1) :
    s.afterFailure ch = (s.failProof ch).lockChannel ch (s.sec.fails[ch] + 1) := if_neg (by omega)

theorem afterFailure_proofFailure (s : State) (ch : Fin 2) : ProofFailure s (s.afterFailure ch).authFail ch := by
  rcases Nat.lt_or_ge (s.sec.fails[ch] + 1) 5 with hf | hf
  · rw [afterFailure_early hf]
    exact {
      nonce := by rw [State.authFail_sec]; simp [State.failProof]
      fails := by rw [State.authFail_sec]; simp [State.failProof]
      auth := (State.authFail_flagged _).of_count rfl
      early := fun _ => by rw [State.authFail_sec]; rfl
      refusal := fun h => absurd hf (by omega)
      event := fun h => absurd hf (by omega) }
  · rw [afterFailure_late hf]
    have hlock := lockChannel_flagged (s.failProof ch) ch (s.sec.fails[ch] + 1)
    exact {
      nonce := by rw [State.authFail_sec, lockChannel_sec]; simp [State.failProof]
      fails := by rw [State.authFail_sec, lockChannel_sec]; simp [State.failProof]
      auth := (State.authFail_flagged _).of_count (lockChannel_authcnt ..)
      early := fun h => absurd hf (by omega)
      refusal := fun _ => ⟨by rw [State.authFail_sec, lockChannel_sec]; simp [State.failProof],
        (hlock.of_count rfl).mono (State.authFail_keepsFlags _ (by decide))
          (State.rd_authFail_ne _ (by decide) (by decide))⟩
      event := fun h => by
        rw [h]
        exact (lockChannel_raised (s.failProof ch) ch).of_same rfl rfl rfl rfl (State.authFail_evt _)
          (State.rd_authFail_ne _ (by decide) (by decide)) (State.rd_authFail_ne _ (by decide) (by decide)) }

/-! ### Session authority (R442) -/

/-- A command carries what its session asks for: SID, channel, next SEQ and MAC. -/
def Session.Accepts (x : Session) (c : MCall) : Prop :=
  c.sid = x.sid.toNat ∧ c.chan = x.chan ∧ c.seq = (x.seq + 1).toNat ∧
    c.mac = (hmac (bytes256 x.km) (c.head ++ c.args)).take 16

section
variable {s : State} {c : MCall}

theorem authorise_sessioned (h : s.sessioned c = true) :
    s.authorise c = (if (s.authSession c).1 then some [] else none, (s.authSession c).2) := by
  rw [State.authorise, if_pos h]

theorem authSession_accepts {x : Session} (hx : s.sec.session = some x) (hok : x.Accepts c) :
    s.authSession c = (true, { s with sec := { s.sec with
      session := some { x with seq := x.seq + 1 }
      lastCmd := s.ticks } }) := by
  obtain ⟨hsid, hchan, hseq, htag⟩ := hok
  simp [State.authSession, hx, hsid, hchan, hseq, htag, Session.macKey]

theorem authSession_refuses (hno : ∀ x, s.sec.session = some x → ¬x.Accepts c) :
    s.authSession c = (false, s.authFail) := by
  unfold State.authSession
  split
  case h_1 => rfl
  case h_2 x hx =>
    refine if_neg fun hall => hno x hx ?_
    simp only [Bool.and_eq_true, decide_eq_true_eq, Session.macKey] at hall
    obtain ⟨⟨⟨hsid, hchan⟩, hseq⟩, htag⟩ := hall
    exact ⟨hsid, hchan, hseq, (of_decide_eq_true htag).symm⟩

theorem authorise_accepts {x : Session} (h : s.sessioned c = true) (hx : s.sec.session = some x) (hok : x.Accepts c) :
    s.authorise c = (some [], { s with sec := { s.sec with
      session := some { x with seq := x.seq + 1 }
      lastCmd := s.ticks } }) := by
  rw [authorise_sessioned h, authSession_accepts hx hok, if_pos rfl]

theorem authorise_refuses (h : s.sessioned c = true) (hno : ∀ x, s.sec.session = some x → ¬x.Accepts c) :
    s.authorise c = (none, s.authFail) := by
  rw [authorise_sessioned h, authSession_refuses hno]
  rfl

theorem authMaint_none {v : State} (h : s.authMaint c = (none, v)) : ∃ u : State, v = u.authFail := by
  unfold State.authMaint at h
  split at h
  case h_1 =>
    split at h
    case isTrue => exact absurd (congrArg Prod.fst h) (by simp)
    case isFalse => exact ⟨s, (congrArg Prod.snd h).symm⟩
  case h_2 => exact checkProof_none h

/-- Every refused authority, of whatever kind, has failed authentication. -/
theorem authorise_none {v : State} (h : s.authorise c = (none, v)) : ∃ u : State, v = u.authFail := by
  by_cases hs : s.sessioned c = true
  · by_cases hok : ∃ x, s.sec.session = some x ∧ x.Accepts c
    · obtain ⟨x, hx, hacc⟩ := hok
      exact absurd (congrArg Prod.fst ((authorise_accepts hs hx hacc).symm.trans h)) (by simp)
    · have href := authorise_refuses hs fun x hx hacc => hok ⟨x, hx, hacc⟩
      exact ⟨s, (congrArg Prod.snd (href.symm.trans h)).symm⟩
  · rw [State.authorise, if_neg hs] at h
    split at h
    case h_1 => exact authMaint_none h
    case h_2 => exact authMaint_none h
    case h_3 => exact checkProof_none h
    case h_4 => exact absurd (congrArg Prod.fst h) (by simp)

end

/-! ### The checks of a command, in the order of R13 -/

/-- A well-formed command from its authority on: what mgmtRun does once the argument block has been read. -/
def State.mgmtAct (s : State) (opc : Nat) (c : MCall) (f : MCall → List Byte → State → (Nat × List Byte) × State)
    (after : MCall → State → State) : State :=
  match s.authorise c with
  | (none, s) => s.mgmtDone c 0x50 0 []
  | (some nd, s) =>
    if !mgmtLegal opc (c.chan = 0) s.dev.st then s.mgmtDone c 0x20 0 []
    else
      let ((st, resp), s) := f c nd s
      let s := s.mgmtDone c st 0 resp
      if st ≤ 1 then after c s else s

section
variable {s u v : State} {m : Mgmt} {opc rlen : Nat} {c : MCall}
  {f : MCall → List Byte → State → (Nat × List Byte) × State} {after : MCall → State → State}

theorem mgmtRun_malformed {o : Nat} (ht : s.mgmtTake opc m = some (c, u)) (hb : u.mgmtBad c rlen = some o) :
    s.mgmtRun m opc rlen f after = u.mgmtDone c 0x10 o [] := by
  simp only [State.mgmtRun, ht, hb]

theorem mgmtRun_unknown (ht : s.mgmtTake opc m = some (c, u)) (hb : u.mgmtBad c rlen = none)
    (hopc : isMgmt c.opc = false) : s.mgmtRun m opc rlen f after = u.mgmtDone c 0x11 0 [] := by
  simp only [State.mgmtRun, ht, hb, hopc, Bool.not_false, if_true]

/-- A well-formed command whose argument block can be read comes to its authority. -/
theorem mgmtRun_formed (h : MgmtFormed s m opc rlen c u) (hopc : isMgmt opc = true) :
    s.mgmtRun m opc rlen f after = u.mgmtAct opc c f after := by
  obtain ⟨⟨b, v, ht, hb, hcode, hc, hargs⟩, hblock⟩ := h
  have hread : (if b.chan = 1 && b.alen != 0 then v.memRead .steward (fld b.cmd 32 16) b.arg b.alen []
      else ((0, b.args), v)) = ((0, c.args), u) := by
    split at hargs
    case isTrue hring => rw [if_pos (by simpa using hring), hargs]
    case isFalse hring =>
      obtain ⟨rfl, rfl⟩ := hargs
      exact if_neg (by simpa using hring)
  have hopen : (decide (opc = 0x94) && u.openBad c.args) = false := by
    rw [Bool.and_eq_false_imp, decide_eq_true_eq]
    exact hblock
  simp only [State.mgmtRun, ht, hb, hcode, hopc, hread, ← hc, hopen, bne_self_eq_false, Bool.not_true,
    Bool.false_eq_true, if_false]
  rw [show b.chan = c.chan from (congrArg MCall.chan hc).symm]
  rfl

theorem mgmtAct_authFail (ha : u.authorise c = (none, v)) : u.mgmtAct opc c f after = v.mgmtDone c 0x50 0 [] := by
  simp only [State.mgmtAct, ha]

theorem mgmtAct_illegal {nd : List Byte} (ha : u.authorise c = (some nd, v))
    (hl : mgmtLegal opc (c.chan = 0) v.dev.st = false) : u.mgmtAct opc c f after = v.mgmtDone c 0x20 0 [] := by
  simp only [State.mgmtAct, ha, hl, Bool.not_false, if_true]

end

/-- Every row of Table 15.4 has a code of the table, and its meaning is the shared run of a management command. -/
theorem exec_mgmtRows (m : Mgmt) (errs : Errs) (vb : Bool) (s : State) : ∀ q ∈ mgmtRows m errs vb,
    isMgmt q.2.1 = true ∧ ∃ f after, exec q.1 s = .next (s.mgmtRun m q.2.1 q.2.2 f after) := by
  simp only [mgmtRows, List.forall_mem_cons, List.not_mem_nil, false_implies, implies_true, and_true]
  refine ⟨?_, ?_, ?_, ?_, ?_, ?_, ?_, ?_, ?_, ?_, ?_, ?_, ?_, ?_, ?_, ?_⟩ <;> exact ⟨rfl, _, _, rfl⟩

/-! ### O53 -/

/-- The checks of R13 a row makes before it runs a command. -/
theorem exec_mgmtRows_refuses (m : Mgmt) (errs : Errs) (vb : Bool) (s : State) : ∀ q ∈ mgmtRows m errs vb,
    (∀ c u o, s.mgmtTake q.2.1 m = some (c, u) → u.mgmtBad c q.2.2 = some o →
      exec q.1 s = .next (u.mgmtDone c 0x10 o [])) ∧
    (∀ c u, s.mgmtTake q.2.1 m = some (c, u) → u.mgmtBad c q.2.2 = none → isMgmt c.opc = false →
      exec q.1 s = .next (u.mgmtDone c 0x11 0 [])) ∧
    (∀ c u v, MgmtFormed s m q.2.1 q.2.2 c u → u.authorise c = (none, v) →
      exec q.1 s = .next (v.mgmtDone c 0x50 0 []) ∧ (v.rd R.secStat).testBit 0 = true) ∧
    (∀ c u v nd, MgmtFormed s m q.2.1 q.2.2 c u → u.authorise c = (some nd, v) →
      mgmtLegal q.2.1 (c.chan = 0) v.dev.st = false → exec q.1 s = .next (v.mgmtDone c 0x20 0 [])) := by
  intro q hq
  obtain ⟨hopc, f, after, hexec⟩ := exec_mgmtRows m errs vb s q hq
  rw [hexec]
  refine ⟨fun c u o ht hb => ?_, fun c u ht hb hno => ?_, fun c u v hf ha => ⟨?_, ?_⟩, fun c u v nd hf ha hl => ?_⟩
  · rw [mgmtRun_malformed ht hb]
  · rw [mgmtRun_unknown ht hb hno]
  · rw [mgmtRun_formed hf hopc, mgmtAct_authFail ha]
  · obtain ⟨w, rfl⟩ := authorise_none ha
    exact w.authFail_flagged.1
  · rw [mgmtRun_formed hf hopc, mgmtAct_illegal ha hl]

/-- Settles O53: every row runs its command by the shared checks of R13 (`exec_mgmtRows`), each of which ends it with
its own status; a refused authority always ends in `authFail`, and a failed proof is a `ProofFailure`. -/
theorem managementAuthority : Obligations.ManagementAuthority := by
  unfold Obligations.ManagementAuthority
  refine ⟨exec_mgmtRows_refuses, fun s c => ⟨?session, ?noSession, ?refusing, ?proof⟩⟩
  case session =>
    intro x hx hs good
    refine ⟨authorise_accepts hs hx, fun hno => ⟨s.authFail, authorise_refuses hs fun y hy hacc => ?_,
      s.authFail_sec, s.authFail_flagged⟩⟩
    obtain rfl : x = y := Option.some.inj (hx.symm.trans hy)
    exact hno hacc
  case noSession =>
    intro hx hs
    exact ⟨s.authFail, authorise_refuses hs fun y hy => absurd (hx.symm.trans hy) (by simp), s.authFail_sec⟩
  case refusing =>
    intro key nc proof tail label hr
    exact ⟨s.authFail, checkProof_refused hr _, s.authFail_sec, s.authFail_flagged⟩
  case proof =>
    intro key nc proof tail label n at_ hr hn good f
    refine ⟨fun ⟨hage, htag⟩ => checkProof_holds hr ⟨hn, hage, htag⟩, fun hno => ?_⟩
    have hfail := afterFailure_proofFailure s c.chan
    refine ⟨_, checkProof_fails hr ?_, hfail.nonce, hfail.fails, hfail.auth, hfail.early, hfail.refusal, hfail.event⟩
    rintro key' n' t' hkey ⟨hn', hage, htag⟩
    obtain rfl : key = key' := Option.some.inj hkey
    obtain ⟨rfl, rfl⟩ := Prod.mk.inj (Option.some.inj (hn.symm.trans hn'))
    exact hno ⟨hage, htag⟩

end Sys2Proof.Machine
end

section
/-!
SUPPORT. What survives the end of the device's work and the beginning of a start: the rails, the test access port,
RESET_N and the bits of SEC_BOOT. O50 and O58 rest on them.
-/

namespace Sys2Proof.Machine

/-! ### Single bits of a register -/

theorem bitsOf_one_eq_testBit (w i : Nat) : bitsOf w i 1 = (w.testBit i).toNat := by
  rw [bitsOf, Nat.shiftRight_eq_div_pow, Nat.pow_one, Nat.toNat_testBit]

/-- A word with bit b replaced by either value, cut at that bit. -/
theorem setBits_bit_eq (w b v : Nat) :
    setBits w b 1 v = 2 ^ b * (2 * (w / 2 ^ b / 2) + v % 2) + w % 2 ^ b := by
  have hw : 2 ^ b * (w / 2 ^ b) + w % 2 ^ b = w := Nat.div_add_mod w (2 ^ b)
  have hbit : 2 ^ b * (w / 2 ^ b) = 2 ^ b * (2 * (w / 2 ^ b / 2)) + w / 2 ^ b % 2 * 2 ^ b := by
    rw [Nat.mul_comm (w / 2 ^ b % 2), ← Nat.mul_add, Nat.div_add_mod]
  rw [setBits, bitsOf, Nat.shiftRight_eq_div_pow, Nat.pow_one, Nat.mul_add, Nat.mul_comm (v % 2)]
  omega

theorem testBit_setBits_bit (w b v i : Nat) :
    (setBits w b 1 v).testBit i = if i = b then v.testBit 0 else w.testBit i := by
  rw [setBits_bit_eq, Nat.testBit_two_pow_mul_add _ (Nat.mod_lt w (Nat.two_pow_pos b))]
  rcases Nat.lt_trichotomy i b with hlt | rfl | hgt
  · simp [hlt, Nat.ne_of_lt hlt]
  · simp
  · obtain ⟨k, rfl⟩ : ∃ k, i = b + (k + 1) := ⟨i - b - 1, by omega⟩
    have hhigh : (w / 2 ^ b / 2).testBit k = w.testBit (b + (k + 1)) := by
      rw [← Nat.testBit_succ, Nat.testBit_div_two_pow, Nat.add_comm]
    have hhalf : (2 * (w / 2 ^ b / 2) + v % 2) / 2 = w / 2 ^ b / 2 := by omega
    rw [if_neg (by omega), if_neg (by omega), Nat.add_sub_cancel_left, Nat.testBit_succ, hhalf, hhigh]

/-- A bit of a register after a bit of it was written. -/
theorem State.bit_wf (s : State) (a : Nat) {b i : Nat} (v : Nat) (hi : i < 64) :
    bitsOf ((s.wf a b 1 v).rd a) i 1 = if i = b then v % 2 else bitsOf (s.rd a) i 1 := by
  simp only [State.wf, State.rd_wr_same, bitsOf_one_eq_testBit, Nat.testBit_mod_two_pow, hi, decide_true, Bool.true_and,
    testBit_setBits_bit]
  split
  · rw [Nat.toNat_testBit, Nat.pow_zero, Nat.div_one]
  · rfl

/-! ### Registers and records alone -/

/-- Only event records and installed registers other than SEC_BOOT differ. -/
structure State.Notes (s t : State) : Prop where
  frame : t = { s with evt := t.evt, regs := { s.regs with file := t.regs.file } }
  boot : t.rd R.secBoot = s.rd R.secBoot

namespace State.Notes

protected theorem refl (s : State) : s.Notes s := ⟨rfl, rfl⟩

protected theorem trans {s t u : State} (h : s.Notes t) (k : t.Notes u) : s.Notes u :=
  ⟨by rw [k.frame, h.frame], k.boot.trans h.boot⟩

end State.Notes

theorem State.wr_notes (s : State) {a : Nat} (v : Nat) (ha : R.secBoot ≠ a) : s.Notes (s.wr a v) :=
  ⟨rfl, s.rd_wr_ne v ha⟩

theorem State.wf_notes (s : State) {a : Nat} (lo len v : Nat) (ha : R.secBoot ≠ a) : s.Notes (s.wf a lo len v) :=
  s.wr_notes _ ha

theorem State.flag_notes (s : State) {st cnt : Nat} (bit n : Nat) (hst : R.secBoot ≠ st) (hcnt : R.secBoot ≠ cnt) :
    s.Notes (s.flag st bit cnt n) := by
  unfold State.flag
  split
  case isTrue => exact .refl s
  case isFalse => exact (s.wf_notes _ _ _ hst).trans (State.wr_notes _ _ hcnt)

theorem State.sendRec_notes (s : State) (r : EvRec) : s.Notes (s.sendRec r) := by
  refine ⟨?_, s.rd_sendRec_ne r (by decide) (by decide)⟩
  unfold State.sendRec
  extract_lets u q
  split
  case isTrue =>
    rw [State.loseRec, (s.flag_notes (st := R.evtStat) (cnt := R.evtLostcnt) 0 1 (by decide) (by decide)).frame]
  case isFalse => rfl


theorem State.raise_notes (s : State) {code : Nat} (hsev : sevOf code = .notice) (q : Src) (arg d0 d1 : Nat) :
    s.Notes (s.raise code q arg d0 d1) :=
  s.raise_notice hsev q arg d0 d1 ▸ s.sendRec_notes _

/-- A fold of steps that each touch only records and registers. -/
theorem State.foldl_notes {α : Type} {f : State → α → State} {l : List α}
    (h : ∀ (s : State), ∀ a ∈ l, s.Notes (f s a)) (s : State) : s.Notes (l.foldl f s) :=
  List.foldlRecOn l f (.refl s) fun t ht a ha => ht.trans (h t a ha)

theorem State.fuseRegs_notes (s : State) : s.Notes s.fuseRegs := by
  have hbase : ∀ i, R.secBoot ≠ R.tilAvail i ∧ R.secBoot ≠ R.tilSpare i := fun i => by
    simp only [R.secBoot, R.tilAvail, R.tilSpare]; omega
  have hcell : ∀ i n, R.secBoot ≠ R.tilCellmap i n := fun i n => by simp only [R.secBoot, R.tilCellmap]; omega
  unfold State.fuseRegs
  extract_lets t u
  have ht : s.Notes t := State.foldl_notes (fun v p _ => v.wr_notes _ (hbase p.1).1) s
  have hu : t.Notes u := State.foldl_notes (fun v p _ => v.wr_notes _ (hbase p.1).2) t
  exact ht.trans (hu.trans (State.foldl_notes (fun v p _ => v.wr_notes _ (hcell _ _)) u))

theorem sinceStart_ne_secBoot : ∀ p ∈ sinceStart, R.secBoot ≠ p.1 := by
  have hcl : ∀ c v, R.secBoot ≠ R.tilResloc c ∧ R.secBoot ≠ R.vecResloc c v := fun c v => by
    simp only [R.secBoot, R.tilResloc, R.vecResloc]; omega
  intro p hp
  rcases List.mem_append.1 hp with hunit | hdev
  · obtain ⟨c, -, hc⟩ := List.mem_flatMap.1 hunit
    rcases List.mem_cons.1 hc with rfl | hv
    · exact (hcl c 0).1
    · obtain ⟨v, -, rfl⟩ := List.mem_map.1 hv
      exact (hcl c v).2
  · exact (by decide : ∀ p ∈ [(R.memUeloc, 63), (R.memMgres, 41), (R.updEpoch, 32), (R.updLasterr, 31),
      (R.pwrConnloc, 31), (R.genIgnloc, 63)], R.secBoot ≠ p.1) p hdev

/-! ### What an end of work leaves -/

/-- The rails, the test access port but for the units that a self-test wiped, the ticks, RESET_N, SEC_BOOT, and that no
session is open, are as before. -/
structure State.KeepsPins (s t : State) : Prop where
  pins : t.pins = s.pins
  tap : t.tap = { s.tap with wiped := t.tap.wiped }
  ticks : t.ticks = s.ticks
  inReset : t.dev.inReset = s.dev.inReset
  boot : t.rd R.secBoot = s.rd R.secBoot
  session : s.sec.session = none → t.sec.session = none

namespace State.KeepsPins

protected theorem refl (s : State) : s.KeepsPins s := ⟨rfl, rfl, rfl, rfl, rfl, id⟩

protected theorem trans {s t u : State} (h : s.KeepsPins t) (k : t.KeepsPins u) : s.KeepsPins u :=
  ⟨k.pins.trans h.pins, by rw [k.tap, h.tap], k.ticks.trans h.ticks, k.inReset.trans h.inReset, k.boot.trans h.boot,
    k.session ∘ h.session⟩

/-- A fold of steps that each keep them. -/
theorem foldl {α : Type} {f : State → α → State} (h : ∀ (s : State) (a : α), s.KeepsPins (f s a)) (l : List α)
    (s : State) : s.KeepsPins (l.foldl f s) :=
  List.foldlRecOn l f (.refl s) fun t ht a _ => ht.trans (h t a)

end State.KeepsPins

theorem State.Notes.keepsPins {s t : State} (h : s.Notes t) : s.KeepsPins t := by
  refine ⟨?_, ?_, ?_, ?_, h.boot, fun hs => ?_⟩ <;> rw [h.frame]
  exact hs

theorem State.recordStop_notes (s : State) (code : Nat) (q : Src) : s.Notes (s.recordStop code q) :=
  (s.wr_notes _ (by decide)).trans (State.wr_notes _ _ (by decide))

theorem State.enterFault_keepsPins (s : State) : s.KeepsPins s.enterFault := by
  unfold State.enterFault
  split
  case isTrue => exact .refl s
  case isFalse => exact ⟨rfl, rfl, rfl, rfl, rfl, id⟩

theorem State.raiseAs_keepsPins (s : State) (sev : Sev) (code : Nat) (q : Src) (arg d0 d1 : Nat) (hold : Bool) :
    s.KeepsPins (s.raiseAs sev code q arg d0 d1 hold) := by
  unfold State.raiseAs
  extract_lets r t
  have ht : s.KeepsPins t := (s.sendRec_notes r).keepsPins
  clear_value t
  cases sev with
  | stop =>
    refine ht.trans (State.KeepsPins.trans ?_ (State.enterFault_keepsPins _))
    refine State.KeepsPins.trans ?_ (State.recordStop_notes _ code q).keepsPins
    exact ⟨rfl, rfl, rfl, rfl, rfl, id⟩
  | replay =>
    dsimp only
    split
    case isTrue => exact ht.trans ⟨rfl, rfl, rfl, rfl, rfl, id⟩
    case isFalse => exact ht
  | info => exact ht
  | notice => exact ht
  | degrade => exact ht

theorem State.raise_keepsPins (s : State) (code : Nat) (q : Src) (arg d0 d1 : Nat) :
    s.KeepsPins (s.raise code q arg d0 d1) :=
  s.raiseAs_keepsPins ..

/-- An event that follows a flag and its counter. -/
theorem State.flag_raise_keepsPins (s : State) {st cnt : Nat} (bit n code : Nat) (q : Src) (arg d0 d1 : Nat)
    (hst : R.secBoot ≠ st) (hcnt : R.secBoot ≠ cnt) : s.KeepsPins ((s.flag st bit cnt n).raise code q arg d0 d1) :=
  (s.flag_notes bit n hst hcnt).keepsPins.trans (State.raise_keepsPins ..)

theorem State.raiseLimited_keepsPins (s : State) (key gap code : Nat) (q : Src) (arg n : Nat)
    (mk : Nat → Nat × Nat) : s.KeepsPins (s.raiseLimited key gap code q arg n mk) := by
  unfold State.raiseLimited
  extract_lets put
  have hput : ∀ (t : State) v, t.KeepsPins (put t v) := fun t v => ⟨rfl, rfl, rfl, rfl, rfl, id⟩
  clear_value put
  split
  · exact (s.raise_keepsPins ..).trans (hput _ _)
  · split
    · exact (s.raise_keepsPins ..).trans (hput _ _)
    · exact hput _ _

/-! ### The stop of the slices (R210) -/

theorem State.setChan_keepsPins (s : State) (c : Nat) (x : Chan) : s.KeepsPins (s.setChan c x) :=
  ⟨rfl, rfl, rfl, rfl, rfl, id⟩

theorem State.dropLine_keepsPins (s : State) (l : Nat) : s.KeepsPins (s.dropLine l) :=
  ⟨rfl, rfl, rfl, rfl, rfl, id⟩

theorem State.touch_keepsPins (s : State) (l : Nat) (d : Bool) : s.KeepsPins (s.touch l d) :=
  ⟨rfl, rfl, rfl, rfl, rfl, id⟩

theorem State.moveRow_keepsPins (s : State) (ch row : Nat) : s.KeepsPins (s.moveRow ch row) := by
  have hchan : ∀ (x : Chan) bit cnt code (q : Src) arg d0 d1, R.secBoot ≠ cnt →
      s.KeepsPins (((s.setChan ch x).flag R.memStat bit cnt 1).raise code q arg d0 d1) := fun x _ _ _ _ _ _ _ hcnt =>
    (s.setChan_keepsPins ch x).trans (State.flag_raise_keepsPins _ _ _ _ _ _ _ _ (by decide) hcnt)
  unfold State.moveRow
  extract_lets x src drop
  split
  · exact hchan _ _ _ _ _ _ _ _ (by decide)
  · exact hchan _ _ _ _ _ _ _ _ (by decide)
  · split
    · exact hchan _ _ _ _ _ _ _ _ (by decide)
    · exact s.setChan_keepsPins ..

theorem State.corrected_keepsPins (s : State) (ch row : Nat) : s.KeepsPins (s.corrected ch row) :=
  (s.setChan_keepsPins ..).trans
    ((State.flag_notes _ 0 1 (by decide) (by decide)).keepsPins.trans (State.raiseLimited_keepsPins ..))

theorem State.lostGrains_keepsPins (s : State) (ch row : Nat) (grains : List Nat) :
    s.KeepsPins (s.lostGrains ch row grains) := by
  unfold State.lostGrains
  extract_lets s1 wiped shc t s2 x s3 s4
  have h1 : s.KeepsPins s1 := s.moveRow_keepsPins ch row
  have h2 : s1.KeepsPins t := ⟨rfl, rfl, rfl, rfl, rfl, id⟩
  have h3 : t.KeepsPins s2 := (t.wr_notes _ (by decide)).keepsPins
  have h4 : s2.KeepsPins s3 := s2.setChan_keepsPins ..
  have h5 : s3.KeepsPins s4 := (s3.flag_notes _ _ (by decide) (by decide)).keepsPins
  exact h1.trans (h2.trans (h3.trans (h4.trans (h5.trans (.foldl (fun s _ => s.raiseAs_keepsPins ..) grains s4)))))

theorem State.lostLine_keepsPins (s : State) (line : Nat) : s.KeepsPins (s.lostLine line) := by
  have hshc : ∀ k, R.secBoot ≠ R.shcStat k ∧ R.secBoot ≠ R.shcUecnt k := fun k => by
    simp only [R.secBoot, R.shcStat, R.shcUecnt]; omega
  unfold State.lostLine
  extract_lets k s1 shc t s2
  have h1 : s.KeepsPins t := ⟨rfl, rfl, rfl, rfl, rfl, id⟩
  have h2 : t.KeepsPins s2 := (t.flag_notes 1 1 (hshc _).1 (hshc _).2).keepsPins
  exact h1.trans (h2.trans (State.raiseAs_keepsPins ..))

theorem State.eccHbm_keepsPins (s : State) (a n : Nat) (errs : Errs) : s.KeepsPins (s.eccHbm a n errs).2 := by
  unfold State.eccHbm
  extract_lets hits lines lines2 s1 arr place s2 s3 ue rows s4
  have h1 : s.KeepsPins s1 := .foldl (fun s l => s.lostLine_keepsPins l) _ s
  have h2 : s1.KeepsPins s2 := .foldl (fun s l => s.dropLine_keepsPins l) _ s1
  have h3 : s2.KeepsPins s3 := .foldl (fun s e => s.corrected_keepsPins ..) _ s2
  have h4 : s3.KeepsPins s4 := .foldl (fun s e => s.lostGrains_keepsPins ..) _ s3
  exact h1.trans (h2.trans (h3.trans h4))

theorem State.mergeWrong_keepsPins (s : State) (base : Nat) (cws : List Nat) : s.KeepsPins (s.mergeWrong base cws) := by
  refine .foldl (fun t w => ?_) cws s
  exact ⟨rfl, rfl, rfl, rfl, rfl, id⟩

theorem State.blockWrite_keepsPins (s : State) (a : Nat) (bs : List Byte) : s.KeepsPins (s.blockWrite a bs) := by
  have hck : s.KeepsPins (s.ckUpdate a bs) := by
    unfold State.ckUpdate
    extract_lets b p e
    split
    case isTrue => exact .refl s
    case isFalse => exact ⟨rfl, rfl, rfl, rfl, rfl, id⟩
  have htouch : ∀ (t : State) n, t.KeepsPins (t.touchAll a n true) := fun t n =>
    .foldl (fun s l => s.touch_keepsPins l true) _ t
  exact (hck.trans (htouch _ bs.length)).trans ⟨rfl, rfl, rfl, rfl, rfl, id⟩

theorem State.applyComb_keepsPins (s : State) (e : Comb) (errs : Errs) : s.KeepsPins (s.applyComb e errs) := by
  have hshc : ∀ k, R.secBoot ≠ R.shcStat k ∧ R.secBoot ≠ R.shcOvfcnt k := fun k => by
    simp only [R.secBoot, R.shcStat, R.shcOvfcnt]; omega
  unfold State.applyComb
  extract_lets w base
  have h0 := s.eccHbm_keepsPins base 256 errs
  split
  rename_i o s0 he
  rw [he] at h0
  split
  · exact h0
  · extract_lets s1 old new ovs cur upd s2 k
    have h1 : s0.KeepsPins s1 := s0.mergeWrong_keepsPins 0 o.wrong
    have h2 : s.KeepsPins s2 := h0.trans (h1.trans (s1.blockWrite_keepsPins base upd))
    split
    · exact h2
    · exact h2.trans (State.flag_raise_keepsPins _ _ _ _ _ _ _ _ (hshc _).1 (hshc _).2)

theorem State.closeAll_keepsPins (s : State) (errs : Errs) : s.KeepsPins (s.closeAll errs) := by
  refine State.KeepsPins.trans ?_ (.foldl (fun s e => s.applyComb_keepsPins e errs) _ _)
  exact ⟨rfl, rfl, rfl, rfl, rfl, id⟩

theorem State.flushSlices_keepsPins (s : State) (errs : Errs) : s.KeepsPins (s.flushSlices errs) := by
  unfold State.flushSlices
  extract_lets s1 gone s2
  have h1 : s.KeepsPins s1 := s.closeAll_keepsPins errs
  have h2 : s1.KeepsPins s2 := .foldl (fun s l => s.lostLine_keepsPins l) _ s1
  exact (h1.trans h2).trans ⟨rfl, rfl, rfl, rfl, rfl, id⟩

/-! ### The end of a session whose work is abandoned (R442, R482) -/

/-- Of the device only the link layer differs, and no message has come into it. -/
structure State.KeepsButPorts (s t : State) : Prop where
  frame : t = { s with lnk := t.lnk }
  out : s.lnk.out = [] → t.lnk.out = []

namespace State.KeepsButPorts

protected theorem refl (s : State) : s.KeepsButPorts s := ⟨rfl, id⟩

protected theorem trans {s t u : State} (h : s.KeepsButPorts t) (k : t.KeepsButPorts u) : s.KeepsButPorts u :=
  ⟨by rw [k.frame, h.frame], k.out ∘ h.out⟩

end State.KeepsButPorts

theorem State.onPort_keepsButPorts (s : State) (p : Nat) (f : PortS → PortS) : s.KeepsButPorts (s.onPort p f) :=
  ⟨rfl, id⟩

theorem State.freeBack_keepsButPorts (s : State) (fs : List TxFlit) : s.KeepsButPorts (s.freeBack fs) := by
  refine List.foldlRecOn fs _ (.refl s) fun t ht f _ => ht.trans ?_
  split
  · exact t.onPort_keepsButPorts ..
  · exact .refl t

/-- With no message under way, a port that leaves service sends nothing again and ends no collective. -/
theorem State.rerouteAll_keepsButPorts (s : State) (p : Nat) (hout : s.lnk.out = []) :
    s.KeepsButPorts (s.rerouteAll p) := by
  unfold State.rerouteAll
  extract_lets inbox loose port lnk s1 s2 ms s3 lnk' s4 s5
  have h1 : s.KeepsButPorts s1 := ⟨rfl, id⟩
  have h2 : s1.KeepsButPorts s2 := by
    simp only [s2, h1.out hout, List.filter_nil, List.foldl_nil]
    exact .refl s1
  have hms : ms = [] := by simp only [ms, (h1.trans h2).out hout, List.filter_nil]
  have h3 : s2.KeepsButPorts s3 := s2.freeBack_keepsButPorts _
  have h4 : s3.KeepsButPorts s4 := ⟨rfl, fun h => by simp only [s4, h, List.filter_nil]⟩
  rw [hms, List.foldl_nil]
  exact h1.trans (h2.trans (h3.trans (h4.trans (s4.onPort_keepsButPorts ..))))

/-- The end of a session after its work was abandoned: no ring is open and no message under way (R442). -/
theorem State.endSession_frame (s : State) (hring : s.stw.rings = []) (hout : s.lnk.out = []) :
    ∃ c j h l p, s.endSession = { s with
      cl := c
      dev := { s.dev with job := j, holdPending := h }
      lnk := l
      priv := p
      sec := { s.sec with session := none } } := by
  unfold State.endSession
  split
  case isTrue hnone =>
    rw [Option.isNone_iff_eq_none] at hnone
    exact ⟨s.cl, s.dev.job, s.dev.holdPending, s.lnk, s.priv, by rw [← hnone]⟩
  case isFalse =>
    extract_lets dev priv sec s1 s2 up lnk s3 s4
    have hring1 : s1.stw.rings = [] := hring
    have h2 : s2 = s1 := by simp only [s2, hring1, List.foldl_nil]
    have h3 : s2.KeepsButPorts s3 := ⟨rfl, id⟩
    have h4 : s3.KeepsButPorts s4 :=
      List.foldlRecOn up _ (.refl s3) fun t ht p _ => ht.trans (t.onPort_keepsButPorts ..)
    have h24 : s1.KeepsButPorts s4 := h2 ▸ h3.trans h4
    have hend : s1.KeepsButPorts (up.foldl (fun s p => s.rerouteAll p) s4) :=
      List.foldlRecOn up _ h24 fun t ht p _ => ht.trans (t.rerouteAll_keepsButPorts p (ht.out hout))
    exact ⟨_, _, _, _, _, hend.frame⟩

/-- All work ends without records, and with it the session (R425, R482, R484). -/
theorem State.abandon_endSession_frame (s : State) : ∃ c j h l p, s.abandon.endSession = { s.abandon with
    cl := c
    dev := { s.abandon.dev with job := j, holdPending := h }
    lnk := l
    priv := p
    sec := { s.abandon.sec with session := none } } :=
  s.abandon.endSession_frame rfl rfl

theorem State.abandon_endSession_keepsPins (s : State) : s.KeepsPins s.abandon.endSession := by
  obtain ⟨c, j, h, l, p, hend⟩ := s.abandon_endSession_frame
  rw [hend]
  exact ⟨rfl, rfl, rfl, rfl, rfl, fun _ => rfl⟩

theorem State.abandon_endSession_session (s : State) : s.abandon.endSession.sec.session = none := by
  obtain ⟨c, j, h, l, p, hend⟩ := s.abandon_endSession_frame
  rw [hend]

theorem State.abandon_endSession_mem (s : State) : s.abandon.endSession.mem = s.mem := by
  obtain ⟨c, j, h, l, p, hend⟩ := s.abandon_endSession_frame
  rw [hend]
  rfl

theorem State.dropEpoch_keepsPins (s : State) : s.KeepsPins s.dropEpoch := ⟨rfl, rfl, rfl, rfl, rfl, id⟩

/-! ### The beginning of a start (R432, R437) -/

/-- The device at rest: no work, no session, no line in a slice and no armed epoch. -/
def State.rested (s : State) (errs : Errs) : State := (s.abandon.endSession.flushSlices errs).dropEpoch

theorem State.rested_keepsPins (s : State) (errs : Errs) : s.KeepsPins (s.rested errs) :=
  s.abandon_endSession_keepsPins.trans ((State.flushSlices_keepsPins _ errs).trans (State.dropEpoch_keepsPins _))

theorem State.rested_session (s : State) (errs : Errs) : (s.rested errs).sec.session = none :=
  (State.flushSlices_keepsPins _ errs).session s.abandon_endSession_session

theorem State.rested_lines (s : State) (errs : Errs) : (s.rested errs).shc.lines = [] := rfl

theorem State.rested_staged (s : State) (errs : Errs) : (s.rested errs).regs.staged = [] := rfl

theorem State.rested_phase (s : State) (errs : Errs) : (s.rested errs).cfg.phase = .idle := rfl

/-- What a cold start sets back at its beginning. -/
def State.Cleared (t : State) : Prop := t.sync.obj = [] ∧ t.time.meridian = 0 ∧ t.runGen = 0

/-- A cold reset keeps the sticky registers, and SEC_BOOT is one of them (R17, R450). -/
theorem State.coldReset_keepsPins (s : State) : s.KeepsPins s.coldReset := by
  refine State.KeepsPins.trans ?_ (State.fuseRegs_notes _).keepsPins
  refine ⟨rfl, rfl, rfl, rfl, ?_, id⟩
  simp only [State.rd, SMap.find_filter R.secBoot sticky, show sticky R.secBoot = true from rfl, if_true]

theorem State.coldReset_clears (s : State) : s.coldReset.regs.staged = [] ∧ s.coldReset.Cleared := by
  rw [State.coldReset, (State.fuseRegs_notes _).frame]
  exact ⟨rfl, rfl, rfl, rfl⟩

theorem State.warmReset_keepsPins (s : State) :
    s.KeepsPins s.warmReset ∧ s.warmReset.regs.staged = s.regs.staged := by
  unfold State.warmReset
  extract_lets s1 s2 clean
  have h1 : s.Notes s1 := State.foldl_notes (fun t p hp => by
    split
    case isTrue => exact t.wf_notes _ _ _ (sinceStart_ne_secBoot p hp)
    case isFalse => exact .refl t) s
  have h2 : s.Notes s2 := h1.trans <| by
    unfold s2
    split
    case isTrue => exact s1.wf_notes _ _ _ (by decide)
    case isFalse => exact .refl s1
  clear_value s2
  refine ⟨h2.keepsPins.trans ⟨rfl, rfl, rfl, rfl, rfl, id⟩, ?_⟩
  show s2.regs.staged = s.regs.staged
  rw [h2.frame]

theorem State.startPort_frame (s : State) (cold : Bool) (p : Nat) :
    s.startPort cold p = { s with lnk := (s.startPort cold p).lnk, pw := (s.startPort cold p).pw } := by
  unfold State.startPort
  extract_lets x
  split <;> rfl

theorem State.startPorts_frame (s : State) (cold : Bool) (ps : List Nat) :
    ∃ l w, ps.foldl (fun s p => s.startPort cold p) s = { s with lnk := l, pw := w } := by
  refine List.foldlRecOn (motive := fun t => ∃ l w, t = { s with lnk := l, pw := w }) ps _ ⟨s.lnk, s.pw, rfl⟩
    fun t ⟨l, w, ht⟩ p _ => ?_
  rw [t.startPort_frame cold p, ht]
  exact ⟨_, _, rfl⟩

/-- The units and ports as a start finds them. -/
def State.startReset (s : State) (cold : Bool) (errs : Errs) : State :=
  (List.range 32).foldl (fun s p => s.startPort cold p)
    (if cold then (s.rested errs).coldReset else (s.rested errs).warmReset)

theorem State.startReset_resets (s : State) (cold : Bool) (errs : Errs) :
    s.KeepsPins (s.startReset cold errs) ∧ (s.startReset cold errs).regs.staged = [] ∧
      (cold = true → (s.startReset cold errs).Cleared) := by
  unfold State.startReset
  generalize hu : (if cold then (s.rested errs).coldReset else (s.rested errs).warmReset) = u
  have hreset : s.KeepsPins u ∧ u.regs.staged = [] ∧ (cold = true → u.Cleared) := by
    subst hu
    cases cold with
    | true =>
      obtain ⟨hstaged, hclear⟩ := (s.rested errs).coldReset_clears
      exact ⟨(s.rested_keepsPins errs).trans (State.coldReset_keepsPins _), hstaged, fun _ => hclear⟩
    | false =>
      obtain ⟨hkeeps, hstaged⟩ := (s.rested errs).warmReset_keepsPins
      exact ⟨(s.rested_keepsPins errs).trans hkeeps, hstaged.trans (s.rested_staged errs),
        fun h => absurd h (by decide)⟩
  obtain ⟨l, w, hports⟩ := u.startPorts_frame cold (List.range 32)
  obtain ⟨hkeeps, hstaged, hclear⟩ := hreset
  rw [hports]
  exact ⟨hkeeps.trans ⟨rfl, rfl, rfl, rfl, rfl, id⟩, hstaged, hclear⟩

/-- A start is cold when asked for, when FORCECOLD is 1, after a loss of power, and out of a FAULT that forces it. -/
def State.coldDue (s : State) (cold : Bool) : Bool :=
  cold || bitsOf (s.rd R.secBoot) 4 1 = 1 || s.dev.powerLost || s.dev.faultCold

/-- The device in DAWN with its start begun. -/
def State.inDawn (s : State) (cold : Bool) : State :=
  { s with
    dev := { s.dev with
      st := .dawn
      start := some ⟨cold, s.ticks⟩
      powerLost := false
      faultCold := false
      job := false
      selfRefresh := true }
    cfg := { s.cfg with old := [] }
    sec := { s.sec with meas := Vector.replicate 8 0 }
    stw := { s.stw with halted := false } }

/-- LASTWARM tells the kind of the start (R437). -/
def State.recordKind (s : State) (cold : Bool) : State := s.wf R.secBoot 2 1 (if cold then 0 else 1)

/-- FORCECOLD is used up, with its flag and event (R437). -/
def State.useForce (s : State) : State :=
  ((s.wf R.secBoot 4 1 0).flag R.secStat 3 R.secForcecnt 1).raise 0x6003 srcSd 0 0 0

theorem State.startBegin_eq (s : State) (cold : Bool) (errs : Errs) : s.startBegin cold errs =
    let c := s.coldDue cold
    let t := ((s.startReset c errs).inDawn c).recordKind c
    if bitsOf (s.rd R.secBoot) 4 1 = 1 then t.useForce else t := rfl

/-- From s a start, cold or warm, has begun in t. -/
structure StartBegun (s t : State) (cold : Bool) : Prop where
  pins : t.pins = s.pins
  tap : t.tap = { s.tap with wiped := t.tap.wiped }
  inReset : t.dev.inReset = s.dev.inReset
  state : t.dev.st = .dawn
  start : t.dev.start = some ⟨cold, s.ticks⟩
  forced : bitsOf (t.rd R.secBoot) 4 1 = 0
  kind : bitsOf (t.rd R.secBoot) 2 1 = if cold then 0 else 1
  staged : t.regs.staged = []
  cleared : cold = true → t.Cleared

theorem StartBegun.of_notes {s t u : State} {cold : Bool} (h : StartBegun s t cold) (k : t.Notes u) :
    StartBegun s u cold := by
  have hboot := k.boot
  rw [k.frame] at hboot ⊢
  exact ⟨h.pins, h.tap, h.inReset, h.state, h.start, hboot ▸ h.forced, hboot ▸ h.kind, h.staged, h.cleared⟩

theorem State.startBegin_begun (s : State) (cold : Bool) (errs : Errs) :
    StartBegun s (s.startBegin cold errs) (s.coldDue cold) := by
  rw [s.startBegin_eq]
  extract_lets c t
  obtain ⟨hkeeps, hstaged, hclear⟩ := s.startReset_resets c errs
  have hstart : some (StartReq.mk c (s.startReset c errs).ticks) = some ⟨c, s.ticks⟩ := by rw [hkeeps.ticks]
  have hkind : bitsOf (t.rd R.secBoot) 2 1 = if c then 0 else 1 := by
    refine (State.bit_wf _ R.secBoot _ (by decide)).trans ?_
    cases c <;> rfl
  have hforce : bitsOf (t.rd R.secBoot) 4 1 = bitsOf (s.rd R.secBoot) 4 1 :=
    (State.bit_wf _ R.secBoot _ (by decide)).trans (congrArg (bitsOf · 4 1) hkeeps.boot)
  split
  case isTrue =>
    have hused : StartBegun s (t.wf R.secBoot 4 1 0) c := ⟨hkeeps.pins, hkeeps.tap, hkeeps.inReset, rfl, hstart,
      t.bit_wf R.secBoot 0 (by decide), (t.bit_wf R.secBoot 0 (by decide)).trans hkind, hstaged, hclear⟩
    exact hused.of_notes ((State.flag_notes _ 3 1 (by decide) (by decide)).trans (State.raise_notes _ rfl ..))
  case isFalse hno =>
    have hzero : bitsOf (s.rd R.secBoot) 4 1 = 0 := by
      have : bitsOf (s.rd R.secBoot) 4 1 < 2 := Nat.mod_lt _ (by decide)
      omega
    exact ⟨hkeeps.pins, hkeeps.tap, hkeeps.inReset, rfl, hstart, hforce.trans hzero, hkind, hstaged, hclear⟩

end Sys2Proof.Machine
end

section
/-!
SUPPORT. What a rail that comes or goes does, and the start that waits for RESET_N and the core rails. O50 rests on it.
-/

namespace Sys2Proof.Machine

/-! ### The core rails and a start that waits (R480 to R482) -/

theorem State.coreUp_iff (s : State) : s.coreUp = true ↔ ∀ r : Fin 13, r ≠ 0 → s.pins.rail[r] = true := by
  simp only [State.coreUp, List.all_eq_true, List.mem_range, Bool.or_eq_true, decide_eq_true_eq]
  constructor
  · intro h r hr
    have hup := (h r.val r.isLt).resolve_left fun h0 => hr (Fin.ext h0)
    simpa using hup
  · intro h i hi
    by_cases h0 : i = 0
    · exact .inl h0
    · refine .inr (h (Fin.ofNat 13 i) fun hz => h0 ?_)
      have hval : i % 13 = 0 := congrArg Fin.val hz
      rwa [Nat.mod_eq_of_lt hi] at hval

theorem State.startWaiting_bad {s : State} (h : s.pins.bad = true) : s.startWaiting = s := by
  simp [State.startWaiting, h]

theorem State.startWaiting_off {s : State} (hreset : s.dev.inReset = false) (hup : s.coreUp = true)
    (hbad : s.pins.bad = false) (hst : s.dev.st = .off) : s.startWaiting = s.startBegin true [] := by
  simp [State.startWaiting, hreset, hup, hbad, hst]

theorem State.startWaiting_dawn {s : State} (hreset : s.dev.inReset = false) (hup : s.coreUp = true)
    (hbad : s.pins.bad = false) (hst : s.dev.st = .dawn) (hstart : s.dev.start = none) :
    s.startWaiting = s.startBegin false [] := by
  simp [State.startWaiting, hreset, hup, hbad, hst, hstart]

/-- A start that waits begins or goes on waiting. -/
theorem State.startWaiting_cases (s : State) : s.startWaiting = s ∨ ∃ cold, s.startWaiting = s.startBegin cold [] := by
  unfold State.startWaiting
  split
  · exact .inl rfl
  · split
    · exact .inr ⟨true, rfl⟩
    · split
      · exact .inr ⟨false, rfl⟩
      · exact .inl rfl

/-- From s to t the rails and RESET_N are the same, and so is the test access port but for the units wiped. -/
def SamePins (s t : State) : Prop :=
  t.pins = s.pins ∧ t.dev.inReset = s.dev.inReset ∧ t.tap = { s.tap with wiped := t.tap.wiped }

theorem State.startBegin_samePins (s : State) (cold : Bool) (errs : Errs) : SamePins s (s.startBegin cold errs) :=
  have h := s.startBegin_begun cold errs
  ⟨h.pins, h.inReset, h.tap⟩

theorem State.startWaiting_samePins (s : State) : SamePins s s.startWaiting := by
  rcases s.startWaiting_cases with h | ⟨cold, h⟩
  · exact h.symm ▸ ⟨rfl, rfl, rfl⟩
  · exact h.symm ▸ s.startBegin_samePins cold []

/-! ### POWER_UP (R480, R481) -/

/-- A rail that precedes rail r is out of range. -/
def State.early (s : State) (r : Fin 13) : Bool :=
  (List.range 13).any fun i => railStep i < railStep r.val && !s.pins.rail[Fin.ofNat 13 i]

theorem State.early_iff (s : State) (r : Fin 13) :
    s.early r = true ↔ ∃ q : Fin 13, railStep q.val < railStep r.val ∧ s.pins.rail[q] = false := by
  simp only [State.early, List.any_eq_true, List.mem_range, Bool.and_eq_true, decide_eq_true_eq, Bool.not_eq_true']
  constructor
  · rintro ⟨i, hi, hstep, hdown⟩
    refine ⟨Fin.ofNat 13 i, ?_, hdown⟩
    rwa [Fin.val_ofNat, Nat.mod_eq_of_lt hi]
  · rintro ⟨q, hstep, hdown⟩
    exact ⟨q.val, q.isLt, hstep, by simpa using hdown⟩

/-- Rail r is in range; in OFF an early one is noted. -/
def State.railUp (s : State) (r : Fin 13) : State :=
  { s with pins := { (s.setRail r true).pins with
    bad := (s.setRail r true).pins.bad || (s.early r && s.dev.st = .off) } }

theorem exec_powerUp {s : State} {r : Fin 13} (h : s.pins.rail[r] = false) :
    exec (.powerUp r) s = .next (s.railUp r).startWaiting := by
  show execPowerUp r s = _
  simp only [execPowerUp, h, Bool.false_eq_true, if_false]
  rfl

/-- A rail out of turn holds the device in OFF. -/
theorem State.railUp_early {s : State} {r : Fin 13} (hst : s.dev.st = .off) (h : s.early r = true) :
    (s.railUp r).pins.bad = true := by
  simp [State.railUp, h, hst]

/-- The last core rail of an orderly power-up leaves no rail out of range and no order broken. -/
theorem State.railUp_last {s : State} {r : Fin 13} (hbad : s.pins.bad = false)
    (hlast : ∀ q : Fin 13, q ≠ r → s.pins.rail[q] = true) :
    (s.railUp r).pins.bad = false ∧ (s.railUp r).coreUp = true := by
  have hturn : s.early r = false := by
    rw [Bool.eq_false_iff, Ne, s.early_iff]
    rintro ⟨q, hstep, hdown⟩
    have hne : q ≠ r := fun h => Nat.lt_irrefl _ (h ▸ hstep)
    rw [hlast q hne] at hdown
    exact absurd hdown (by decide)
  refine ⟨by simp [State.railUp, State.setRail, hbad, hturn], ?_⟩
  rw [State.coreUp_iff]
  intro q _
  show (s.pins.rail.set r true)[q] = true
  by_cases hq : q = r
  · subst hq
    simp
  · have hne : r.val ≠ q.val := fun h => hq (Fin.ext h.symm)
    simpa [Vector.getElem_set, hne] using hlast q hq

/-! ### Loss of power (R484, R485) -/

theorem State.powerOff_state (s : State) : s.powerOff.dev.st = .off := by
  unfold State.powerOff
  split
  case isTrue h => exact h
  case isFalse => rfl

theorem State.powerOff_keepsPins (s : State) : s.KeepsPins s.powerOff := by
  unfold State.powerOff
  split
  case isTrue => exact .refl s
  case isFalse =>
    refine (s.abandon_endSession_keepsPins.trans (State.dropEpoch_keepsPins _)).trans ?_
    exact ⟨rfl, rfl, rfl, rfl, rfl, id⟩

/-- In OFF nothing of the work, the records and the session is left; the next start is cold. -/
theorem State.powerOff_loses {s : State} (h : s.dev.st ≠ .off) :
    s.powerOff.cl = [] ∧ s.powerOff.evt.queues = [] ∧ s.powerOff.sec.session = none ∧ s.powerOff.mem = s.mem ∧
      s.powerOff.dev.powerLost = true := by
  simp only [State.powerOff, if_neg h]
  exact ⟨trivial, trivial, s.abandon_endSession_session, s.abandon_endSession_mem, trivial⟩

theorem exec_coreRailLoss {s : State} {r : Fin 13} (hr : r ≠ 0) (h : s.pins.rail[r] = true) :
    exec (.coreRailLoss r) s = .next (s.setRail r false).powerOff := by
  show execCoreRailLoss r s = _
  simp [execCoreRailLoss, hr, h]

/-- Rail r is one of those that the tray may remove after a unit stop, and the stop is done (R485). -/
def State.MayGo (s : State) (r : Fin 13) : Prop :=
  s.dev.stopped = true ∧ s.dev.st = .fault ∧ (r = 1 ∨ 7 ≤ r.val)

theorem exec_powerDown_mayGo {s : State} {r : Fin 13} (hr : r ≠ 0) (h : s.pins.rail[r] = true) (hgo : s.MayGo r) :
    exec (.powerDown r) s =
      .next (if r = 1 then (s.setRail r false).loseRetained else s.setRail r false) := by
  obtain ⟨hstop, hst, hrail⟩ := hgo
  show execPowerDown r s = _
  simp [execPowerDown, hr, h, hstop, hst, hrail]

theorem exec_powerDown_other {s : State} {r : Fin 13} (hr : r ≠ 0) (h : s.pins.rail[r] = true) (hgo : ¬s.MayGo r) :
    exec (.powerDown r) s = .next (s.setRail r false).powerOff := by
  have hcond : (s.dev.stopped && decide (s.dev.st = .fault) && (decide (r = 1) || decide (7 ≤ r.val))) = false := by
    simpa [State.MayGo, and_assoc] using hgo
  show execPowerDown r s = _
  simp only [execPowerDown, hr, h, hcond]
  rfl

/-- A cluster without VRET, which alone kept the contents of a Dark one. -/
def Cl.withoutVret (x : Cl) : Cl :=
  let t := x.tile.map fun (q : Nat × TileSt) => (q.1, { q.2 with store := [] })
  if x.region = .dark then { x with tile := t, buf := [], imem := [], dmem := [] } else x

theorem State.clus_loseRetained (s : State) (c : Nat) : s.loseRetained.clus c = (s.clus c).withoutVret :=
  SMap.val_map Cl.reset Cl.withoutVret rfl s.cl c

/-- Without VRET a Dark cluster is still Dark, and no other cluster changes. -/
theorem State.loseRetained_clus (s : State) (c : Nat) : (s.loseRetained.clus c).region = (s.clus c).region ∧
    ((s.clus c).region ≠ .dark → s.loseRetained.clus c = s.clus c) := by
  rw [s.clus_loseRetained, Cl.withoutVret]
  split
  case isTrue hdark => exact ⟨rfl, fun h => absurd hdark h⟩
  case isFalse => exact ⟨rfl, fun _ => rfl⟩

/-- From s to t nothing of the device, the session, memory and the clusters is lost but what VRET kept (R485). -/
def LosesRetained (s t : State) (r : Fin 13) : Prop :=
  t.dev = s.dev ∧ t.sec = s.sec ∧ t.mem = s.mem ∧ (r ≠ 1 → t.cl = s.cl) ∧
    ∀ c, (t.clus c).region = (s.clus c).region ∧ ((s.clus c).region ≠ .dark → t.clus c = s.clus c)

/-! ### RESET_N and VAUX (R17, R450, R482, R494) -/

theorem exec_resetNFall_idle {s : State} (errs : Errs) (h : s.dev.st = .off ∨ s.dev.st = .dawn) :
    exec (.resetNFall errs) s = .next { s with dev := { s.dev with inReset := true } } := by
  show execResetNFall errs s = _
  simp [execResetNFall, h]

/-- RESET_N is low: the device is at rest in DAWN, its memory in self-refresh. -/
def State.heldInDawn (s : State) (errs : Errs) : State :=
  let t := { s with dev := { s.dev with inReset := true } }.rested errs
  { t with dev := { t.dev with st := .dawn, start := none, selfRefresh := true } }

theorem exec_resetNFall_works {s : State} (errs : Errs) (h : ¬(s.dev.st = .off ∨ s.dev.st = .dawn)) :
    exec (.resetNFall errs) s = .next (s.heldInDawn errs) := by
  exact if_neg (by simpa using h)

/-- RESET_N is high and the test access port is back at IDCODE (R494). -/
def State.released (s : State) : State :=
  { s with
    dev := { s.dev with inReset := false }
    tap := { s.tap with instr := 0x01, drives := false, highz := false, sel := none } }

/-- A start that RESET_N cut and a rail still holds begins later. -/
def State.startCut (s : State) : State := { s with dev := { s.dev with start := none } }

theorem exec_resetNRise_cut {s : State} {q : StartReq} (h : s.dev.inReset = true) (hst : s.dev.st = .dawn)
    (hq : s.dev.start = some q) : exec .resetNRise s =
      .next (if s.coreUp then s.released.startBegin q.cold [] else s.released.startCut) := by
  show execResetNRise s = _
  unfold execResetNRise
  rw [if_neg (by rw [h]; decide)]
  extract_lets t
  split
  case h_1 q' _ hq' =>
    obtain rfl : q = q' := Option.some.inj (hq.symm.trans hq')
    rfl
  case h_2 hno => exact absurd hq (hno q hst)

theorem exec_resetNRise_waits {s : State} (h : s.dev.inReset = true) (hno : s.dev.st ≠ .dawn ∨ s.dev.start = none) :
    exec .resetNRise s = .next s.released.startWaiting := by
  show execResetNRise s = _
  unfold execResetNRise
  rw [if_neg (by rw [h]; decide)]
  extract_lets t
  split
  case h_1 hst hq =>
    rcases hno with hst' | hq'
    · exact absurd hst hst'
    · exact absurd (hq.symm.trans hq') (by simp)
  case h_2 => rfl

/-- When RESET_N rises the port is at IDCODE and every pin has its function (R494). -/
theorem exec_resetNRise_port {s : State} (h : s.dev.inReset = true) :
    ∃ t, exec .resetNRise s = .next t ∧ SamePins s.released t := by
  have hwaits : (s.dev.st ≠ .dawn ∨ s.dev.start = none) → ∃ t, exec .resetNRise s = .next t ∧ SamePins s.released t :=
    fun hno => ⟨_, exec_resetNRise_waits h hno, s.released.startWaiting_samePins⟩
  cases hq : s.dev.start with
  | none => exact hwaits (.inr hq)
  | some q =>
    by_cases hst : s.dev.st = .dawn
    · refine ⟨_, exec_resetNRise_cut h hst hq, ?_⟩
      split
      · exact s.released.startBegin_samePins q.cold []
      · exact ⟨rfl, rfl, rfl⟩
    · exact hwaits (.inl hst)

/-- The start that waited for RESET_N begins as it was asked for (R482). -/
theorem exec_resetNRise_begins {s : State} (h : s.dev.inReset = true) (hup : s.coreUp = true)
    (hwait : s.dev.start.isSome = true ∨ s.pins.bad = false) (hst : s.dev.st = .dawn) :
    exec .resetNRise s = .next (s.released.startBegin ((s.dev.start.map (·.cold)).getD false) []) := by
  cases hq : s.dev.start with
  | some q => rw [exec_resetNRise_cut h hst hq, if_pos hup]; rfl
  | none =>
    have hbad : s.pins.bad = false := hwait.resolve_left (by simp [hq])
    rw [exec_resetNRise_waits h (.inr hq), State.startWaiting_dawn (s := s.released) rfl hup hbad hst hq]
    rfl

/-- Without VAUX the sticky registers are lost but for SEC_BOOT.BANK (R17, R450). -/
def State.stickyLost (s : State) : State :=
  ((s.wr R.genLaststop 0).wr R.genStoptime 0).wr R.secBoot (8 * bitsOf (s.rd R.secBoot) 3 1)


theorem exec_vauxRemoved (s : State) : exec .vauxRemoved s =
    let t := (s.setRail 0 false).powerOff.stickyLost
    .next { t with
      dev := { t.dev with powerLost := true }
      pins := { t.pins with trip := false }
      tap := Tap.reset
      sec := { t.sec with i3cAddr := none, resp := none } } := rfl

theorem State.rd_stickyLost (s : State) : s.stickyLost.rd R.genLaststop = 0 ∧ s.stickyLost.rd R.genStoptime = 0 ∧
    s.stickyLost.rd R.secBoot = 8 * bitsOf (s.rd R.secBoot) 3 1 := by
  have hbank : bitsOf (s.rd R.secBoot) 3 1 < 2 := Nat.mod_lt _ (by decide)
  have hfit : 8 * bitsOf (s.rd R.secBoot) 3 1 < 2 ^ 64 := by omega
  refine ⟨?_, ?_, ?_⟩
  · rw [State.stickyLost, State.rd_wr_ne _ _ (by decide), State.rd_wr_ne _ _ (by decide), State.rd_wr_same,
      Nat.zero_mod]
  · rw [State.stickyLost, State.rd_wr_ne _ _ (by decide), State.rd_wr_same, Nat.zero_mod]
  · rw [State.stickyLost, State.rd_wr_same, Nat.mod_eq_of_lt hfit]

/-! ### O50 -/

/-- A rail that comes into range. -/
theorem exec_powerUp_moves {s : State} {r : Fin 13} (h : s.pins.rail[r] = false) :
    ∃ t, exec (.powerUp r) s = .next t ∧ t.pins.rail = s.pins.rail.set r true ∧
      (s.dev.st = .off → (∃ q : Fin 13, railStep q.val < railStep r.val ∧ s.pins.rail[q] = false) →
        t.dev.st = .off ∧ t.pins.bad = true) ∧
      (s.dev.st = .off → s.dev.inReset = false → s.pins.bad = false → (∀ q : Fin 13, q ≠ r → s.pins.rail[q] = true) →
        t.dev.st = .dawn ∧ t.dev.start = some ⟨true, s.ticks⟩) := by
  refine ⟨_, exec_powerUp h, ?rail, ?early, ?last⟩
  case rail =>
    obtain ⟨hpins, -, -⟩ := (s.railUp r).startWaiting_samePins
    rw [hpins]
    rfl
  case early =>
    intro hst hq
    have hbad := State.railUp_early hst ((s.early_iff r).2 hq)
    rw [State.startWaiting_bad hbad]
    exact ⟨hst, hbad⟩
  case last =>
    intro hst hreset hbad hlast
    obtain ⟨hbad', hup⟩ := State.railUp_last hbad hlast
    rw [State.startWaiting_off (s := s.railUp r) hreset hup hbad' hst]
    have hbegun := (s.railUp r).startBegin_begun true []
    exact ⟨hbegun.state, hbegun.start⟩

/-- A core rail lost. -/
theorem State.powerOff_setRail (s : State) (r : Fin 13) :
    (s.setRail r false).powerOff.pins.rail = s.pins.rail.set r false ∧
      (s.setRail r false).powerOff.dev.st = .off := by
  refine ⟨?_, State.powerOff_state _⟩
  rw [(State.powerOff_keepsPins _).pins]
  rfl

theorem exec_powerDown_mayGo_loses {s : State} {r : Fin 13} (hr : r ≠ 0) (h : s.pins.rail[r] = true) (hgo : s.MayGo r) :
    ∃ t, exec (.powerDown r) s = .next t ∧ t.pins.rail = s.pins.rail.set r false ∧ LosesRetained s t r := by
  refine ⟨_, exec_powerDown_mayGo hr h hgo, ?_⟩
  split
  case isTrue hvret =>
    exact ⟨rfl, rfl, rfl, rfl, fun hne => absurd hvret hne, fun c => (s.setRail r false).loseRetained_clus c⟩
  case isFalse => exact ⟨rfl, rfl, rfl, rfl, fun _ => rfl, fun c => ⟨rfl, fun _ => rfl⟩⟩

/-- Settles O50: a core rail that goes takes the device to OFF by `powerOff`; a start that waits begins by
`startBegin`, which keeps the rails and the port (`startBegin_begun`); a fall of RESET_N brings the device to rest. -/
theorem railsAndReset : Obligations.RailsAndReset := by
  unfold Obligations.RailsAndReset
  refine ⟨fun r s => ⟨exec_powerUp_moves, fun hr h => ⟨?loss, ?mayGo, ?down⟩⟩,
    fun s => ⟨fun errs => ?fall, fun h => ?rise, ?vaux⟩⟩
  case loss =>
    obtain ⟨hrail, hst⟩ := s.powerOff_setRail r
    exact ⟨_, exec_coreRailLoss hr h, hrail, hst, fun hon => State.powerOff_loses hon⟩
  case mayGo =>
    intro hstop hst hrail
    exact exec_powerDown_mayGo_loses hr h ⟨hstop, hst, hrail⟩
  case down =>
    intro hgo
    exact ⟨_, exec_powerDown_other hr h hgo, s.powerOff_setRail r⟩
  case fall =>
    by_cases hidle : s.dev.st = .off ∨ s.dev.st = .dawn
    · exact ⟨_, exec_resetNFall_idle errs hidle, rfl, fun _ => rfl,
        fun hoff hdawn => absurd hidle (by simp [hoff, hdawn])⟩
    · have hrest := State.rested_keepsPins { s with dev := { s.dev with inReset := true } } errs
      exact ⟨_, exec_resetNFall_works errs hidle, hrest.inReset, fun h => absurd h hidle, fun _ _ =>
        ⟨rfl, rfl, State.rested_session _ errs, rfl, State.rested_lines _ errs, State.rested_staged _ errs,
          State.rested_phase _ errs⟩⟩
  case rise =>
    obtain ⟨t, ht, -, hreset, htap⟩ := exec_resetNRise_port h
    refine ⟨t, ht, hreset, by rw [htap]; rfl, by rw [htap]; rfl, by rw [htap]; rfl, ?_⟩
    intro hup hwait hst cold
    obtain rfl : _ = t := Host.Outcome.next.inj ((exec_resetNRise_begins h hup hwait hst).symm.trans ht)
    have hbegun := s.released.startBegin_begun ((s.dev.start.map (·.cold)).getD false) []
    exact ⟨hbegun.state, hbegun.start, hbegun.forced, hbegun.kind, hbegun.staged, hbegun.cleared⟩
  case vaux =>
    obtain ⟨hrail, hst⟩ := s.powerOff_setRail 0
    obtain ⟨hstop, htime, hboot⟩ := (s.setRail 0 false).powerOff.rd_stickyLost
    have hkept : (s.setRail 0 false).powerOff.rd R.secBoot = s.rd R.secBoot := (State.powerOff_keepsPins _).boot
    exact ⟨_, exec_vauxRemoved s, hrail, hst, rfl, hstop, htime, hkept ▸ hboot, rfl, rfl, rfl⟩

end Sys2Proof.Machine
end

section
/-!
SUPPORT. The test access port: when an instruction acts, when it is refused, and what each one that acts leaves. O58
rests on it.
-/

namespace Sys2Proof.Machine

/-! ### What each instruction does to the port (Table 17.9) -/

/-- The port as an instruction finds it that is loaded and acts. -/
def Tap.loaded (x : Tap) (code : BitVec 8) : Tap :=
  { x with instr := code, refused := false, drives := false, highz := false, sel := none }

theorem State.tapLoad_eq (s : State) {code : BitVec 8} (hcode : code ≠ 0x21) :
    s.tapLoad code = { s with tap := s.tap.loaded code } := by
  simp only [State.tapLoad, hcode, if_false]
  rfl

/-- The port after a memory self-test of unit d: its counts, and the unit among those wiped. -/
def Tap.selfTested (d : Fin 5) (f r : BitVec 16) (x : Tap) : Tap :=
  { x with
    data := f.setWidth 64 ||| (r.setWidth 64 <<< 16)
    wiped := if x.wiped.contains d then x.wiped else d :: x.wiped }

theorem Tap.mem_wiped_selfTested (d : Fin 5) (f r : BitVec 16) (x : Tap) : d ∈ (x.selfTested d f r).wiped := by
  unfold Tap.selfTested
  dsimp only
  split
  case isTrue h => simpa using h
  case isFalse => exact List.mem_cons_self ..

section
variable (s : State)

theorem exec_idcode : exec .idcode s =
    s.tapRun 0x01 true fun u => { u with tap := { u.tap with data := 0xBE020A5B } } := rfl

theorem exec_samplePreload (p d : BitVec 1208) : exec (.samplePreload p d) s =
    s.tapRun 0x02 true fun u => { u with tap := { u.tap with captured := p, latched := d } } := rfl

theorem exec_extest (p : BitVec 1208) : exec (.extest p) s = s.interconnect 0x03 p := rfl

theorem exec_extestPulse (p : BitVec 1208) : exec (.extestPulse p) s = s.interconnect 0x04 p := rfl

theorem exec_extestTrain (p : BitVec 1208) : exec (.extestTrain p) s = s.interconnect 0x05 p := rfl

theorem exec_clamp : exec .clamp s =
    s.tapRun 0x06 s.testOpen fun u => { u with tap := { u.tap with drives := true } }.forceCold := rfl

theorem exec_highz : exec .highz s =
    s.tapRun 0x07 s.testOpen fun u => { u with tap := { u.tap with highz := true } }.forceCold := rfl

theorem exec_mbist (d : Fin 5) (f r : BitVec 16) : exec (.mbist d f r) s =
    s.tapRun 0x20 s.testOpen fun u => { u with tap := u.tap.selfTested d f r }.forceCold := rfl

theorem exec_scan : exec .scan s = s.tapRun 0x22 (s.testOpen && s.fuse.debugOpen) State.forceCold := rfl

theorem exec_bypass (o : BitVec 8) : exec (.bypass o) s = s.tapRun 0xFF (o = 0xFF) id := rfl

end

/-! ### An instruction and its condition (R491, R492) -/

section
variable {s : State} {code : BitVec 8} {ok : Bool} {f : State → State}

theorem tapRun_noVaux (h : s.pins.rail[(0 : Fin 13)] = false) : s.tapRun code ok f = .next s := by
  simp only [State.tapRun, h, Bool.not_false, if_true]

theorem tapRun_acts (h : s.pins.rail[(0 : Fin 13)] = true) (hok : ok = true) :
    s.tapRun code ok f = .next (f (s.tapLoad code)) := by
  simp only [State.tapRun, h, hok, Bool.not_true, Bool.false_eq_true, if_false, if_true]

theorem tapRun_refused (h : s.pins.rail[(0 : Fin 13)] = true) (hok : ok = false) :
    s.tapRun code ok f = .next s.tapRefuse := by
  simp only [State.tapRun, h, hok, Bool.not_true, Bool.false_eq_true, if_false]

end

/-- The compliance enable holds and no release classes are enforced (R492, R495). -/
def State.TestEnabled (s : State) : Prop :=
  s.dev.inReset = true ∧ (∀ r : Fin 13, r ≠ 0 → s.pins.rail[r] = true) ∧ s.sec.sealMem = false

theorem State.testOpen_iff (s : State) : s.testOpen = true ↔ s.TestEnabled := by
  simp only [State.testOpen, State.compliance, Bool.and_eq_true, Bool.not_eq_true', s.coreUp_iff, and_assoc,
    State.TestEnabled]

/-- An instruction runs under a condition, which fails where the test entry points are closed. -/
def Gated (s : State) (i : Instr) : Prop :=
  ∃ code ok f, exec i s = s.tapRun code ok f ∧ (ok = true → s.testOpen = true)

theorem State.retreadOk_iff (s : State) (w : BitVec 16) : s.retreadOk w = true ↔ s.testOpen = true ∧
    bitsOf w.toNat 0 7 < 96 ∧ (s.clus (bitsOf w.toNat 0 7)).region = .dark ∧ bitsOf w.toNat 8 2 < 3 := by
  simp only [State.retreadOk, Bool.and_eq_true, decide_eq_true_eq, and_assoc]
  rfl

theorem retread_gated (s : State) (w : BitVec 16) : Gated s (.retread w) := by
  unfold Gated
  show ∃ code ok f, execRetread w s = _ ∧ _
  unfold execRetread
  exact ⟨_, _, _, rfl, fun h => ((s.retreadOk_iff _).1 h).1⟩

/-- The instructions that drive, release or test run only where the test entry points are open (R495, R496). -/
theorem gated_testInstructions (s : State) (p : BitVec 1208) (d : Fin 5) (f r w : BitVec 16) :
    ∀ i ∈ [Instr.extest p, .extestPulse p, .extestTrain p, .clamp, .highz, .mbist d f r, .scan, .retread w],
      Gated s i := by
  have hscan : (s.testOpen && s.fuse.debugOpen) = true → s.testOpen = true := fun h => (Bool.and_eq_true_iff.1 h).1
  simp only [List.forall_mem_cons, List.not_mem_nil, false_implies, implies_true, and_true]
  exact ⟨⟨_, _, _, exec_extest s p, id⟩, ⟨_, _, _, exec_extestPulse s p, id⟩, ⟨_, _, _, exec_extestTrain s p, id⟩,
    ⟨_, _, _, exec_clamp s, id⟩, ⟨_, _, _, exec_highz s, id⟩, ⟨_, _, _, exec_mbist s d f r, id⟩,
    ⟨_, _, _, exec_scan s, hscan⟩, retread_gated s w⟩

theorem Gated.refused {s : State} {i : Instr} (hi : Gated s i) (hvaux : s.pins.rail[(0 : Fin 13)] = true)
    (h : ¬s.TestEnabled) : exec i s = .next s.tapRefuse := by
  obtain ⟨code, ok, f, hexec, hopen⟩ := hi
  have hok : ok = false := by
    rw [Bool.eq_false_iff]
    exact fun htrue => h (s.testOpen_iff.1 (hopen htrue))
  rw [hexec, tapRun_refused hvaux hok]

theorem Gated.noVaux {s : State} {i : Instr} (hi : Gated s i) (hvaux : s.pins.rail[(0 : Fin 13)] = false) :
    exec i s = .next s := by
  obtain ⟨code, ok, f, hexec, -⟩ := hi
  rw [hexec, tapRun_noVaux hvaux]

/-! ### The instructions that force a cold start (R494) -/

/-- From s an instruction leaves the port as x and sets FORCECOLD. -/
def ForcesCold (s : State) (i : Instr) (x : Tap) : Prop :=
  ∃ t, exec i s = .next t ∧ t = { s with tap := x, regs := t.regs } ∧ SameRegs s t [R.secBoot] ∧
    t.rd R.secBoot = setBits (s.rd R.secBoot) 4 1 1 % 2 ^ 64

section
variable {s : State} {i : Instr} {code : BitVec 8} {ok : Bool}

/-- An instruction that acts on the port by g and then forces a cold start. -/
theorem forcesCold_of_tapRun (g : Tap → Tap) (hcode : code ≠ 0x21)
    (hexec : exec i s = s.tapRun code ok fun u => { u with tap := g u.tap }.forceCold)
    (hvaux : s.pins.rail[(0 : Fin 13)] = true) (hok : ok = true) : ForcesCold s i (g (s.tap.loaded code)) := by
  refine ⟨{ s with tap := g (s.tap.loaded code) }.forceCold, ?_, rfl, ⟨rfl, fun a ha => ?_⟩, ?_⟩
  · rw [hexec, tapRun_acts hvaux hok, s.tapLoad_eq hcode]
  · exact State.rd_wr_ne _ _ (by simpa using ha)
  · exact State.rd_wr_same ..

variable (hvaux : s.pins.rail[(0 : Fin 13)] = true) (hopen : s.testOpen = true)
include hvaux hopen

theorem interconnect_forcesCold (p : BitVec 1208) :
    ∀ q ∈ [(Instr.extest p, 0x03#8), (.extestPulse p, 0x04#8), (.extestTrain p, 0x05#8)],
      ForcesCold s q.1 { s.tap.loaded q.2 with
        captured := p
        drives := true } := by
  have hcell : ∀ i code, code ≠ 0x21#8 → exec i s = s.interconnect code p → ForcesCold s i { s.tap.loaded code with
      captured := p
      drives := true } := fun i code hcode hexec =>
    forcesCold_of_tapRun (fun x => { x with captured := p, drives := true }) hcode hexec hvaux hopen
  simp only [List.forall_mem_cons, List.not_mem_nil, false_implies, implies_true, and_true]
  exact ⟨hcell _ _ (by decide) (exec_extest s p), hcell _ _ (by decide) (exec_extestPulse s p),
    hcell _ _ (by decide) (exec_extestTrain s p)⟩

theorem clamp_forcesCold : ForcesCold s .clamp { s.tap.loaded 0x06 with drives := true } :=
  forcesCold_of_tapRun (fun x => { x with drives := true }) (by decide) (exec_clamp s) hvaux hopen

theorem highz_forcesCold : ForcesCold s .highz { s.tap.loaded 0x07 with highz := true } :=
  forcesCold_of_tapRun (fun x => { x with highz := true }) (by decide) (exec_highz s) hvaux hopen

theorem scan_forcesCold (hdebug : s.fuse.debugOpen = true) : ForcesCold s .scan (s.tap.loaded 0x22) :=
  forcesCold_of_tapRun id (by decide) (exec_scan s) hvaux (Bool.and_eq_true_iff.2 ⟨hopen, hdebug⟩)

end

/-- The counts that a memory self-test returns. -/
theorem toNat_setWidth_or_shiftLeft (f r : BitVec 16) :
    (f.setWidth 64 ||| (r.setWidth 64 <<< 16)).toNat = f.toNat + r.toNat * 2 ^ 16 := by
  have hf := f.isLt
  have hr := r.isLt
  rw [BitVec.toNat_or, BitVec.toNat_shiftLeft, BitVec.toNat_setWidth, BitVec.toNat_setWidth,
    Nat.mod_eq_of_lt (by omega), Nat.mod_eq_of_lt (by omega), Nat.shiftLeft_eq, Nat.mod_eq_of_lt (by omega),
    Nat.or_comm, ← Nat.shiftLeft_eq, ← Nat.shiftLeft_add_eq_or_of_lt hf, Nat.add_comm]

theorem mbist_forcesCold {s : State} (hvaux : s.pins.rail[(0 : Fin 13)] = true) (hopen : s.testOpen = true)
    (d : Fin 5) (f r : BitVec 16) : ForcesCold s (.mbist d f r) ((s.tap.loaded 0x20).selfTested d f r) :=
  forcesCold_of_tapRun (Tap.selfTested d f r) (by decide) (exec_mbist s d f r) hvaux hopen

/-! ### RETREAD (R496) -/

/-- A word of the cluster buffer, where no self-test has wiped the die. -/
theorem State.retreadWord_buffer {s : State} {w : BitVec 16} {n : Nat} (hstore : bitsOf w.toNat 8 2 = 1)
    (hn : n < 786432) (hwiped : ¬Fin.ofNat 5 (dieOf (bitsOf w.toNat 0 7)) ∈ s.tap.wiped) :
    (s.retreadWord w n).toNat = leNat ((s.clus (bitsOf w.toNat 0 7)).buf.bytes (8 * n) 8) := by
  have hfit : leNat ((s.clus (bitsOf w.toNat 0 7)).buf.bytes (8 * n) 8) < 2 ^ 64 := by
    simpa using leNat_lt ((s.clus (bitsOf w.toNat 0 7)).buf.bytes (8 * n) 8)
  have hcond : ¬(n ≥ 786432 ∨ s.tap.wiped.contains (Fin.ofNat 5 (dieOf (fld w 0 7))) = true) := by
    rw [not_or, List.contains_iff_mem]
    exact ⟨Nat.not_le.2 hn, hwiped⟩
  have hfld : fld w 8 2 = 1 := hstore
  simp only [State.retreadWord, hfld]
  rw [if_neg (by simpa using hcond), BitVec.toNat_ofNat]
  exact Nat.mod_eq_of_lt hfit

theorem exec_retread_selects {s : State} {w : BitVec 16} (hvaux : s.pins.rail[(0 : Fin 13)] = true)
    (hsel : s.tap.sel = none) (hok : s.retreadOk w = true) : exec (.retread w) s =
      .next { s with tap := { s.tap.loaded 0x21 with
        sel := some w
        pos := 0 } } := by
  show execRetread w s = _
  simp only [execRetread, hsel, Option.getD_none]
  rw [tapRun_acts hvaux hok]
  simp only [State.tapLoad, hsel]
  rfl

theorem exec_retread_refused {s : State} {w : BitVec 16} (hvaux : s.pins.rail[(0 : Fin 13)] = true)
    (hsel : s.tap.sel = none) (hok : s.retreadOk w = false) : exec (.retread w) s = .next s.tapRefuse := by
  show execRetread w s = _
  simp only [execRetread, hsel, Option.getD_none]
  exact tapRun_refused hvaux hok

theorem exec_retread_reads {s : State} {w : BitVec 16} (v : BitVec 16) (hvaux : s.pins.rail[(0 : Fin 13)] = true)
    (hsel : s.tap.sel = some w) (hok : s.retreadOk w = true) : exec (.retread v) s =
      .next { s with tap := { s.tap.loaded 0x21 with
        sel := some w
        pos := s.tap.pos + 1
        data := s.retreadWord w s.tap.pos } } := by
  show execRetread v s = _
  simp only [execRetread, hsel, Option.getD_some]
  rw [tapRun_acts hvaux hok]
  simp only [State.tapLoad, hsel]
  rfl

/-! ### O58 -/

/-- What an enabled RETREAD does: the first scan selects, a later one reads; one for a cluster that is not Dark is
refused. -/
theorem retread_enabled {s : State} (hvaux : s.pins.rail[(0 : Fin 13)] = true) (hopen : s.testOpen = true) :
    (∀ w : BitVec 16, s.tap.sel = none →
      (bitsOf w.toNat 0 7 < 96 → (s.clus (bitsOf w.toNat 0 7)).region = .dark → bitsOf w.toNat 8 2 < 3 →
        exec (.retread w) s = .next { s with tap := { s.tap.loaded 0x21 with
          sel := some w
          pos := 0 } }) ∧
      ((s.clus (bitsOf w.toNat 0 7)).region ≠ .dark → exec (.retread w) s = .next s.tapRefuse)) ∧
    (∀ w v : BitVec 16, s.tap.sel = some w → (s.clus (bitsOf w.toNat 0 7)).region = .dark →
      bitsOf w.toNat 0 7 < 96 → bitsOf w.toNat 8 2 = 1 → s.tap.pos < 786432 →
      ¬ Fin.ofNat 5 (dieOf (bitsOf w.toNat 0 7)) ∈ s.tap.wiped →
      ∃ x, exec (.retread v) s = .next { s with tap := { s.tap.loaded 0x21 with
          sel := some w
          pos := s.tap.pos + 1
          data := x } } ∧
        x.toNat = leNat ((s.clus (bitsOf w.toNat 0 7)).buf.bytes (8 * s.tap.pos) 8)) := by
  refine ⟨fun w hsel => ⟨fun hc hdark hstore => ?select, fun hdark => ?refuse⟩,
    fun w v hsel hdark hc hstore hpos hwiped => ?read⟩
  case select => exact exec_retread_selects hvaux hsel ((s.retreadOk_iff w).2 ⟨hopen, hc, hdark, hstore⟩)
  case refuse =>
    have hno : s.retreadOk w = false := by
      rw [Bool.eq_false_iff, Ne, s.retreadOk_iff]
      exact fun ⟨_, _, hd, _⟩ => hdark hd
    exact exec_retread_refused hvaux hsel hno
  case read =>
    have hok : s.retreadOk w = true := (s.retreadOk_iff w).2 ⟨hopen, hc, hdark, by omega⟩
    exact ⟨_, exec_retread_reads v hvaux hsel hok, State.retreadWord_buffer hstore hpos hwiped⟩

/-- The instructions that act at any time, and the codes that act as BYPASS. -/
theorem ungated_acts {s : State} (hvaux : s.pins.rail[(0 : Fin 13)] = true) :
    exec .idcode s = .next { s with tap := { s.tap.loaded 0x01 with data := 0xBE020A5B } } ∧
    (∀ p d, exec (.samplePreload p d) s = .next { s with tap := { s.tap.loaded 0x02 with
      captured := p
      latched := d } }) ∧
    exec (.bypass 0xFF) s = .next { s with tap := s.tap.loaded 0xFF } ∧
    (∀ o : BitVec 8, o ≠ 0xFF → exec (.bypass o) s = .next s.tapRefuse) := by
  refine ⟨?_, fun p d => ?_, ?_, fun o ho => ?_⟩
  · rw [exec_idcode, tapRun_acts hvaux rfl]
    rfl
  · rw [exec_samplePreload, tapRun_acts hvaux rfl]
    rfl
  · rw [exec_bypass, tapRun_acts hvaux (decide_eq_true rfl)]
    rfl
  · rw [exec_bypass, tapRun_refused hvaux (decide_eq_false ho)]

/-- A start that a rise of RESET_N begins with FORCECOLD set is cold (R437, R494). -/
theorem exec_resetNRise_forced {s t : State} (h : s.dev.inReset = true) (ht : exec .resetNRise s = .next t)
    (hforce : bitsOf (s.rd R.secBoot) 4 1 = 1) (hup : s.coreUp = true) (hst : s.dev.st = .dawn)
    (hwait : s.dev.start.isSome = true ∨ s.pins.bad = false) : t.dev.start = some ⟨true, s.ticks⟩ := by
  obtain rfl : _ = t := Host.Outcome.next.inj ((exec_resetNRise_begins h hup hwait hst).symm.trans ht)
  have hcold : ∀ c, s.released.coldDue c = true := fun c => by
    have : bitsOf (s.released.rd R.secBoot) 4 1 = 1 := hforce
    simp [State.coldDue, this]
  rw [(s.released.startBegin_begun _ []).start, hcold]
  rfl

/-- Settles O58: every instruction is a `tapRun`, which without VAUX does nothing and else acts or is refused by its
condition; the gated ones need `testOpen`, and those that drive, release or test also force a cold start. -/
theorem testAccessPort : Obligations.TestAccessPort := by
  unfold Obligations.TestAccessPort
  intro s loaded vaux enabled refused forces
  refine ⟨fun hvaux => ?vaux, fun h => ?rise, fun hvaux p d f r w c o => ?noVaux⟩
  case vaux =>
    obtain ⟨hid, hsample, hbypass, hother⟩ := ungated_acts hvaux
    refine ⟨hid, hsample, hbypass, hother, fun henabled => ?enabled, fun hno p d f r w i hi => ?disabled⟩
    case disabled => exact (gated_testInstructions s p d f r w i hi).refused hvaux hno
    case enabled =>
      have hopen : s.testOpen = true := s.testOpen_iff.2 henabled
      obtain ⟨hselect, hread⟩ := retread_enabled hvaux hopen
      refine ⟨interconnect_forcesCold hvaux hopen, clamp_forcesCold hvaux hopen, highz_forcesCold hvaux hopen,
        fun d f r => ?mbist, scan_forcesCold hvaux hopen, fun hdebug => ?closed, hselect, hread⟩
      case mbist =>
        exact ⟨_, mbist_forcesCold hvaux hopen d f r, Tap.mem_wiped_selfTested .., toNat_setWidth_or_shiftLeft f r, rfl⟩
      case closed => exact (exec_scan s).trans (tapRun_refused hvaux (by rw [hdebug, Bool.and_false]))
  case rise =>
    obtain ⟨t, ht, -, -, htap⟩ := exec_resetNRise_port h
    exact ⟨t, ht, by rw [htap]; rfl, by rw [htap]; rfl, by rw [htap]; rfl, exec_resetNRise_forced h ht⟩
  case noVaux =>
    intro i hi
    rcases List.mem_cons.1 hi with rfl | hi
    · rw [exec_idcode, tapRun_noVaux hvaux]
    rcases List.mem_cons.1 hi with rfl | hi
    · rw [exec_samplePreload, tapRun_noVaux hvaux]
    rcases List.mem_cons.1 hi with rfl | hi
    · rw [exec_bypass, tapRun_noVaux hvaux]
    exact (gated_testInstructions s p d f r w i hi).noVaux hvaux

end Sys2Proof.Machine
end
